-- ==== Sys2Proof/Word.lean ====
section
/-! DEFINITION. The word types of the SX-7280 and a register field. -/

namespace Sys2Proof

/-- A 64-bit word: the width of a g register, an address and a CSR (R17, R18). -/
abbrev Word := BitVec 64

/-- The smallest addressable unit of memory; multi-byte values are little-endian (R2). -/
abbrev Byte := BitVec 8

/-- The 256-bit vector register of R193. -/
abbrev VReg := BitVec 256

/-- A 5-bit register field of an instruction word (R122). -/
abbrev Reg := BitVec 5

end Sys2Proof
end

