-- ==== Sys2Proof/Syntax.lean ====
section
/-! DEFINITION. The steps of the SX-7280: one constructor for each row of the table of operations and events.
The encoded instructions come first, with their fields as the encoding tables of R122-R133 and R137-R244 give them;
a register field is its 5-bit number. A branch or jump immediate is held without imm[0], which is always 0 (R123).
The events of the part, which have no encoding, follow; what identifies one occurrence of an event (the number of a
packet in flight, a core, a cove, a context, or the value a host or the environment supplies) stands in the
state, in Machine.State.ev. The instructions without fields and the events stand last. -/

namespace Sys2Proof

/-- One step of the part: an instruction (with its fields) or an event. -/
inductive Instr where
  /-- LUI (R138): Writes the sign-extended 20-bit upper immediate, shifted left 12, to gd. -/
  | lui (rd : Reg) (imm : BitVec 20)
  /-- AUIPC (R138): Writes PC plus the sign-extended upper immediate to gd. -/
  | auipc (rd : Reg) (imm : BitVec 20)
  /-- JAL (R140): Jumps PC-relative and writes the return address to gd. -/
  | jal (rd : Reg) (imm : BitVec 20)
  /-- JALR (R140): Jumps to register plus offset with bit 0 cleared, trapping MISALIGNED if bit 1 is set, and writes the return address. -/
  | jalr (rd : Reg) (rs1 : Reg) (imm : BitVec 12)
  /-- BEQ (R140): Branches if the two registers are equal. -/
  | beq (rs1 : Reg) (rs2 : Reg) (imm : BitVec 12)
  /-- BNE (R140): Branches if the two registers differ. -/
  | bne (rs1 : Reg) (rs2 : Reg) (imm : BitVec 12)
  /-- BLT (R140): Branches if rs1 is less than rs2, signed. -/
  | blt (rs1 : Reg) (rs2 : Reg) (imm : BitVec 12)
  /-- BGE (R140): Branches if rs1 is greater than or equal to rs2, signed. -/
  | bge (rs1 : Reg) (rs2 : Reg) (imm : BitVec 12)
  /-- BLTU (R140): Branches if rs1 is less than rs2, unsigned. -/
  | bltu (rs1 : Reg) (rs2 : Reg) (imm : BitVec 12)
  /-- BGEU (R140): Branches if rs1 is greater than or equal to rs2, unsigned. -/
  | bgeu (rs1 : Reg) (rs2 : Reg) (imm : BitVec 12)
  /-- LB (R145): Loads a sign-extended byte. -/
  | lb (rd : Reg) (rs1 : Reg) (imm : BitVec 12)
  /-- LH (R145): Loads a sign-extended halfword. -/
  | lh (rd : Reg) (rs1 : Reg) (imm : BitVec 12)
  /-- LW (R145): Loads a sign-extended word. -/
  | lw (rd : Reg) (rs1 : Reg) (imm : BitVec 12)
  /-- LD (R145): Loads a doubleword. -/
  | ld (rd : Reg) (rs1 : Reg) (imm : BitVec 12)
  /-- LBU (R145): Loads a zero-extended byte. -/
  | lbu (rd : Reg) (rs1 : Reg) (imm : BitVec 12)
  /-- LHU (R145): Loads a zero-extended halfword. -/
  | lhu (rd : Reg) (rs1 : Reg) (imm : BitVec 12)
  /-- LWU (R145): Loads a zero-extended word. -/
  | lwu (rd : Reg) (rs1 : Reg) (imm : BitVec 12)
  /-- SB (R145): Stores a byte. -/
  | sb (rs1 : Reg) (rs2 : Reg) (imm : BitVec 12)
  /-- SH (R145): Stores a halfword. -/
  | sh (rs1 : Reg) (rs2 : Reg) (imm : BitVec 12)
  /-- SW (R145): Stores a word. -/
  | sw (rs1 : Reg) (rs2 : Reg) (imm : BitVec 12)
  /-- SD (R145): Stores a doubleword. -/
  | sd (rs1 : Reg) (rs2 : Reg) (imm : BitVec 12)
  /-- ADDI (R138): Adds the immediate to rs1. -/
  | addi (rd : Reg) (rs1 : Reg) (imm : BitVec 12)
  /-- SLTI (R138): Sets gd to 1 if rs1 is less than the immediate, signed. -/
  | slti (rd : Reg) (rs1 : Reg) (imm : BitVec 12)
  /-- SLTIU (R138): Sets gd to 1 if rs1 is less than the immediate, unsigned. -/
  | sltiu (rd : Reg) (rs1 : Reg) (imm : BitVec 12)
  /-- XORI (R138): Exclusive-ors rs1 with the immediate. -/
  | xori (rd : Reg) (rs1 : Reg) (imm : BitVec 12)
  /-- ORI (R138): Ors rs1 with the immediate. -/
  | ori (rd : Reg) (rs1 : Reg) (imm : BitVec 12)
  /-- ANDI (R138): Ands rs1 with the immediate. -/
  | andi (rd : Reg) (rs1 : Reg) (imm : BitVec 12)
  /-- SLLI (R138): Shifts rs1 left by a 6-bit amount. -/
  | slli (rd : Reg) (rs1 : Reg) (sh : BitVec 6)
  /-- SRLI (R138): Shifts rs1 logically right by a 6-bit amount. -/
  | srli (rd : Reg) (rs1 : Reg) (sh : BitVec 6)
  /-- SRAI (R138): Shifts rs1 arithmetically right by a 6-bit amount. -/
  | srai (rd : Reg) (rs1 : Reg) (sh : BitVec 6)
  /-- ADD (R138): Adds two registers. -/
  | add (rd : Reg) (rs1 : Reg) (rs2 : Reg)
  /-- SUB (R138): Subtracts rs2 from rs1. -/
  | sub (rd : Reg) (rs1 : Reg) (rs2 : Reg)
  /-- SLL (R138): Shifts rs1 left by rs2[5:0]. -/
  | sll (rd : Reg) (rs1 : Reg) (rs2 : Reg)
  /-- SLT (R138): Sets gd to 1 if rs1 is less than rs2, signed. -/
  | slt (rd : Reg) (rs1 : Reg) (rs2 : Reg)
  /-- SLTU (R138): Sets gd to 1 if rs1 is less than rs2, unsigned. -/
  | sltu (rd : Reg) (rs1 : Reg) (rs2 : Reg)
  /-- XOR (R138): Exclusive-ors two registers. -/
  | xor (rd : Reg) (rs1 : Reg) (rs2 : Reg)
  /-- SRL (R138): Shifts rs1 logically right by rs2[5:0]. -/
  | srl (rd : Reg) (rs1 : Reg) (rs2 : Reg)
  /-- SRA (R138): Shifts rs1 arithmetically right by rs2[5:0]. -/
  | sra (rd : Reg) (rs1 : Reg) (rs2 : Reg)
  /-- OR (R138): Ors two registers. -/
  | or (rd : Reg) (rs1 : Reg) (rs2 : Reg)
  /-- AND (R138): Ands two registers. -/
  | and (rd : Reg) (rs1 : Reg) (rs2 : Reg)
  /-- FENCE (R152): Inherited fence that acts as fence.sc device whatever its fm, pred and succ fields. -/
  | fence (fm : BitVec 4) (pred : BitVec 4) (succ : BitVec 4)
  /-- ADDIW (R138): Adds the immediate on 32 bits and sign-extends. -/
  | addiw (rd : Reg) (rs1 : Reg) (imm : BitVec 12)
  /-- SLLIW (R138): Shifts the low word left by a 5-bit amount and sign-extends. -/
  | slliw (rd : Reg) (rs1 : Reg) (sh : BitVec 5)
  /-- SRLIW (R138): Shifts the low word logically right by a 5-bit amount and sign-extends. -/
  | srliw (rd : Reg) (rs1 : Reg) (sh : BitVec 5)
  /-- SRAIW (R138): Shifts the low word arithmetically right by a 5-bit amount. -/
  | sraiw (rd : Reg) (rs1 : Reg) (sh : BitVec 5)
  /-- ADDW (R138): Adds on 32 bits and sign-extends. -/
  | addw (rd : Reg) (rs1 : Reg) (rs2 : Reg)
  /-- SUBW (R138): Subtracts on 32 bits and sign-extends. -/
  | subw (rd : Reg) (rs1 : Reg) (rs2 : Reg)
  /-- SLLW (R138): Shifts the low word left by rs2[4:0] and sign-extends. -/
  | sllw (rd : Reg) (rs1 : Reg) (rs2 : Reg)
  /-- SRLW (R138): Shifts the low word logically right by rs2[4:0]. -/
  | srlw (rd : Reg) (rs1 : Reg) (rs2 : Reg)
  /-- SRAW (R138): Shifts the low word arithmetically right by rs2[4:0]. -/
  | sraw (rd : Reg) (rs1 : Reg) (rs2 : Reg)
  /-- MUL (R139): Writes the low 64 bits of the product. -/
  | mul (rd : Reg) (rs1 : Reg) (rs2 : Reg)
  /-- MULH (R139): Writes the high 64 bits of the signed product. -/
  | mulh (rd : Reg) (rs1 : Reg) (rs2 : Reg)
  /-- MULHSU (R139): Writes the high 64 bits of the signed-by-unsigned product. -/
  | mulhsu (rd : Reg) (rs1 : Reg) (rs2 : Reg)
  /-- MULHU (R139): Writes the high 64 bits of the unsigned product. -/
  | mulhu (rd : Reg) (rs1 : Reg) (rs2 : Reg)
  /-- DIV (R139): Signed 64-bit division on the core's divider. -/
  | div (rd : Reg) (rs1 : Reg) (rs2 : Reg)
  /-- DIVU (R139): Unsigned 64-bit division on the core's divider. -/
  | divu (rd : Reg) (rs1 : Reg) (rs2 : Reg)
  /-- REM (R139): Signed 64-bit remainder on the core's divider. -/
  | rem (rd : Reg) (rs1 : Reg) (rs2 : Reg)
  /-- REMU (R139): Unsigned 64-bit remainder on the core's divider. -/
  | remu (rd : Reg) (rs1 : Reg) (rs2 : Reg)
  /-- MULW (R139): Writes the sign-extended low 32 bits of the product. -/
  | mulw (rd : Reg) (rs1 : Reg) (rs2 : Reg)
  /-- DIVW (R139): Signed 32-bit division, sign-extended. -/
  | divw (rd : Reg) (rs1 : Reg) (rs2 : Reg)
  /-- DIVUW (R139): Unsigned 32-bit division, sign-extended. -/
  | divuw (rd : Reg) (rs1 : Reg) (rs2 : Reg)
  /-- REMW (R139): Signed 32-bit remainder, sign-extended. -/
  | remw (rd : Reg) (rs1 : Reg) (rs2 : Reg)
  /-- REMUW (R139): Unsigned 32-bit remainder, sign-extended. -/
  | remuw (rd : Reg) (rs1 : Reg) (rs2 : Reg)
  /-- CSRRW (R153): Reads a CSR unless rd is g0 and writes it with rs1. -/
  | csrrw (rd : Reg) (rs1 : Reg) (csr : BitVec 12)
  /-- CSRRS (R153): Reads a CSR and sets the bits of rs1 if the rs1 field is non-zero. -/
  | csrrs (rd : Reg) (rs1 : Reg) (csr : BitVec 12)
  /-- CSRRC (R153): Reads a CSR and clears the bits of rs1 if the rs1 field is non-zero. -/
  | csrrc (rd : Reg) (rs1 : Reg) (csr : BitVec 12)
  /-- CSRRWI (R153): Reads a CSR unless rd is g0 and writes it with a 5-bit immediate. -/
  | csrrwi (rd : Reg) (csr : BitVec 12) (uimm : BitVec 5)
  /-- CSRRSI (R153): Reads a CSR and sets the immediate's bits if it is non-zero. -/
  | csrrsi (rd : Reg) (csr : BitVec 12) (uimm : BitVec 5)
  /-- CSRRCI (R153): Reads a CSR and clears the immediate's bits if it is non-zero. -/
  | csrrci (rd : Reg) (csr : BitVec 12) (uimm : BitVec 5)
  /-- FLW (R155): Loads a 32-bit word unchanged into an f register. -/
  | flw (rd : Reg) (rs1 : Reg) (imm : BitVec 12)
  /-- FSW (R155): Stores an f register unchanged as a 32-bit word. -/
  | fsw (rs1 : Reg) (rs2 : Reg) (imm : BitVec 12)
  /-- FMADD_S (R156): Computes rs1 × rs2 + rs3 with one rounding. -/
  | fmaddS (rd : Reg) (rs1 : Reg) (rs2 : Reg) (rs3 : Reg) (rm : BitVec 3)
  /-- FMSUB_S (R156): Computes rs1 × rs2 − rs3 with one rounding. -/
  | fmsubS (rd : Reg) (rs1 : Reg) (rs2 : Reg) (rs3 : Reg) (rm : BitVec 3)
  /-- FNMSUB_S (R156): Computes −(rs1 × rs2) + rs3 with one rounding. -/
  | fnmsubS (rd : Reg) (rs1 : Reg) (rs2 : Reg) (rs3 : Reg) (rm : BitVec 3)
  /-- FNMADD_S (R156): Computes −(rs1 × rs2) − rs3 with one rounding. -/
  | fnmaddS (rd : Reg) (rs1 : Reg) (rs2 : Reg) (rs3 : Reg) (rm : BitVec 3)
  /-- FADD_S (R156): Adds two FP32 values, rounded. -/
  | faddS (rd : Reg) (rs1 : Reg) (rs2 : Reg) (rm : BitVec 3)
  /-- FSUB_S (R156): Subtracts two FP32 values, rounded. -/
  | fsubS (rd : Reg) (rs1 : Reg) (rs2 : Reg) (rm : BitVec 3)
  /-- FMUL_S (R156): Multiplies two FP32 values, rounded. -/
  | fmulS (rd : Reg) (rs1 : Reg) (rs2 : Reg) (rm : BitVec 3)
  /-- FDIV_S (R156): Divides two FP32 values, rounded, over 24 cycles. -/
  | fdivS (rd : Reg) (rs1 : Reg) (rs2 : Reg) (rm : BitVec 3)
  /-- FSQRT_S (R156): Takes the FP32 square root, rounded. -/
  | fsqrtS (rd : Reg) (rs1 : Reg) (rm : BitVec 3)
  /-- FSGNJ_S (R156): Copies rs1 with the sign of rs2. -/
  | fsgnjS (rd : Reg) (rs1 : Reg) (rs2 : Reg)
  /-- FSGNJN_S (R156): Copies rs1 with the inverted sign of rs2. -/
  | fsgnjnS (rd : Reg) (rs1 : Reg) (rs2 : Reg)
  /-- FSGNJX_S (R156): Copies rs1 with the xor of both signs. -/
  | fsgnjxS (rd : Reg) (rs1 : Reg) (rs2 : Reg)
  /-- FMIN_S (R156): Writes minimumNumber of two FP32 values. -/
  | fminS (rd : Reg) (rs1 : Reg) (rs2 : Reg)
  /-- FMAX_S (R156): Writes maximumNumber of two FP32 values. -/
  | fmaxS (rd : Reg) (rs1 : Reg) (rs2 : Reg)
  /-- FCVT_W_S (R156): Converts FP32 to a signed 32-bit integer under R113. -/
  | fcvtWS (rd : Reg) (rs1 : Reg) (rm : BitVec 3)
  /-- FCVT_WU_S (R156): Converts FP32 to an unsigned 32-bit integer. -/
  | fcvtWuS (rd : Reg) (rs1 : Reg) (rm : BitVec 3)
  /-- FCVT_L_S (R156): Converts FP32 to a signed 64-bit integer. -/
  | fcvtLS (rd : Reg) (rs1 : Reg) (rm : BitVec 3)
  /-- FCVT_LU_S (R156): Converts FP32 to an unsigned 64-bit integer. -/
  | fcvtLuS (rd : Reg) (rs1 : Reg) (rm : BitVec 3)
  /-- FCVT_S_W (R156): Converts a signed 32-bit integer to FP32. -/
  | fcvtSW (rd : Reg) (rs1 : Reg) (rm : BitVec 3)
  /-- FCVT_S_WU (R156): Converts an unsigned 32-bit integer to FP32. -/
  | fcvtSWu (rd : Reg) (rs1 : Reg) (rm : BitVec 3)
  /-- FCVT_S_L (R156): Converts a signed 64-bit integer to FP32. -/
  | fcvtSL (rd : Reg) (rs1 : Reg) (rm : BitVec 3)
  /-- FCVT_S_LU (R156): Converts an unsigned 64-bit integer to FP32. -/
  | fcvtSLu (rd : Reg) (rs1 : Reg) (rm : BitVec 3)
  /-- FMV_X_W (R156): Moves an f register's bits, sign-extended, to gd. -/
  | fmvXW (rd : Reg) (rs1 : Reg)
  /-- FMV_W_X (R156): Moves gs[31:0] into an f register. -/
  | fmvWX (rd : Reg) (rs1 : Reg)
  /-- FEQ_S (R156): Sets gd to 1 if two FP32 values are equal. -/
  | feqS (rd : Reg) (rs1 : Reg) (rs2 : Reg)
  /-- FLT_S (R156): Sets gd to 1 if rs1 is less than rs2. -/
  | fltS (rd : Reg) (rs1 : Reg) (rs2 : Reg)
  /-- FLE_S (R156): Sets gd to 1 if rs1 is less than or equal to rs2. -/
  | fleS (rd : Reg) (rs1 : Reg) (rs2 : Reg)
  /-- FCLASS_S (R156): Writes a 10-bit class mask of an FP32 value. -/
  | fclassS (rd : Reg) (rs1 : Reg)
  /-- MIGR_S (R161): Migrates the thread to a named core carrying PC, P, g1–g16 and carried CSRs. -/
  | migrS (rs1 : Reg)
  /-- MIGR_L (R161): Migrates the thread to a named core carrying also g17–g24. -/
  | migrL (rs1 : Reg)
  /-- MIGR_H (R161): Migrates the thread to a named core carrying also the hatbox. -/
  | migrH (rs1 : Reg)
  /-- MIGR_A (R161): Migrates the thread to the home of an address, carrying the hatbox. -/
  | migrA (rs1 : Reg)
  /-- TWAIT (R63): Parks until a TCB is done, faulted or aborted and returns that status. -/
  | twait (rd : Reg) (rs1 : Reg)
  /-- GANG (R45): Requests a gang of 2, 4 or 8 cores led from slot 15 and returns formed, busy or ineligible. -/
  | gang (rd : Reg) (rs1 : Reg)
  /-- PCMP_EQ (R142): Sets a predicate bit if two registers are equal. -/
  | pcmpEq (rd : Reg) (rs1 : Reg) (rs2 : Reg)
  /-- PCMP_NE (R142): Sets a predicate bit if two registers differ. -/
  | pcmpNe (rd : Reg) (rs1 : Reg) (rs2 : Reg)
  /-- PCMP_LT (R142): Sets a predicate bit if rs1 is less than rs2, signed. -/
  | pcmpLt (rd : Reg) (rs1 : Reg) (rs2 : Reg)
  /-- PCMP_GE (R142): Sets a predicate bit if rs1 is at least rs2, signed. -/
  | pcmpGe (rd : Reg) (rs1 : Reg) (rs2 : Reg)
  /-- PCMP_LTU (R142): Sets a predicate bit if rs1 is less than rs2, unsigned. -/
  | pcmpLtu (rd : Reg) (rs1 : Reg) (rs2 : Reg)
  /-- PCMP_GEU (R142): Sets a predicate bit if rs1 is at least rs2, unsigned. -/
  | pcmpGeu (rd : Reg) (rs1 : Reg) (rs2 : Reg)
  /-- PAND (R142): Ands two predicate bits. -/
  | pand (rd : Reg) (rs1 : Reg) (rs2 : Reg)
  /-- POR (R142): Ors two predicate bits. -/
  | por (rd : Reg) (rs1 : Reg) (rs2 : Reg)
  /-- PXOR (R142): Exclusive-ors two predicate bits. -/
  | pxor (rd : Reg) (rs1 : Reg) (rs2 : Reg)
  /-- PANDN (R142): Ands one predicate bit with the complement of another. -/
  | pandn (rd : Reg) (rs1 : Reg) (rs2 : Reg)
  /-- PMOV (R142): Copies the predicate word P zero-extended into gd. -/
  | pmov (rd : Reg)
  /-- PWR (R142): Writes predicate bits 1–31 from a register. -/
  | pwr (rs1 : Reg)
  /-- CSEL (R142): Selects rs1 or rs2 into gd according to a predicate bit. -/
  | csel (rd : Reg) (rs1 : Reg) (rs2 : Reg) (p : BitVec 5)
  /-- BP (R142): Branches if a predicate bit is 1. -/
  | bp (p : BitVec 5) (imm : BitVec 12)
  /-- BNP (R142): Branches if a predicate bit is 0. -/
  | bnp (p : BitVec 5) (imm : BitVec 12)
  /-- ITNEXT (R67): Branches if the claimed chunk is exhausted, otherwise unpacks the next index into gx to gx+2. -/
  | itnext (x : Reg) (imm : BitVec 12)
  /-- LDK (R143): Loads constant-window word kn into gd. -/
  | ldk (rd : Reg) (n : BitVec 8)
  /-- FLDK (R143): Loads bits [31:0] of constant-window word kn into fd. -/
  | fldk (rd : Reg) (n : BitVec 8)
  /-- MSEND (R166): Sends a header and 1–8 payload registers to a slot's receive queue and parks until accepted or refused. -/
  | msend (rd : Reg) (rs1 : Reg) (rs2 : Reg) (n : BitVec 3)
  /-- MSENDR (R166): Sends a message whose payload is read from local store and parks until accepted or refused. -/
  | msendr (rd : Reg) (rs1 : Reg) (rs2 : Reg)
  /-- MPOLL (R167): Returns the header of a whole message at the head of the receive queue, or 0, without popping. -/
  | mpoll (rd : Reg)
  /-- KLOOK (R35): Looks up a key in the key map. -/
  | klook (rd : Reg) (rs1 : Reg)
  /-- KLOOK_C (R35): Looks up a key and claims a FREE slot for it if absent. -/
  | klookC (rd : Reg) (rs1 : Reg) (rs2 : Reg)
  /-- KLOOK_P (R35): Looks up a key and pins it if bound. -/
  | klookP (rd : Reg) (rs1 : Reg)
  /-- KBIND (R35): Makes the owner's PENDING entry BOUND and wakes kwait waiters. -/
  | kbind (rd : Reg) (rs2 : Reg)
  /-- KPIN (R35): Adds one to a bound entry's pin count. -/
  | kpin (rd : Reg) (rs2 : Reg)
  /-- KUNPIN (R35): Subtracts one from a bound entry's pin count and wakes kwait.u waiters. -/
  | kunpin (rd : Reg) (rs2 : Reg)
  /-- KUNBIND (R35): Frees an unpinned bound entry and wakes kwait.u waiters. -/
  | kunbind (rd : Reg) (rs2 : Reg)
  /-- KABANDON (R35): Frees the owner's PENDING entry and wakes kwait waiters. -/
  | kabandon (rd : Reg) (rs2 : Reg)
  /-- KVICT (R35): Proposes the lowest FREE slot or the oldest unpinned bound slot without changing the map. -/
  | kvict (rd : Reg)
  /-- KWAIT (R35): Parks while a slot is PENDING, otherwise returns HIT or MISS. -/
  | kwait (rd : Reg) (rs2 : Reg)
  /-- KWAIT_U (R37): Parks until the next successful unpin or unbind on the map. -/
  | kwaitU (rd : Reg)
  /-- GJOIN (R171): Adds a member to a group object at its home. -/
  | gjoin (rs1 : Reg)
  /-- GLEAVE (R171): Removes a member from a group object, possibly completing the phase. -/
  | gleave (rs1 : Reg)
  /-- GBAR (R171): Arrives at the group's current phase and parks until it completes. -/
  | gbar (rs1 : Reg)
  /-- TSPAWN (R54): Spawns a TCB, making it ready or armed, and parks for the home's reply. -/
  | tspawn (rd : Reg) (rs1 : Reg)
  /-- TDEC (R175): Sends a predecessor decrement to a TCB without waiting. -/
  | tdec (rs1 : Reg)
  /-- ITCLAIM (R67): Claims a shrinking chunk of a loop nest at the descriptor's home and parks for the reply. -/
  | itclaim (rd : Reg) (rs1 : Reg)
  /-- BSIG (R191): Checks the current block's signature and successor and starts block n. -/
  | bsig (n : BitVec 21)
  /-- CKPT (R192): Marks a pre-emption point and takes a pending pre-emption request when allowed. -/
  | ckpt (n : BitVec 21)
  /-- LDSYNC (R180): Parks until a local-store word is full, then loads it. -/
  | ldsync (rd : Reg) (rs1 : Reg) (imm : BitVec 12)
  /-- LDSYNC_C (R180): Parks until a word is full, then loads it and empties it atomically. -/
  | ldsyncC (rd : Reg) (rs1 : Reg) (imm : BitVec 12)
  /-- LDF (R162): Migrates to the core owning a core-window word if needed, then loads it. -/
  | ldf (rd : Reg) (rs1 : Reg) (imm : BitVec 12)
  /-- FESET (R181): Sets the full-empty bits of a local-store range. -/
  | feset (rs1 : Reg) (rs2 : Reg)
  /-- FECLR (R181): Clears the full-empty bits of a local-store range. -/
  | feclr (rs1 : Reg) (rs2 : Reg)
  /-- FENCE_SC (R90): Waits until the fenced set is performed at the scope named. -/
  | fenceSc (scope : BitVec 2)
  /-- ATM_SWAP (R149): Atomically swaps a word at its home. -/
  | atmSwap (rd : Reg) (rs1 : Reg) (rs2 : Reg) (size : BitVec 1) (scope : BitVec 2)
  /-- ATM_ADD (R149): Atomically adds to a word at its home. -/
  | atmAdd (rd : Reg) (rs1 : Reg) (rs2 : Reg) (size : BitVec 1) (scope : BitVec 2)
  /-- ATM_AND (R149): Atomically ands a word at its home. -/
  | atmAnd (rd : Reg) (rs1 : Reg) (rs2 : Reg) (size : BitVec 1) (scope : BitVec 2)
  /-- ATM_OR (R149): Atomically ors a word at its home. -/
  | atmOr (rd : Reg) (rs1 : Reg) (rs2 : Reg) (size : BitVec 1) (scope : BitVec 2)
  /-- ATM_XOR (R149): Atomically exclusive-ors a word at its home. -/
  | atmXor (rd : Reg) (rs1 : Reg) (rs2 : Reg) (size : BitVec 1) (scope : BitVec 2)
  /-- ATM_MIN (R149): Atomically takes the signed minimum at the home. -/
  | atmMin (rd : Reg) (rs1 : Reg) (rs2 : Reg) (size : BitVec 1) (scope : BitVec 2)
  /-- ATM_MAX (R149): Atomically takes the signed maximum at the home. -/
  | atmMax (rd : Reg) (rs1 : Reg) (rs2 : Reg) (size : BitVec 1) (scope : BitVec 2)
  /-- ATM_MINU (R149): Atomically takes the unsigned minimum at the home. -/
  | atmMinu (rd : Reg) (rs1 : Reg) (rs2 : Reg) (size : BitVec 1) (scope : BitVec 2)
  /-- ATM_MAXU (R149): Atomically takes the unsigned maximum at the home. -/
  | atmMaxu (rd : Reg) (rs1 : Reg) (rs2 : Reg) (size : BitVec 1) (scope : BitVec 2)
  /-- ATM_FADD (R149): Atomically adds an FP32 value at the home without flags. -/
  | atmFadd (rd : Reg) (rs1 : Reg) (rs2 : Reg) (scope : BitVec 2)
  /-- ATM_CAS (R149): Atomically compares with g(rd) and swaps at the home. -/
  | atmCas (rd : Reg) (rs1 : Reg) (rs2 : Reg) (size : BitVec 1) (scope : BitVec 2)
  /-- COPY (R184): Queues a copy of len bytes on the core's copy engine with no completion signal. -/
  | copy (rs1 : Reg) (rs2 : Reg) (rs3 : Reg)
  /-- COPY_FE (R184): Queues a copy into local store that sets each destination word full. -/
  | copyFe (rs1 : Reg) (rs2 : Reg) (rs3 : Reg)
  /-- COPY_AC (R184): Queues a copy that adds its bytes to an arrival counter. -/
  | copyAc (rs1 : Reg) (rs2 : Reg) (rs3 : Reg) (n : BitVec 5)
  /-- COPY_TK (R184): Queues a copy that decrements a TCB once complete. -/
  | copyTk (rs1 : Reg) (rs2 : Reg) (rs3 : Reg) (rd : Reg)
  /-- ACPOST (R178): Posts an expected count on an arrival counter of the executing core. -/
  | acpost (rs1 : Reg) (n : BitVec 5)
  /-- ACADD (R178): Adds an amount to a named arrival counter, locally at issue or remotely by message. -/
  | acadd (rs1 : Reg) (rs2 : Reg)
  /-- ACWAIT (R178): Parks until an arrival counter completes and returns the excess. -/
  | acwait (rd : Reg) (n : BitVec 5)
  /-- ACTRIG (R178): Arms an arrival counter to decrement a TCB at completion. -/
  | actrig (rs1 : Reg) (n : BitVec 5)
  /-- ACREAD (R178): Returns an arrival counter's count and flags. -/
  | acread (rd : Reg) (n : BitVec 5)
  /-- VADD (R201): Queues an element-wise integer add. -/
  | vadd (rd : Reg) (rs1 : Reg) (rs2 : Reg) (w : BitVec 2)
  /-- VSUB (R201): Queues an element-wise integer subtract. -/
  | vsub (rd : Reg) (rs1 : Reg) (rs2 : Reg) (w : BitVec 2)
  /-- VMUL (R201): Queues an element-wise integer multiply, low bits. -/
  | vmul (rd : Reg) (rs1 : Reg) (rs2 : Reg) (w : BitVec 2)
  /-- VAND (R201): Queues an element-wise and. -/
  | vand (rd : Reg) (rs1 : Reg) (rs2 : Reg) (w : BitVec 2)
  /-- VOR (R201): Queues an element-wise or. -/
  | vor (rd : Reg) (rs1 : Reg) (rs2 : Reg) (w : BitVec 2)
  /-- VXOR (R201): Queues an element-wise exclusive or. -/
  | vxor (rd : Reg) (rs1 : Reg) (rs2 : Reg) (w : BitVec 2)
  /-- VSLL (R201): Queues an element-wise left shift. -/
  | vsll (rd : Reg) (rs1 : Reg) (rs2 : Reg) (w : BitVec 2)
  /-- VSRL (R201): Queues an element-wise logical right shift. -/
  | vsrl (rd : Reg) (rs1 : Reg) (rs2 : Reg) (w : BitVec 2)
  /-- VSRA (R201): Queues an element-wise arithmetic right shift. -/
  | vsra (rd : Reg) (rs1 : Reg) (rs2 : Reg) (w : BitVec 2)
  /-- VMIN (R201): Queues an element-wise signed minimum. -/
  | vmin (rd : Reg) (rs1 : Reg) (rs2 : Reg) (w : BitVec 2)
  /-- VMAX (R201): Queues an element-wise signed maximum. -/
  | vmax (rd : Reg) (rs1 : Reg) (rs2 : Reg) (w : BitVec 2)
  /-- VMINU (R201): Queues an element-wise unsigned minimum. -/
  | vminu (rd : Reg) (rs1 : Reg) (rs2 : Reg) (w : BitVec 2)
  /-- VMAXU (R201): Queues an element-wise unsigned maximum. -/
  | vmaxu (rd : Reg) (rs1 : Reg) (rs2 : Reg) (w : BitVec 2)
  /-- VFADD (R202): Queues an element-wise floating add rounded once. -/
  | vfadd (rd : Reg) (rs1 : Reg) (rs2 : Reg) (fmt : BitVec 2)
  /-- VFSUB (R202): Queues an element-wise floating subtract. -/
  | vfsub (rd : Reg) (rs1 : Reg) (rs2 : Reg) (fmt : BitVec 2)
  /-- VFMUL (R202): Queues an element-wise floating multiply. -/
  | vfmul (rd : Reg) (rs1 : Reg) (rs2 : Reg) (fmt : BitVec 2)
  /-- VFMA (R202): Queues an element-wise fused multiply-add into vd. -/
  | vfma (rd : Reg) (rs1 : Reg) (rs2 : Reg) (fmt : BitVec 2)
  /-- VFMIN (R202): Queues an element-wise minimumNumber. -/
  | vfmin (rd : Reg) (rs1 : Reg) (rs2 : Reg) (fmt : BitVec 2)
  /-- VFMAX (R202): Queues an element-wise maximumNumber. -/
  | vfmax (rd : Reg) (rs1 : Reg) (rs2 : Reg) (fmt : BitVec 2)
  /-- VADDM (R206): Queues a lane-wise modular add. -/
  | vaddm (rd : Reg) (rs1 : Reg) (rs2 : Reg)
  /-- VSUBM (R206): Queues a lane-wise modular subtract. -/
  | vsubm (rd : Reg) (rs1 : Reg) (rs2 : Reg)
  /-- VMULM (R206): Queues a lane-wise exact modular multiply. -/
  | vmulm (rd : Reg) (rs1 : Reg) (rs2 : Reg)
  /-- VMONT (R206): Queues a lane-wise Montgomery multiply. -/
  | vmont (rd : Reg) (rs1 : Reg) (rs2 : Reg)
  /-- VBFLY (R207): Queues a forward modular butterfly on vd and vd+1. -/
  | vbfly (rd : Reg) (rs1 : Reg)
  /-- VBFLYI (R207): Queues an inverse modular butterfly on vd and vd+1. -/
  | vbflyi (rd : Reg) (rs1 : Reg)
  /-- VQSET (R205): Queues the setting of the slot's lane moduli and Montgomery constants. -/
  | vqset (rs1 : Reg) (rs2 : Reg)
  /-- VPERM_BF (R208): Queues an exchange of 64-bit elements at distance 2^k, across gang members if needed. -/
  | vpermBf (rd : Reg) (rs1 : Reg) (k : BitVec 5)
  /-- VMVX (R209): Parks until a vector lane is available, reports deferred faults, and copies the lane to gd. -/
  | vmvx (rd : Reg) (rs1 : Reg) (n : BitVec 5)
  /-- VINS (R209): Queues the insertion of a g register into one lane. -/
  | vins (rd : Reg) (rs1 : Reg) (n : BitVec 5)
  /-- VBCAST (R209): Queues the broadcast of a g register to all four lanes. -/
  | vbcast (rd : Reg) (rs1 : Reg)
  /-- VREDSUM_S (R209): Queues a pairwise-tree FP32 sum and parks until fd is written. -/
  | vredsumS (rd : Reg) (rs1 : Reg)
  /-- VREDMAX_S (R209): Queues a pairwise-tree FP32 maximum and parks until fd is written. -/
  | vredmaxS (rd : Reg) (rs1 : Reg)
  /-- VCMPEQ_S (R209): Queues an FP32 equality compare giving element masks. -/
  | vcmpeqS (rd : Reg) (rs1 : Reg) (rs2 : Reg)
  /-- VCMPLT_S (R209): Queues an FP32 less-than compare giving element masks. -/
  | vcmpltS (rd : Reg) (rs1 : Reg) (rs2 : Reg)
  /-- VCMPLE_S (R209): Queues an FP32 less-or-equal compare giving element masks. -/
  | vcmpleS (rd : Reg) (rs1 : Reg) (rs2 : Reg)
  /-- VSEL (R209): Queues a bitwise select using vd's old value as the mask. -/
  | vsel (rd : Reg) (rs1 : Reg) (rs2 : Reg)
  /-- VLD (R211): Queues a 32-byte load from local store into a vector register. -/
  | vld (rd : Reg) (rs1 : Reg) (imm : BitVec 12)
  /-- VST (R211): Queues a 32-byte store of a vector register into local store. -/
  | vst (rs1 : Reg) (rs2 : Reg) (imm : BitVec 12)
  /-- VCVT (R213): Queues an element conversion between formats, with a part for width changes. -/
  | vcvt (rd : Reg) (rs1 : Reg) (dst : BitVec 4) (src : BitVec 3) (part : BitVec 5)
  /-- VSFU (R215): Queues a special-function request to the octet's SFU and parks until vd is written. -/
  | vsfu (rd : Reg) (rs1 : Reg) (op : BitVec 5)
  /-- GATHB (R217): Queues a bounds-checked block gather of four indexed blocks into local store. -/
  | gathb (rs1 : Reg) (rs2 : Reg)
  /-- VQUANT (R214): Queues the building of an E2M1X block from 32 FP32 values into local store. -/
  | vquant (rs1 : Reg) (rs2 : Reg)
  /-- VDQUANT (R214): Queues the decoding of an E2M1X block into four vector registers. -/
  | vdquant (rd : Reg) (rs1 : Reg)
  /-- MMA_E43_E43 (R229): Queues an E4M3 rows by E4M3 plane multiply-accumulate. -/
  | mmaE43E43 (rd : Reg) (rs1 : Reg) (rs2 : Reg) (rs3 : Reg)
  /-- MMA_E43_E52 (R229): Queues an E4M3 rows by E5M2 plane multiply-accumulate. -/
  | mmaE43E52 (rd : Reg) (rs1 : Reg) (rs2 : Reg) (rs3 : Reg)
  /-- MMA_E52_E43 (R229): Queues an E5M2 rows by E4M3 plane multiply-accumulate. -/
  | mmaE52E43 (rd : Reg) (rs1 : Reg) (rs2 : Reg) (rs3 : Reg)
  /-- MMA_E52_E52 (R229): Queues an E5M2 rows by E5M2 plane multiply-accumulate. -/
  | mmaE52E52 (rd : Reg) (rs1 : Reg) (rs2 : Reg) (rs3 : Reg)
  /-- MMA_E21X_E21X (R229): Queues an E2M1X rows by E2M1X plane multiply-accumulate. -/
  | mmaE21xE21x (rd : Reg) (rs1 : Reg) (rs2 : Reg) (rs3 : Reg)
  /-- MMA_E43_E21X (R229): Queues an E4M3 rows by E2M1X plane multiply-accumulate. -/
  | mmaE43E21x (rd : Reg) (rs1 : Reg) (rs2 : Reg) (rs3 : Reg)
  /-- MMA_BF_BF (R229): Queues a BF16 multiply-accumulate. -/
  | mmaBfBf (rd : Reg) (rs1 : Reg) (rs2 : Reg) (rs3 : Reg)
  /-- MMA_S_S (R229): Queues an FP32 multiply-accumulate. -/
  | mmaSS (rd : Reg) (rs1 : Reg) (rs2 : Reg) (rs3 : Reg)
  /-- MMA_I8_I8 (R229): Queues an INT8 multiply-accumulate into INT32 modulo 2^32. -/
  | mmaI8I8 (rd : Reg) (rs1 : Reg) (rs2 : Reg)
  /-- MLDW (R227): Queues a load of weights into the shadow half of the queue's plane pair. -/
  | mldw (rs1 : Reg) (fmt : BitVec 5)
  /-- MZERO (R227): Queues the zeroing of an accumulator tile. -/
  | mzero (rd : Reg)
  /-- MRD (R233): Queues a read-out of an accumulator to local store in a chosen format, setting full bits. -/
  | mrd (rd : Reg) (rs1 : Reg) (fmt : BitVec 5)
  /-- MRD_EXP (R233): Queues an exponentiated FP32 read-out of an accumulator. -/
  | mrdExp (rd : Reg) (rs1 : Reg) (rs2 : Reg)
  /-- MRMAX (R233): Queues a read-out of each accumulator row's maximum. -/
  | mrmax (rd : Reg) (rs1 : Reg)
  /-- MROT (R231): Queues the rotation of the last A tile west and the active plane north within a group. -/
  | mrot (rs1 : Reg)
  /-- MCMD (R236): Sends a matrix command described in local store to a target core's queue. -/
  | mcmd (rs1 : Reg) (rs2 : Reg)
  /-- MTMASK (R234): Queues the writing of a constant into accumulator elements that ancestor words mask. -/
  | mtmask (rd : Reg) (rs1 : Reg) (rs2 : Reg) (rs3 : Reg)
  /-- TOPK_S (R241): Queues the selection of the k highest FP32 scores of a row. -/
  | topkS (rs1 : Reg) (rs2 : Reg) (k : BitVec 5)
  /-- TOPK_S_C (R241): Queues an FP32 top-k that also counts selections in the routing counters. -/
  | topkSC (rs1 : Reg) (rs2 : Reg) (k : BitVec 5)
  /-- TOPK_BF (R241): Queues the selection of the k highest BF16 scores of a row. -/
  | topkBf (rs1 : Reg) (rs2 : Reg) (k : BitVec 5)
  /-- TOPK_BF_C (R241): Queues a BF16 top-k that also counts selections. -/
  | topkBfC (rs1 : Reg) (rs2 : Reg) (k : BitVec 5)
  /-- RCSNAP (R242): Queues a snapshot of the 64 routing counters to local store, clearing them. -/
  | rcsnap (rs1 : Reg)
  /-- COMB_PUT_S (R244): Queues an FP32 row put into a combine slot, combining the token once all ranks are filled. -/
  | combPutS (rs1 : Reg) (rs2 : Reg) (rs3 : Reg) (rank : BitVec 5)
  /-- COMB_PUT_BF (R244): Queues a BF16 row put into a combine slot, combining the token once all ranks are filled. -/
  | combPutBf (rs1 : Reg) (rs2 : Reg) (rs3 : Reg) (rank : BitVec 5)
  /-- ECALL (R157): Raises the user trap ECALL into the thread's own handler. -/
  | ecall
  /-- EBREAK (R157): Raises the user trap BREAKPOINT into the thread's own handler. -/
  | ebreak
  /-- TRET (R158): Returns from a user trap to UEPC, clearing h and resuming the signature checker. -/
  | tret
  /-- TEXIT (R62): Ends the thread, releases its stores and marks its task done and its successors decremented. -/
  | texit
  /-- UNGANG (R173): Parks the leader until every member has completed the gang's commands, then releases the held slots. -/
  | ungang
  /-- TRETRY (R65): Ends the thread and returns its task to ready in the current cove. -/
  | tretry
  /-- FENCE_LE (R91): Waits as fence.sc device and makes later engine commands read the fenced stores. -/
  | fenceLe
  /-- VFENCE (R198): Parks until the thread's vector commands and gather writes are complete, then reports deferred faults. -/
  | vfence
  /-- MSWAP (R227): Queues an exchange of the active and shadow planes. -/
  | mswap
  /-- MWAIT (R238): Parks until both matrix queues are empty and complete, then reports deferred matrix faults. -/
  | mwait
  /-- ASYNC_TRAP (R249): A pending asynchronous cause is taken in place of the thread's next issue, waking a parked thread. -/
  | asyncTrap
  /-- DATA_RETURN (R15): Load data, an atomic or operation reply, or fetched code returns and wakes the waiting thread. -/
  | dataReturn
  /-- REMOTE_ACCESS (R79): A load, ldsync or full-empty range request is served at its owning core and answered. -/
  | remoteAccess
  /-- STORE_PERFORM (R365): A buffered store reaches its home and is performed at device scope. -/
  | storePerform
  /-- ATOMIC_AT_HOME (R149): An atomic is executed at its home, one per cycle, and its reply sent. -/
  | atomicAtHome
  /-- OWNERSHIP_GRANT (R82): The host answers a host-line cache's CXL.cache ownership request for a stored line. -/
  | ownershipGrant
  /-- BISNP_RESPONSE (R325): A back-invalidation snoop of a host-held line completes and releases waiting device accesses. -/
  | bisnpResponse
  /-- HOST_MEM_ACCESS (R323): A host CXL.mem access to near or far memory, stray if it hits a hole or quiesced bay. -/
  | hostMemAccess
  /-- TCB_SPAWN_AT_HOME (R54): A spawn or host admission acts atomically on a TCB at its home. -/
  | tcbSpawnAtHome
  /-- PRED_DECREMENT (R56): A predecessor decrement reaches a TCB's home and releases the task if it is armed and reaches zero. -/
  | predDecrement
  /-- TWAIT_AT_HOME (R63): A twait reads the TCB status at its home and replies when it ends. -/
  | twaitAtHome
  /-- GROUP_OP_AT_HOME (R171): A join, leave or barrier arrival is applied at the group object's home, possibly completing a phase. -/
  | groupOpAtHome
  /-- ITCLAIM_AT_HOME (R67): An iteration claim is applied atomically at the nest descriptor's home. -/
  | itclaimAtHome
  /-- COUNTER_ADD (R66): An add arrives at an arrival counter and may complete it, waking waiters and firing its trigger. -/
  | counterAdd
  /-- MESSAGE_ARRIVAL (R24): A message reaches its destination slot and is accepted or refused in arrival order. -/
  | messageArrival
  /-- MESSAGE_REPLY (R166): Acceptance or refusal of a message reaches the parked sender. -/
  | messageReply
  /-- CHAIN_PUSH (R26): A word pushed by qdn reaches the downstream chain queue. -/
  | chainPush
  /-- CREDIT_REQUEST (R25): A credit request reaches a downstream thread and is granted, held or refused. -/
  | creditRequest
  /-- CREDIT_GRANT (R25): Credits arrive at an upstream thread, waking a parked qdn write. -/
  | creditGrant
  /-- CREDIT_REFUSAL (R25): A credit refusal marks the requester's chain refused. -/
  | creditRefusal
  /-- MIGRATION_DEPARTURE (R42): A departing context leaves its slot once its loads and stores have drained. -/
  | migrationDeparture
  /-- MIGRATION_ARRIVAL (R43): A migrating context reaches its target core and enters a slot, buffer or spill area. -/
  | migrationArrival
  /-- TASK_DISPATCH (R59): A cove dispatches the head of its ready queue into an eligible slot. -/
  | taskDispatch
  /-- DISPATCH_ARRIVAL (R364): A dispatched task's context arrives in its slot and its registers are set. -/
  | dispatchArrival
  /-- STEAL_ATTEMPT (R61): An idle cove examines one victim cove's ready queue and takes its head if it may. -/
  | stealAttempt
  /-- TASK_COMPLETION (R62): The part marks a task done at its home, decrements its successors and writes its record. -/
  | taskCompletion
  /-- ORDERED_COMMIT (R70): An ordered task's buffer is committed atomically in its cove and its lines broadcast. -/
  | orderedCommit
  /-- VECTOR_COMMAND_START (R194): A vector command starts in the unit, checked and deferring its fault if it fails. -/
  | vectorCommandStart
  /-- VECTOR_RESULT_WRITE (R195): A vector command's result is written, waking a thread waiting for it. -/
  | vectorResultWrite
  /-- SFU_REQUEST (R48): The octet's SFU accepts one request from the ring. -/
  | sfuRequest
  /-- SFU_RESULT (R48): An SFU result returns into its destination register. -/
  | sfuResult
  /-- COPY_START (R185): The copy engine starts the next command of its queue. -/
  | copyStart
  /-- COPY_WRITE (R186): A copy write is performed, giving its counter add or full bit. -/
  | copyWrite
  /-- COPY_COMPLETE (R186): A copy's last write is performed and its completion signal is given. -/
  | copyComplete
  /-- MATRIX_OPERATION_START (R223): The matrix unit chooses a queue and starts its head operation. -/
  | matrixOperationStart
  /-- MATRIX_OPERATION_COMPLETE (R224): A matrix operation completes, its writes taking effect. -/
  | matrixOperationComplete
  /-- ROTATION_ARRIVAL (R231): A rotated A tile or plane arrives at a group neighbour. -/
  | rotationArrival
  /-- REMOTE_COMMAND_DELIVERY (R237): A remote matrix command reaches its target and is accepted into a queue or refused. -/
  | remoteCommandDelivery
  /-- TLB_FILL (R251): A TLB fill from the cove service core arrives and the parked access completes. -/
  | tlbFill
  /-- FAULT_MESSAGE (R330): A fault message reaches a level of the combining tree and is merged, forwarded or recorded. -/
  | faultMessage
  /-- FAULT_REPLY (R252): A fault reply descends and resolves or denies the parked accesses. -/
  | faultReply
  /-- CHECKPOINT_SAVE (R254): A thread taking ckpt saves its state once drained and its slot becomes reserved. -/
  | checkpointSave
  /-- PREEMPT_FALLBACK (R256): A pre-emption request not taken within 2^24 cycles falls back to saving the whole core. -/
  | preemptFallback
  /-- CORE_VACATE (R256): A core is vacated when its context's threads are swapped out and nothing is in flight. -/
  | coreVacate
  /-- SLACK_WATER (R258): The slack-water detector delivers ALLASLEEP to every parked thread of a context asleep everywhere. -/
  | slackWater
  /-- SELF_TEST_END (R260): A core's 2^20-cycle self-test ends, returning it to its context or quarantining it. -/
  | selfTestEnd
  /-- NOTIFY_WRITE (R345): A write to a notify page's TAIL advances the submission tail if accepted. -/
  | notifyWrite
  /-- SUBMISSION_ADMISSION (R344): The queue engine reads one submission entry and admits or refuses its TCB. -/
  | submissionAdmission
  /-- TEARDOWN_COMPLETION (R348): After migrating contexts and copies drain, the final teardown record is written and the coves freed. -/
  | teardownCompletion
  /-- CTX_LAUNCH (R341): Mailbox command that checks a context record and object and launches the context. -/
  | ctxLaunch
  /-- CTX_TEARDOWN (R348): Mailbox command that tears down a context and its queue. -/
  | ctxTeardown
  /-- CTX_PREEMPT (R349): Mailbox command that requests pre-emption of every thread of a context. -/
  | ctxPreempt
  /-- CTX_RESUME (R349): Mailbox command that restores a pre-empted context's cores and resumes dispatch. -/
  | ctxResume
  /-- ATTEST (R352): Returns a signed measurement report over a nonce. -/
  | attest
  /-- GET_CERTS (R352): Returns the module's certificate chain. -/
  | getCerts
  /-- FW_STAGE (R353): Stages a piece of a firmware update package. -/
  | fwStage
  /-- FW_COMMIT (R353): Checks the staged package and replaces its kind's stored image. -/
  | fwCommit
  /-- GET_HEALTH (R356): Returns a cove's health record. -/
  | getHealth
  /-- GET_QMAP (R338): Returns all 1,024 quarantine map words. -/
  | getQmap
  /-- GET_BUDGET (R358): Returns a context's budget history. -/
  | getBudget
  /-- GET_CLASSMAP (R334): Returns the valid runs of the near or far class-run table. -/
  | getClassmap
  /-- GET_STALL (R359): Returns a cove's last stall sample. -/
  | getStall
  /-- GET_POWER (R360): Returns the power record. -/
  | getPower
  /-- SET_CAP (R360): Sets the module power cap. -/
  | setCap
  /-- RELEASE (R338): Requests release of a quarantined core, starting its self-test. -/
  | release
  /-- FBUF_BASE_WRITE (R329): Write of the fault buffer base, refused while faults are outstanding, resetting the tail. -/
  | fbufBaseWrite
  /-- FGEN_WRITE (R331): Advances the fault generation, broadcasting it and resolving older faults. -/
  | fgenWrite
  /-- FREPLY_RESOLVED (R331): Answers an outstanding fault tag as resolved. -/
  | freplyResolved
  /-- FREPLY_DENIED (R331): Answers an outstanding fault tag as denied. -/
  | freplyDenied
  /-- INV_PAGES (R332): Starts invalidation of a range of pages of one context. -/
  | invPages
  /-- INV_CONTEXT (R332): Starts invalidation of all translations of one context. -/
  | invContext
  /-- INV_ALL (R332): Starts invalidation of every translation. -/
  | invAll
  /-- INVALIDATION_COMPLETE (R333): An invalidation command completes once purged translations' accesses are performed. -/
  | invalidationComplete
  /-- CRT_STAGE_WRITE (R334): Copies CRT_LO and CRT_HI into a staging run. -/
  | crtStageWrite
  /-- CRT_STAGE_READ (R334): Reads a staging run into CRT_LO and CRT_HI. -/
  | crtStageRead
  /-- CRT_COMMIT (R335): Checks and commits the staging class-run table. -/
  | crtCommit
  /-- CRT_COMMIT_DONE (R335): A class-run commit finishes zeroing changed bays and installs the new table. -/
  | crtCommitDone
  /-- EBUD_VAL_WRITE (R337): Driver write of a context's error budget, re-arming EBUDGET when non-zero. -/
  | ebudValWrite
  /-- QMAP_RELEASE (R338): Write of 1 to a QMAP bit requesting release of a quarantined core. -/
  | qmapRelease
  /-- REGISTER_WRITE (R324): Write to a register that has no behaviour of its own. -/
  | registerWrite
  /-- MODULE_RESET (R350): Reset runs the ROM, which verifies, measures and starts each firmware image in turn. -/
  | moduleReset
  /-- MARGIN_MEASUREMENT (R355): Every 600 s each cove's margin is measured and its ageing state advanced. -/
  | marginMeasurement
  /-- STALL_SAMPLE (R359): Each second the stall counters of every cove are summed into a sample. -/
  | stallSample
  /-- BUDGET_INTERVAL (R358): Every 10 minutes a context's EBUD is recorded in its budget history. -/
  | budgetInterval
  /-- POWER_THROTTLE (R360): The 1 ms average power exceeding the cap lowers every cove's clock by one step. -/
  | powerThrottle
  /-- CLOCK_RAISE (R360): After 100 ms below 90 % of the cap the clock is raised by one step. -/
  | clockRaise
  /-- THERMAL_THROTTLE (R360): A junction reaching 95 °C lowers clocks by one step. -/
  | thermalThrottle
  /-- THERMAL_SHUTDOWN (R360): A junction reaching 105 °C stops all work and kills every context. -/
  | thermalShutdown
  /-- ILLEGAL_WORD (R134): A word that decodes to no instruction reaches its issue and raises the user trap ILLEGAL with no other effect. -/
  | illegalWord
  /-- FETCH_FAULT (R141): The first fetch from a PC that is not canonical translated memory raises ADDRESS with UEPC and UTVAL set to that PC. -/
  | fetchFault
  /-- FBUF_HEAD_WRITE (R329): A driver write of FBUF_HEAD frees ring space so that fault and error records waiting inside the fault unit are written. -/
  | fbufHeadWrite
  /-- CHEAD_WRITE (R346): A host write of CHEAD on the notify page frees completion-ring space so that records waiting in the work area are written in order. -/
  | cheadWrite
  /-- LAUNCH_COMPLETION (R341): Some 6,000 cycles after the last byte of the object is read, the launch finishes resetting the cores, opens the queue and returns status 0. -/
  | launchCompletion
  /-- CXL_CACHE_SNOOP (R102): A host store to a host line held by a die's host-line cache snoops that cache over CXL.cache, making the store visible to the home die. -/
  | cxlCacheSnoop
  deriving DecidableEq, Repr

end Sys2Proof
end

