-- ==== Sys2Proof/WellFormed.lean ====
section
/-! DEFINITION. Which instruction terms an encoding exists for: the field limits of R123, R124, R129-R133 and the CSR
numbers of R18 and the other CSR tables. A term outside them is a word the spec calls ILLEGAL (R134). -/

namespace Sys2Proof

/-- R123: imm[1] of a B or J immediate must be 0; the field is held without imm[0]. -/
def alignedTarget {n : Nat} (imm : BitVec n) : Bool := !imm.getLsbD 0

/-- R109: the rounding-mode field 6 is ILLEGAL. -/
def legalRm (rm : BitVec 3) : Bool := rm != 6

/-- The CSR numbers of the tables of R18, R86, R108, R221 and R253. -/
def csrNumbers : List Nat :=
  [0x001, 0x002, 0x003, 0x800, 0x805, 0x810, 0x811, 0x818, 0x819, 0x820, 0x821, 0x822, 0x828, 0x829,
   0x830, 0x831, 0x832, 0x833, 0x834, 0x835, 0x836, 0x837, 0x838, 0x841, 0x842, 0x843, 0x8C0,
   0xC80, 0xC81, 0xC82, 0xC83, 0xC84, 0xC85, 0xC86, 0xC87, 0xC88, 0xC89, 0xC8A, 0xC8B, 0xC8C, 0xC8D, 0xC8E, 0xC8F,
   0xCC0, 0xCC1, 0xCC2, 0xCC3, 0xCC4, 0xCC5, 0xCC6]

/-- R18, R127: access to any other CSR number is ILLEGAL. -/
def knownCsr (csr : BitVec 12) : Bool := csrNumbers.contains csr.toNat

/-- A number field within the limits that its map entry states (R124). -/
def inRange {n : Nat} (lo hi : Nat) (x : BitVec n) : Bool := lo ≤ x.toNat && x.toNat ≤ hi

/-- R129: the payload registers of `msend`, rd to rd + n - 1, lie within g1-g24; the field holds n - 1. -/
def payloadRange (rd : Reg) (n : BitVec 3) : Bool := 1 ≤ rd.toNat && rd.toNat + n.toNat ≤ 24

/-- The element width in bits of a format code of R132. -/
def fmtWidth (code : Nat) : Nat :=
  if code = 0 ∨ code = 6 then 32 else if code = 1 ∨ code = 2 then 16 else 8

/-- R131: the legal format pairs and parts of `vcvt`. -/
def legalCvt (dst : BitVec 4) (src : BitVec 3) (part : BitVec 5) : Bool :=
  dst.toNat ≤ 6 && src.toNat ≤ 6 && dst.toNat != src.toNat &&
  part.toNat * min (fmtWidth dst.toNat) (fmtWidth src.toNat) < max (fmtWidth dst.toNat) (fmtWidth src.toNat)

/-- R131: the register of `vquant` and `vdquant` is a multiple of 4. -/
def quadReg (r : Reg) : Bool := r.toNat % 4 == 0

/-- R132: the format codes of `mldw`. -/
def legalMldwFmt (fmt : BitVec 5) : Bool := [0, 1, 3, 4, 5, 7].contains fmt.toNat

/-- The instruction's fields lie within the limits of its encoding; an event has no encoding and no limit. -/
def Instr.wellFormed (i : Instr) : Bool :=
  match i with
  | .lui _ _ => true
  | .auipc _ _ => true
  | .jal _ imm => alignedTarget imm
  | .jalr _ _ _ => true
  | .beq _ _ imm => alignedTarget imm
  | .bne _ _ imm => alignedTarget imm
  | .blt _ _ imm => alignedTarget imm
  | .bge _ _ imm => alignedTarget imm
  | .bltu _ _ imm => alignedTarget imm
  | .bgeu _ _ imm => alignedTarget imm
  | .lb _ _ _ => true
  | .lh _ _ _ => true
  | .lw _ _ _ => true
  | .ld _ _ _ => true
  | .lbu _ _ _ => true
  | .lhu _ _ _ => true
  | .lwu _ _ _ => true
  | .sb _ _ _ => true
  | .sh _ _ _ => true
  | .sw _ _ _ => true
  | .sd _ _ _ => true
  | .addi _ _ _ => true
  | .slti _ _ _ => true
  | .sltiu _ _ _ => true
  | .xori _ _ _ => true
  | .ori _ _ _ => true
  | .andi _ _ _ => true
  | .slli _ _ _ => true
  | .srli _ _ _ => true
  | .srai _ _ _ => true
  | .add _ _ _ => true
  | .sub _ _ _ => true
  | .sll _ _ _ => true
  | .slt _ _ _ => true
  | .sltu _ _ _ => true
  | .xor _ _ _ => true
  | .srl _ _ _ => true
  | .sra _ _ _ => true
  | .or _ _ _ => true
  | .and _ _ _ => true
  | .fence _ _ _ => true
  | .addiw _ _ _ => true
  | .slliw _ _ _ => true
  | .srliw _ _ _ => true
  | .sraiw _ _ _ => true
  | .addw _ _ _ => true
  | .subw _ _ _ => true
  | .sllw _ _ _ => true
  | .srlw _ _ _ => true
  | .sraw _ _ _ => true
  | .mul _ _ _ => true
  | .mulh _ _ _ => true
  | .mulhsu _ _ _ => true
  | .mulhu _ _ _ => true
  | .div _ _ _ => true
  | .divu _ _ _ => true
  | .rem _ _ _ => true
  | .remu _ _ _ => true
  | .mulw _ _ _ => true
  | .divw _ _ _ => true
  | .divuw _ _ _ => true
  | .remw _ _ _ => true
  | .remuw _ _ _ => true
  | .csrrw _ _ csr => knownCsr csr
  | .csrrs _ _ csr => knownCsr csr
  | .csrrc _ _ csr => knownCsr csr
  | .csrrwi _ csr _ => knownCsr csr
  | .csrrsi _ csr _ => knownCsr csr
  | .csrrci _ csr _ => knownCsr csr
  | .flw _ _ _ => true
  | .fsw _ _ _ => true
  | .fmaddS _ _ _ _ rm => legalRm rm
  | .fmsubS _ _ _ _ rm => legalRm rm
  | .fnmsubS _ _ _ _ rm => legalRm rm
  | .fnmaddS _ _ _ _ rm => legalRm rm
  | .faddS _ _ _ rm => legalRm rm
  | .fsubS _ _ _ rm => legalRm rm
  | .fmulS _ _ _ rm => legalRm rm
  | .fdivS _ _ _ rm => legalRm rm
  | .fsqrtS _ _ rm => legalRm rm
  | .fsgnjS _ _ _ => true
  | .fsgnjnS _ _ _ => true
  | .fsgnjxS _ _ _ => true
  | .fminS _ _ _ => true
  | .fmaxS _ _ _ => true
  | .fcvtWS _ _ rm => legalRm rm
  | .fcvtWuS _ _ rm => legalRm rm
  | .fcvtLS _ _ rm => legalRm rm
  | .fcvtLuS _ _ rm => legalRm rm
  | .fcvtSW _ _ rm => legalRm rm
  | .fcvtSWu _ _ rm => legalRm rm
  | .fcvtSL _ _ rm => legalRm rm
  | .fcvtSLu _ _ rm => legalRm rm
  | .fmvXW _ _ => true
  | .fmvWX _ _ => true
  | .feqS _ _ _ => true
  | .fltS _ _ _ => true
  | .fleS _ _ _ => true
  | .fclassS _ _ => true
  | .migrS _ => true
  | .migrL _ => true
  | .migrH _ => true
  | .migrA _ => true
  | .twait _ _ => true
  | .gang _ _ => true
  | .pcmpEq _ _ _ => true
  | .pcmpNe _ _ _ => true
  | .pcmpLt _ _ _ => true
  | .pcmpGe _ _ _ => true
  | .pcmpLtu _ _ _ => true
  | .pcmpGeu _ _ _ => true
  | .pand _ _ _ => true
  | .por _ _ _ => true
  | .pxor _ _ _ => true
  | .pandn _ _ _ => true
  | .pmov _ => true
  | .pwr _ => true
  | .csel _ _ _ _ => true
  | .bp _ imm => alignedTarget imm
  | .bnp _ imm => alignedTarget imm
  | .itnext x imm => alignedTarget imm && inRange 1 22 x
  | .ldk _ _ => true
  | .fldk _ _ => true
  | .msend rd _ _ n => payloadRange rd n
  | .msendr _ _ _ => true
  | .mpoll _ => true
  | .klook _ _ => true
  | .klookC _ _ _ => true
  | .klookP _ _ => true
  | .kbind _ _ => true
  | .kpin _ _ => true
  | .kunpin _ _ => true
  | .kunbind _ _ => true
  | .kabandon _ _ => true
  | .kvict _ => true
  | .kwait _ _ => true
  | .kwaitU _ => true
  | .gjoin _ => true
  | .gleave _ => true
  | .gbar _ => true
  | .tspawn _ _ => true
  | .tdec _ => true
  | .itclaim _ _ => true
  | .bsig _ => true
  | .ckpt _ => true
  | .ldsync _ _ _ => true
  | .ldsyncC _ _ _ => true
  | .ldf _ _ _ => true
  | .feset _ _ => true
  | .feclr _ _ => true
  | .fenceSc _ => true
  | .atmSwap _ _ _ _ _ => true
  | .atmAdd _ _ _ _ _ => true
  | .atmAnd _ _ _ _ _ => true
  | .atmOr _ _ _ _ _ => true
  | .atmXor _ _ _ _ _ => true
  | .atmMin _ _ _ _ _ => true
  | .atmMax _ _ _ _ _ => true
  | .atmMinu _ _ _ _ _ => true
  | .atmMaxu _ _ _ _ _ => true
  | .atmFadd _ _ _ _ => true
  | .atmCas _ _ _ _ _ => true
  | .copy _ _ _ => true
  | .copyFe _ _ _ => true
  | .copyAc _ _ _ _ => true
  | .copyTk _ _ _ _ => true
  | .acpost _ _ => true
  | .acadd _ _ => true
  | .acwait _ _ => true
  | .actrig _ _ => true
  | .acread _ _ => true
  | .vadd _ _ _ _ => true
  | .vsub _ _ _ _ => true
  | .vmul _ _ _ _ => true
  | .vand _ _ _ _ => true
  | .vor _ _ _ _ => true
  | .vxor _ _ _ _ => true
  | .vsll _ _ _ _ => true
  | .vsrl _ _ _ _ => true
  | .vsra _ _ _ _ => true
  | .vmin _ _ _ _ => true
  | .vmax _ _ _ _ => true
  | .vminu _ _ _ _ => true
  | .vmaxu _ _ _ _ => true
  | .vfadd _ _ _ fmt => fmt != 3
  | .vfsub _ _ _ fmt => fmt != 3
  | .vfmul _ _ _ fmt => fmt != 3
  | .vfma _ _ _ fmt => fmt != 3
  | .vfmin _ _ _ fmt => fmt != 3
  | .vfmax _ _ _ fmt => fmt != 3
  | .vaddm _ _ _ => true
  | .vsubm _ _ _ => true
  | .vmulm _ _ _ => true
  | .vmont _ _ _ => true
  | .vbfly rd _ => inRange 0 30 rd
  | .vbflyi rd _ => inRange 0 30 rd
  | .vqset _ _ => true
  | .vpermBf _ _ k => inRange 0 4 k
  | .vmvx _ _ n => inRange 0 3 n
  | .vins _ _ n => inRange 0 3 n
  | .vbcast _ _ => true
  | .vredsumS _ _ => true
  | .vredmaxS _ _ => true
  | .vcmpeqS _ _ _ => true
  | .vcmpltS _ _ _ => true
  | .vcmpleS _ _ _ => true
  | .vsel _ _ _ => true
  | .vld _ _ _ => true
  | .vst _ _ _ => true
  | .vcvt _ _ dst src part => legalCvt dst src part
  | .vsfu _ _ op => inRange 0 11 op
  | .gathb _ _ => true
  | .vquant _ rs2 => quadReg rs2
  | .vdquant rd _ => quadReg rd
  | .mmaE43E43 rd _ _ _ => inRange 0 3 rd
  | .mmaE43E52 rd _ _ _ => inRange 0 3 rd
  | .mmaE52E43 rd _ _ _ => inRange 0 3 rd
  | .mmaE52E52 rd _ _ _ => inRange 0 3 rd
  | .mmaE21xE21x rd _ _ _ => inRange 0 3 rd
  | .mmaE43E21x rd _ _ _ => inRange 0 3 rd
  | .mmaBfBf rd _ _ _ => inRange 0 3 rd
  | .mmaSS rd _ _ _ => inRange 0 3 rd
  | .mmaI8I8 rd _ _ => inRange 0 3 rd
  | .mldw _ fmt => legalMldwFmt fmt
  | .mzero rd => inRange 0 3 rd
  | .mrd rd _ fmt => inRange 0 3 rd && inRange 0 6 fmt
  | .mrdExp rd _ _ => inRange 0 3 rd
  | .mrmax rd _ => inRange 0 3 rd
  | .mrot _ => true
  | .mcmd _ _ => true
  | .mtmask rd _ _ _ => inRange 0 3 rd
  | .topkS _ _ k => inRange 1 31 k
  | .topkSC _ _ k => inRange 1 31 k
  | .topkBf _ _ k => inRange 1 31 k
  | .topkBfC _ _ k => inRange 1 31 k
  | .rcsnap _ => true
  | .combPutS _ _ _ rank => inRange 0 7 rank
  | .combPutBf _ _ _ rank => inRange 0 7 rank
  | .ecall => true
  | .ebreak => true
  | .tret => true
  | .texit => true
  | .ungang => true
  | .tretry => true
  | .fenceLe => true
  | .vfence => true
  | .mswap => true
  | .mwait => true
  | .asyncTrap => true
  | .dataReturn => true
  | .remoteAccess => true
  | .storePerform => true
  | .atomicAtHome => true
  | .ownershipGrant => true
  | .bisnpResponse => true
  | .hostMemAccess => true
  | .tcbSpawnAtHome => true
  | .predDecrement => true
  | .twaitAtHome => true
  | .groupOpAtHome => true
  | .itclaimAtHome => true
  | .counterAdd => true
  | .messageArrival => true
  | .messageReply => true
  | .chainPush => true
  | .creditRequest => true
  | .creditGrant => true
  | .creditRefusal => true
  | .migrationDeparture => true
  | .migrationArrival => true
  | .taskDispatch => true
  | .dispatchArrival => true
  | .stealAttempt => true
  | .taskCompletion => true
  | .orderedCommit => true
  | .vectorCommandStart => true
  | .vectorResultWrite => true
  | .sfuRequest => true
  | .sfuResult => true
  | .copyStart => true
  | .copyWrite => true
  | .copyComplete => true
  | .matrixOperationStart => true
  | .matrixOperationComplete => true
  | .rotationArrival => true
  | .remoteCommandDelivery => true
  | .tlbFill => true
  | .faultMessage => true
  | .faultReply => true
  | .checkpointSave => true
  | .preemptFallback => true
  | .coreVacate => true
  | .slackWater => true
  | .selfTestEnd => true
  | .notifyWrite => true
  | .submissionAdmission => true
  | .teardownCompletion => true
  | .ctxLaunch => true
  | .ctxTeardown => true
  | .ctxPreempt => true
  | .ctxResume => true
  | .attest => true
  | .getCerts => true
  | .fwStage => true
  | .fwCommit => true
  | .getHealth => true
  | .getQmap => true
  | .getBudget => true
  | .getClassmap => true
  | .getStall => true
  | .getPower => true
  | .setCap => true
  | .release => true
  | .fbufBaseWrite => true
  | .fgenWrite => true
  | .freplyResolved => true
  | .freplyDenied => true
  | .invPages => true
  | .invContext => true
  | .invAll => true
  | .invalidationComplete => true
  | .crtStageWrite => true
  | .crtStageRead => true
  | .crtCommit => true
  | .crtCommitDone => true
  | .ebudValWrite => true
  | .qmapRelease => true
  | .registerWrite => true
  | .moduleReset => true
  | .marginMeasurement => true
  | .stallSample => true
  | .budgetInterval => true
  | .powerThrottle => true
  | .clockRaise => true
  | .thermalThrottle => true
  | .thermalShutdown => true
  | .illegalWord => true
  | .fetchFault => true
  | .fbufHeadWrite => true
  | .cheadWrite => true
  | .launchCompletion => true
  | .cxlCacheSnoop => true

end Sys2Proof
end

