-- ==== Sys2Proof/Decode.lean ====
section
/-! DEFINITION. The decoder of instruction words (R121-R134), total on every 32-bit word and rejecting by name, and
after it the encoder, written from the same tables. -/

namespace Sys2Proof

/-- Why a word is ILLEGAL (R134). -/
inductive DecodeError where
  /-- R125: the major opcode is not inherited or custom, or is one marked ILLEGAL. -/
  | majorOpcode
  /-- A funct3 that the major opcode does not name. -/
  | funct3
  /-- A selector (funct7, funct2, fmt, imm[11:8], rs2 selector) absent from its map. -/
  | selector
  /-- A field that the instruction leaves unused is not zero. -/
  | unusedField
  /-- A field outside the limits of R124 or of its map entry. -/
  | fieldLimit
  deriving DecidableEq, Repr

/-- Bits [hi:lo] of an instruction word, given as lo and the width. -/
def field (w : BitVec 32) (lo n : Nat) : BitVec n := w.extractLsb' lo n

def fOp (w : BitVec 32) : BitVec 7 := field w 0 7
def fRd (w : BitVec 32) : Reg := field w 7 5
def fF3 (w : BitVec 32) : BitVec 3 := field w 12 3
def fRs1 (w : BitVec 32) : Reg := field w 15 5
def fRs2 (w : BitVec 32) : Reg := field w 20 5
def fRs3 (w : BitVec 32) : Reg := field w 27 5
def fF7 (w : BitVec 32) : BitVec 7 := field w 25 7
def fF2 (w : BitVec 32) : BitVec 2 := field w 25 2
/-- The I immediate or the CSR number, bits [31:20] (R122). -/
def fImmI (w : BitVec 32) : BitVec 12 := field w 20 12
/-- The S immediate (R122). -/
def fImmS (w : BitVec 32) : BitVec 12 := field w 25 7 ++ field w 7 5
/-- The B immediate without imm[0]: imm[12:1] (R122). -/
def fImmB (w : BitVec 32) : BitVec 12 := field w 31 1 ++ field w 7 1 ++ field w 25 6 ++ field w 8 4
/-- The U immediate imm[31:12] (R122). -/
def fImmU (w : BitVec 32) : BitVec 20 := field w 12 20
/-- The J immediate without imm[0]: imm[20:1] (R122). -/
def fImmJ (w : BitVec 32) : BitVec 20 := field w 31 1 ++ field w 12 8 ++ field w 20 1 ++ field w 21 10
/-- The L index imm[20:0]: bits [30:20], [19:15] and [11:7] (R122, R189). -/
def fImmL (w : BitVec 32) : BitVec 21 := field w 20 11 ++ field w 15 5 ++ field w 7 5

abbrev Decoded := Except DecodeError Instr

/-- A decoded instruction, provided that the fields it leaves unused are zero (R134). -/
def unused (zero : Bool) (i : Instr) : Decoded := if zero then .ok i else .error .unusedField

/-- LOAD (R144). -/
def decodeLoad (w : BitVec 32) : Decoded :=
  let rd := fRd w; let a := fRs1 w; let i := fImmI w
  if fF3 w = 0 then .ok (.lb rd a i) else if fF3 w = 1 then .ok (.lh rd a i)
  else if fF3 w = 2 then .ok (.lw rd a i) else if fF3 w = 3 then .ok (.ld rd a i)
  else if fF3 w = 4 then .ok (.lbu rd a i) else if fF3 w = 5 then .ok (.lhu rd a i)
  else if fF3 w = 6 then .ok (.lwu rd a i) else .error .funct3

/-- STORE (R144). -/
def decodeStore (w : BitVec 32) : Decoded :=
  let a := fRs1 w; let b := fRs2 w; let i := fImmS w
  if fF3 w = 0 then .ok (.sb a b i) else if fF3 w = 1 then .ok (.sh a b i)
  else if fF3 w = 2 then .ok (.sw a b i) else if fF3 w = 3 then .ok (.sd a b i) else .error .funct3

/-- OP-IMM (R137). -/
def decodeOpImm (w : BitVec 32) : Decoded :=
  let rd := fRd w; let a := fRs1 w; let i := fImmI w; let sh : BitVec 6 := field w 20 6; let hi : BitVec 6 := field w 26 6
  if fF3 w = 0 then .ok (.addi rd a i) else if fF3 w = 2 then .ok (.slti rd a i)
  else if fF3 w = 3 then .ok (.sltiu rd a i) else if fF3 w = 4 then .ok (.xori rd a i)
  else if fF3 w = 6 then .ok (.ori rd a i) else if fF3 w = 7 then .ok (.andi rd a i)
  else if fF3 w = 1 then (if hi = 0 then .ok (.slli rd a sh) else .error .selector)
  else if hi = 0 then .ok (.srli rd a sh) else if hi = 16 then .ok (.srai rd a sh) else .error .selector

/-- OP-IMM-32 (R137). -/
def decodeOpImm32 (w : BitVec 32) : Decoded :=
  let rd := fRd w; let a := fRs1 w; let sh := fRs2 w
  if fF3 w = 0 then .ok (.addiw rd a (fImmI w))
  else if fF3 w = 1 then (if fF7 w = 0 then .ok (.slliw rd a sh) else .error .selector)
  else if fF3 w = 5 then
    (if fF7 w = 0 then .ok (.srliw rd a sh) else if fF7 w = 0x20 then .ok (.sraiw rd a sh) else .error .selector)
  else .error .funct3

/-- OP: RV64I and M (R137). -/
def decodeOp (w : BitVec 32) : Decoded :=
  let rd := fRd w; let a := fRs1 w; let b := fRs2 w; let f := fF3 w
  if fF7 w = 0 then
    (if f = 0 then .ok (.add rd a b) else if f = 1 then .ok (.sll rd a b) else if f = 2 then .ok (.slt rd a b)
     else if f = 3 then .ok (.sltu rd a b) else if f = 4 then .ok (.xor rd a b) else if f = 5 then .ok (.srl rd a b)
     else if f = 6 then .ok (.or rd a b) else .ok (.and rd a b))
  else if fF7 w = 0x20 then
    (if f = 0 then .ok (.sub rd a b) else if f = 5 then .ok (.sra rd a b) else .error .funct3)
  else if fF7 w = 1 then
    (if f = 0 then .ok (.mul rd a b) else if f = 1 then .ok (.mulh rd a b) else if f = 2 then .ok (.mulhsu rd a b)
     else if f = 3 then .ok (.mulhu rd a b) else if f = 4 then .ok (.div rd a b) else if f = 5 then .ok (.divu rd a b)
     else if f = 6 then .ok (.rem rd a b) else .ok (.remu rd a b))
  else .error .selector

/-- OP-32 (R137). -/
def decodeOp32 (w : BitVec 32) : Decoded :=
  let rd := fRd w; let a := fRs1 w; let b := fRs2 w; let f := fF3 w
  if fF7 w = 0 then
    (if f = 0 then .ok (.addw rd a b) else if f = 1 then .ok (.sllw rd a b) else if f = 5 then .ok (.srlw rd a b)
     else .error .funct3)
  else if fF7 w = 0x20 then
    (if f = 0 then .ok (.subw rd a b) else if f = 5 then .ok (.sraw rd a b) else .error .funct3)
  else if fF7 w = 1 then
    (if f = 0 then .ok (.mulw rd a b) else if f = 4 then .ok (.divw rd a b) else if f = 5 then .ok (.divuw rd a b)
     else if f = 6 then .ok (.remw rd a b) else if f = 7 then .ok (.remuw rd a b) else .error .funct3)
  else .error .selector

/-- BRANCH (R140). -/
def decodeBranch (w : BitVec 32) : Decoded :=
  let a := fRs1 w; let b := fRs2 w; let i := fImmB w
  if fF3 w = 0 then .ok (.beq a b i) else if fF3 w = 1 then .ok (.bne a b i)
  else if fF3 w = 4 then .ok (.blt a b i) else if fF3 w = 5 then .ok (.bge a b i)
  else if fF3 w = 6 then .ok (.bltu a b i) else if fF3 w = 7 then .ok (.bgeu a b i) else .error .funct3

/-- SYSTEM: ECALL, EBREAK, `tret` and the CSR instructions (R127, R128, R153, R157). -/
def decodeSystem (w : BitVec 32) : Decoded :=
  let rd := fRd w; let a := fRs1 w; let c := fImmI w
  if fF3 w = 0 then
    (if c = 0 then unused (rd == 0 && a == 0) .ecall
     else if c = 1 then unused (rd == 0 && a == 0) .ebreak
     else if c = 2 then unused (rd == 0 && a == 0) .tret else .error .selector)
  else if fF3 w = 1 then .ok (.csrrw rd a c) else if fF3 w = 2 then .ok (.csrrs rd a c)
  else if fF3 w = 3 then .ok (.csrrc rd a c) else if fF3 w = 5 then .ok (.csrrwi rd c a)
  else if fF3 w = 6 then .ok (.csrrsi rd c a) else if fF3 w = 7 then .ok (.csrrci rd c a) else .error .funct3

/-- OP-FP, single precision (R155). -/
def decodeFp (w : BitVec 32) : Decoded :=
  let rd := fRd w; let a := fRs1 w; let b := fRs2 w; let m := fF3 w
  if fF7 w = 0 then .ok (.faddS rd a b m) else if fF7 w = 4 then .ok (.fsubS rd a b m)
  else if fF7 w = 8 then .ok (.fmulS rd a b m) else if fF7 w = 12 then .ok (.fdivS rd a b m)
  else if fF7 w = 0x2C then (if b = 0 then .ok (.fsqrtS rd a m) else .error .selector)
  else if fF7 w = 0x10 then
    (if m = 0 then .ok (.fsgnjS rd a b) else if m = 1 then .ok (.fsgnjnS rd a b)
     else if m = 2 then .ok (.fsgnjxS rd a b) else .error .funct3)
  else if fF7 w = 0x14 then
    (if m = 0 then .ok (.fminS rd a b) else if m = 1 then .ok (.fmaxS rd a b) else .error .funct3)
  else if fF7 w = 0x60 then
    (if b = 0 then .ok (.fcvtWS rd a m) else if b = 1 then .ok (.fcvtWuS rd a m)
     else if b = 2 then .ok (.fcvtLS rd a m) else if b = 3 then .ok (.fcvtLuS rd a m) else .error .selector)
  else if fF7 w = 0x68 then
    (if b = 0 then .ok (.fcvtSW rd a m) else if b = 1 then .ok (.fcvtSWu rd a m)
     else if b = 2 then .ok (.fcvtSL rd a m) else if b = 3 then .ok (.fcvtSLu rd a m) else .error .selector)
  else if fF7 w = 0x70 then
    (if b = 0 then (if m = 0 then .ok (.fmvXW rd a) else if m = 1 then .ok (.fclassS rd a) else .error .funct3)
     else .error .selector)
  else if fF7 w = 0x50 then
    (if m = 2 then .ok (.feqS rd a b) else if m = 1 then .ok (.fltS rd a b)
     else if m = 0 then .ok (.fleS rd a b) else .error .funct3)
  else if fF7 w = 0x78 then
    (if b = 0 then (if m = 0 then .ok (.fmvWX rd a) else .error .funct3) else .error .selector)
  else .error .selector

/-- custom-0, funct3 000: moving and ending a thread, gangs (R129, R160, R173). -/
def decodeC0Move (w : BitVec 32) : Decoded :=
  let rd := fRd w; let a := fRs1 w; let b := fRs2 w
  if fF7 w = 0 then unused (rd == 0 && b == 0) (.migrS a) else if fF7 w = 1 then unused (rd == 0 && b == 0) (.migrL a)
  else if fF7 w = 2 then unused (rd == 0 && b == 0) (.migrH a)
  else if fF7 w = 3 then unused (rd == 0 && b == 0) (.migrA a)
  else if fF7 w = 4 then unused (rd == 0 && a == 0 && b == 0) .texit
  else if fF7 w = 5 then unused (b == 0) (.twait rd a) else if fF7 w = 6 then unused (b == 0) (.gang rd a)
  else if fF7 w = 7 then unused (rd == 0 && a == 0 && b == 0) .ungang else .error .selector

/-- custom-0, funct3 001: predicates (R129, R142). -/
def decodeC0Pred (w : BitVec 32) : Decoded :=
  let rd := fRd w; let a := fRs1 w; let b := fRs2 w; let f := fF7 w
  if f = 0 then .ok (.pcmpEq rd a b) else if f = 1 then .ok (.pcmpNe rd a b) else if f = 2 then .ok (.pcmpLt rd a b)
  else if f = 3 then .ok (.pcmpGe rd a b) else if f = 4 then .ok (.pcmpLtu rd a b)
  else if f = 5 then .ok (.pcmpGeu rd a b) else if f = 8 then .ok (.pand rd a b) else if f = 9 then .ok (.por rd a b)
  else if f = 10 then .ok (.pxor rd a b) else if f = 11 then .ok (.pandn rd a b)
  else if f = 0x10 then unused (a == 0 && b == 0) (.pmov rd)
  else if f = 0x11 then unused (rd == 0 && b == 0) (.pwr a)
  else if field w 30 2 = 1#2 then .ok (.csel rd a b (field w 25 5)) else .error .selector

/-- custom-0, funct3 010: predicate branches and `itnext` (R129, R142, R174). -/
def decodeC0Branch (w : BitVec 32) : Decoded :=
  if fRs2 w = 0 then .ok (.bp (fRs1 w) (fImmB w)) else if fRs2 w = 1 then .ok (.bnp (fRs1 w) (fImmB w))
  else if fRs2 w = 2 then .ok (.itnext (fRs1 w) (fImmB w)) else .error .selector

/-- custom-0, funct3 011: constant-window loads (R143). -/
def decodeC0Const (w : BitVec 32) : Decoded :=
  if field w 28 4 = 0#4 then unused (fRs1 w == 0) (.ldk (fRd w) (field w 20 8))
  else if field w 28 4 = 1#4 then unused (fRs1 w == 0) (.fldk (fRd w) (field w 20 8)) else .error .selector

/-- custom-0, funct3 100: messages (R165). -/
def decodeC0Msg (w : BitVec 32) : Decoded :=
  let rd := fRd w; let a := fRs1 w; let b := fRs2 w
  if field w 28 4 = 0#4 then .ok (.msend rd a b (field w 25 3))
  else if fF7 w = 8 then .ok (.msendr rd a b) else if fF7 w = 9 then unused (a == 0 && b == 0) (.mpoll rd)
  else .error .selector

/-- custom-0, funct3 101: the key map (R168). -/
def decodeC0Map (w : BitVec 32) : Decoded :=
  let rd := fRd w; let a := fRs1 w; let b := fRs2 w; let f := fF7 w
  if f = 0 then unused (b == 0) (.klook rd a) else if f = 1 then .ok (.klookC rd a b)
  else if f = 2 then unused (b == 0) (.klookP rd a) else if f = 3 then unused (a == 0) (.kbind rd b)
  else if f = 4 then unused (a == 0) (.kpin rd b) else if f = 5 then unused (a == 0) (.kunpin rd b)
  else if f = 6 then unused (a == 0) (.kunbind rd b) else if f = 7 then unused (a == 0) (.kabandon rd b)
  else if f = 8 then unused (a == 0 && b == 0) (.kvict rd) else if f = 9 then unused (a == 0) (.kwait rd b)
  else if f = 10 then unused (a == 0 && b == 0) (.kwaitU rd) else .error .selector

/-- custom-0, funct3 110: groups and tasks (R171, R174, R160). -/
def decodeC0Task (w : BitVec 32) : Decoded :=
  let rd := fRd w; let a := fRs1 w; let b := fRs2 w; let f := fF7 w
  if f = 0 then unused (rd == 0 && b == 0) (.gjoin a) else if f = 1 then unused (rd == 0 && b == 0) (.gleave a)
  else if f = 2 then unused (rd == 0 && b == 0) (.gbar a) else if f = 3 then unused (b == 0) (.tspawn rd a)
  else if f = 4 then unused (rd == 0 && b == 0) (.tdec a) else if f = 5 then unused (b == 0) (.itclaim rd a)
  else if f = 6 then unused (rd == 0 && a == 0 && b == 0) .tretry else .error .selector

/-- custom-0 (R129). -/
def decodeCustom0 (w : BitVec 32) : Decoded :=
  if fF3 w = 0 then decodeC0Move w else if fF3 w = 1 then decodeC0Pred w else if fF3 w = 2 then decodeC0Branch w
  else if fF3 w = 3 then decodeC0Const w else if fF3 w = 4 then decodeC0Msg w else if fF3 w = 5 then decodeC0Map w
  else if fF3 w = 6 then decodeC0Task w
  else if field w 31 1 = 0#1 then .ok (.bsig (fImmL w)) else .ok (.ckpt (fImmL w))

/-- custom-1, funct3 011: full-empty ranges and fences (R179, R90). -/
def decodeC1Fence (w : BitVec 32) : Decoded :=
  let rd := fRd w; let a := fRs1 w; let b := fRs2 w
  if fF7 w = 0 then unused (rd == 0) (.feset a b) else if fF7 w = 1 then unused (rd == 0) (.feclr a b)
  else if field w 27 5 = 4#5 then unused (rd == 0 && a == 0 && b == 0) (.fenceSc (field w 25 2))
  else if fF7 w = 0x18 then unused (rd == 0 && a == 0 && b == 0) .fenceLe else .error .selector

/-- custom-1, funct3 100: atomics (R148). -/
def decodeC1Atomic (w : BitVec 32) : Decoded :=
  let rd := fRd w; let a := fRs1 w; let b := fRs2 w; let z : BitVec 1 := field w 27 1; let s : BitVec 2 := field w 25 2
  let o : BitVec 4 := field w 28 4
  if o = 0 then .ok (.atmSwap rd a b z s) else if o = 1 then .ok (.atmAdd rd a b z s)
  else if o = 2 then .ok (.atmAnd rd a b z s) else if o = 3 then .ok (.atmOr rd a b z s)
  else if o = 4 then .ok (.atmXor rd a b z s) else if o = 5 then .ok (.atmMin rd a b z s)
  else if o = 6 then .ok (.atmMax rd a b z s) else if o = 7 then .ok (.atmMinu rd a b z s)
  else if o = 8 then .ok (.atmMaxu rd a b z s)
  else if o = 9 then (if z = 0 then .ok (.atmFadd rd a b s) else .error .selector)
  else if o = 10 then .ok (.atmCas rd a b z s) else .error .selector

/-- custom-1, funct3 101: copies (R183). -/
def decodeC1Copy (w : BitVec 32) : Decoded :=
  let rd := fRd w; let a := fRs1 w; let b := fRs2 w; let c := fRs3 w
  if fF2 w = 0 then unused (rd == 0) (.copy a b c) else if fF2 w = 1 then unused (rd == 0) (.copyFe a b c)
  else if fF2 w = 2 then .ok (.copyAc a b c rd) else .ok (.copyTk a b c rd)

/-- custom-1, funct3 110: arrival counters (R176). -/
def decodeC1Counter (w : BitVec 32) : Decoded :=
  let rd := fRd w; let a := fRs1 w; let b := fRs2 w
  if fF7 w = 0 then unused (b == 0) (.acpost a rd) else if fF7 w = 1 then unused (rd == 0) (.acadd a b)
  else if fF7 w = 2 then unused (a == 0) (.acwait rd b) else if fF7 w = 3 then unused (b == 0) (.actrig a rd)
  else if fF7 w = 4 then unused (a == 0) (.acread rd b) else .error .selector

/-- custom-1 (R130). -/
def decodeCustom1 (w : BitVec 32) : Decoded :=
  if fF3 w = 0 then .ok (.ldsync (fRd w) (fRs1 w) (fImmI w)) else if fF3 w = 1 then .ok (.ldsyncC (fRd w) (fRs1 w) (fImmI w))
  else if fF3 w = 2 then .ok (.ldf (fRd w) (fRs1 w) (fImmI w)) else if fF3 w = 3 then decodeC1Fence w
  else if fF3 w = 4 then decodeC1Atomic w else if fF3 w = 5 then decodeC1Copy w
  else if fF3 w = 6 then decodeC1Counter w else .error .funct3

/-- custom-2, funct3 000: integer vector operations (R201). -/
def decodeC2Int (w : BitVec 32) : Decoded :=
  let rd := fRd w; let a := fRs1 w; let b := fRs2 w; let z : BitVec 2 := field w 25 2; let o : BitVec 5 := field w 27 5
  if o = 0 then .ok (.vadd rd a b z) else if o = 1 then .ok (.vsub rd a b z) else if o = 2 then .ok (.vmul rd a b z)
  else if o = 3 then .ok (.vand rd a b z) else if o = 4 then .ok (.vor rd a b z) else if o = 5 then .ok (.vxor rd a b z)
  else if o = 6 then .ok (.vsll rd a b z) else if o = 7 then .ok (.vsrl rd a b z) else if o = 8 then .ok (.vsra rd a b z)
  else if o = 9 then .ok (.vmin rd a b z) else if o = 10 then .ok (.vmax rd a b z)
  else if o = 11 then .ok (.vminu rd a b z) else if o = 12 then .ok (.vmaxu rd a b z) else .error .selector

/-- custom-2, funct3 001: floating vector operations (R202). -/
def decodeC2Fp (w : BitVec 32) : Decoded :=
  let rd := fRd w; let a := fRs1 w; let b := fRs2 w; let z : BitVec 2 := field w 25 2; let o : BitVec 5 := field w 27 5
  if o = 0 then .ok (.vfadd rd a b z) else if o = 1 then .ok (.vfsub rd a b z) else if o = 2 then .ok (.vfmul rd a b z)
  else if o = 3 then .ok (.vfma rd a b z) else if o = 4 then .ok (.vfmin rd a b z) else if o = 5 then .ok (.vfmax rd a b z)
  else .error .selector

/-- custom-2, funct3 010: modular operations (R204). -/
def decodeC2Mod (w : BitVec 32) : Decoded :=
  let rd := fRd w; let a := fRs1 w; let b := fRs2 w; let f := fF7 w
  if f = 0 then .ok (.vaddm rd a b) else if f = 1 then .ok (.vsubm rd a b) else if f = 2 then .ok (.vmulm rd a b)
  else if f = 3 then .ok (.vmont rd a b) else if f = 4 then unused (b == 0) (.vbfly rd a)
  else if f = 5 then unused (b == 0) (.vbflyi rd a) else if f = 6 then unused (rd == 0) (.vqset a b)
  else .error .selector

/-- custom-2, funct3 011: moves, reductions, compares, select (R208, R209). -/
def decodeC2Move (w : BitVec 32) : Decoded :=
  let rd := fRd w; let a := fRs1 w; let b := fRs2 w; let f := fF7 w
  if f = 0 then .ok (.vpermBf rd a b) else if f = 1 then .ok (.vmvx rd a b) else if f = 2 then .ok (.vins rd a b)
  else if f = 3 then unused (b == 0) (.vbcast rd a) else if f = 4 then unused (b == 0) (.vredsumS rd a)
  else if f = 5 then unused (b == 0) (.vredmaxS rd a) else if f = 8 then .ok (.vcmpeqS rd a b)
  else if f = 9 then .ok (.vcmpltS rd a b) else if f = 10 then .ok (.vcmpleS rd a b)
  else if f = 12 then .ok (.vsel rd a b) else .error .selector

/-- custom-2, funct3 111: special functions, fence, gather, blocks (R131, R214-R217). -/
def decodeC2Unit (w : BitVec 32) : Decoded :=
  let rd := fRd w; let a := fRs1 w; let b := fRs2 w; let f := fF7 w
  if f = 0 then .ok (.vsfu rd a b) else if f = 1 then unused (rd == 0 && a == 0 && b == 0) .vfence
  else if f = 2 then unused (rd == 0) (.gathb a b) else if f = 3 then unused (rd == 0) (.vquant a b)
  else if f = 4 then unused (b == 0) (.vdquant rd a) else .error .selector

/-- custom-2 (R131). -/
def decodeCustom2 (w : BitVec 32) : Decoded :=
  if fF3 w = 0 then decodeC2Int w else if fF3 w = 1 then decodeC2Fp w else if fF3 w = 2 then decodeC2Mod w
  else if fF3 w = 3 then decodeC2Move w else if fF3 w = 4 then .ok (.vld (fRd w) (fRs1 w) (fImmI w))
  else if fF3 w = 5 then .ok (.vst (fRs1 w) (fRs2 w) (fImmS w))
  else if fF3 w = 6 then .ok (.vcvt (fRd w) (fRs1 w) (field w 28 4) (field w 25 3) (fRs2 w)) else decodeC2Unit w

/-- custom-3, funct3 011: weights, read-out, rotation, remote commands, wait (R227, R231-R233, R236, R238). -/
def decodeC3Unit (w : BitVec 32) : Decoded :=
  let rd := fRd w; let a := fRs1 w; let b := fRs2 w; let f := fF7 w
  if f = 0 then unused (rd == 0) (.mldw a b) else if f = 1 then unused (rd == 0 && a == 0 && b == 0) .mswap
  else if f = 2 then unused (a == 0 && b == 0) (.mzero rd) else if f = 3 then .ok (.mrd rd a b)
  else if f = 4 then .ok (.mrdExp rd a b) else if f = 5 then unused (b == 0) (.mrmax rd a)
  else if f = 6 then unused (rd == 0 && b == 0) (.mrot a) else if f = 7 then unused (rd == 0) (.mcmd a b)
  else if f = 8 then unused (rd == 0 && a == 0 && b == 0) .mwait else .error .selector

/-- custom-3, funct3 101: top-k selection (R240). -/
def decodeC3Topk (w : BitVec 32) : Decoded :=
  let rd := fRd w; let a := fRs1 w; let b := fRs2 w; let f := fF7 w
  if f = 0 then .ok (.topkS a b rd) else if f = 1 then .ok (.topkSC a b rd) else if f = 2 then .ok (.topkBf a b rd)
  else if f = 3 then .ok (.topkBfC a b rd) else if f = 4 then unused (rd == 0 && b == 0) (.rcsnap a)
  else .error .selector

/-- custom-3 (R133). -/
def decodeCustom3 (w : BitVec 32) : Decoded :=
  let rd := fRd w; let a := fRs1 w; let b := fRs2 w; let c := fRs3 w; let f := fF2 w
  if fF3 w = 0 then
    (if f = 0 then .ok (.mmaE43E43 rd a b c) else if f = 1 then .ok (.mmaE43E52 rd a b c)
     else if f = 2 then .ok (.mmaE52E43 rd a b c) else .ok (.mmaE52E52 rd a b c))
  else if fF3 w = 1 then
    (if f = 0 then .ok (.mmaE21xE21x rd a b c) else if f = 1 then .ok (.mmaE43E21x rd a b c)
     else if f = 2 then .ok (.mmaBfBf rd a b c) else .ok (.mmaSS rd a b c))
  else if fF3 w = 2 then (if f = 0 then unused (c == 0) (.mmaI8I8 rd a b) else .error .selector)
  else if fF3 w = 3 then decodeC3Unit w
  else if fF3 w = 4 then (if f = 0 then .ok (.mtmask rd a b c) else .error .selector)
  else if fF3 w = 5 then decodeC3Topk w
  else if fF3 w = 6 then
    (if f = 0 then .ok (.combPutS a b c rd) else if f = 1 then .ok (.combPutBf a b c rd) else .error .selector)
  else .error .funct3

/-- The instruction whose selectors a word holds, before the limits of its fields are checked (R125). -/
def decodeSelect (w : BitVec 32) : Decoded :=
  let o := fOp w; let rd := fRd w; let a := fRs1 w; let b := fRs2 w
  if o = 0x37 then .ok (.lui rd (fImmU w)) else if o = 0x17 then .ok (.auipc rd (fImmU w))
  else if o = 0x6F then .ok (.jal rd (fImmJ w))
  else if o = 0x67 then (if fF3 w = 0 then .ok (.jalr rd a (fImmI w)) else .error .funct3)
  else if o = 0x63 then decodeBranch w else if o = 0x03 then decodeLoad w else if o = 0x23 then decodeStore w
  else if o = 0x13 then decodeOpImm w else if o = 0x1B then decodeOpImm32 w
  else if o = 0x33 then decodeOp w else if o = 0x3B then decodeOp32 w
  else if o = 0x0F then
    (if fF3 w = 0 then unused (rd == 0 && a == 0) (.fence (field w 28 4) (field w 24 4) (field w 20 4)) else .error .funct3)
  else if o = 0x73 then decodeSystem w
  else if o = 0x07 then (if fF3 w = 2 then .ok (.flw rd a (fImmI w)) else .error .funct3)
  else if o = 0x27 then (if fF3 w = 2 then .ok (.fsw a b (fImmS w)) else .error .funct3)
  else if o = 0x43 then (if fF2 w = 0 then .ok (.fmaddS rd a b (fRs3 w) (fF3 w)) else .error .selector)
  else if o = 0x47 then (if fF2 w = 0 then .ok (.fmsubS rd a b (fRs3 w) (fF3 w)) else .error .selector)
  else if o = 0x4B then (if fF2 w = 0 then .ok (.fnmsubS rd a b (fRs3 w) (fF3 w)) else .error .selector)
  else if o = 0x4F then (if fF2 w = 0 then .ok (.fnmaddS rd a b (fRs3 w) (fF3 w)) else .error .selector)
  else if o = 0x53 then decodeFp w
  else if o = 0x0B then decodeCustom0 w else if o = 0x2B then decodeCustom1 w
  else if o = 0x5B then decodeCustom2 w else if o = 0x7B then decodeCustom3 w
  else .error .majorOpcode

/-- Decoding: the selectors, then the limits of the fields (R134). -/
def decode (w : BitVec 32) : Decoded :=
  match decodeSelect w with
  | .ok i => if i.wellFormed then .ok i else .error .fieldLimit
  | .error e => .error e

/-- The instruction read from a table row's word: an instruction is one 32-bit word (R121), so the bits above nbits
are 0 and a word that does not fit 32 bits is none. -/
def decodeTableWord (nbits w : Nat) : Option Instr :=
  if nbits ≤ 32 ∧ w < 2 ^ 32 then
    match decode (BitVec.ofNat 32 w) with
    | .ok i => some i
    | .error _ => none
  else none

/-! The encoder, from R122 and the encoding tables. -/

/-- A format (R122). -/
def encA (f7 : BitVec 7) (rs2 rs1 : Reg) (f3 : BitVec 3) (rd : Reg) (op : BitVec 7) : BitVec 32 :=
  f7 ++ rs2 ++ rs1 ++ f3 ++ rd ++ op

/-- I format (R122). -/
def encI (imm : BitVec 12) (rs1 : Reg) (f3 : BitVec 3) (rd : Reg) (op : BitVec 7) : BitVec 32 :=
  imm ++ rs1 ++ f3 ++ rd ++ op

/-- S format (R122). -/
def encS (imm : BitVec 12) (rs2 rs1 : Reg) (f3 : BitVec 3) (op : BitVec 7) : BitVec 32 :=
  encA (imm.extractLsb' 5 7) rs2 rs1 f3 (imm.extractLsb' 0 5) op

/-- B format (R122); the immediate is imm[12:1]. -/
def encB (imm : BitVec 12) (rs2 rs1 : Reg) (f3 : BitVec 3) (op : BitVec 7) : BitVec 32 :=
  encA (imm.extractLsb' 11 1 ++ imm.extractLsb' 4 6) rs2 rs1 f3 (imm.extractLsb' 0 4 ++ imm.extractLsb' 10 1) op

/-- U format (R122); the immediate is imm[31:12]. -/
def encU (imm : BitVec 20) (rd : Reg) (op : BitVec 7) : BitVec 32 := imm ++ rd ++ op

/-- J format (R122); the immediate is imm[20:1]. -/
def encJ (imm : BitVec 20) (rd : Reg) (op : BitVec 7) : BitVec 32 :=
  imm.extractLsb' 19 1 ++ imm.extractLsb' 0 10 ++ imm.extractLsb' 10 1 ++ imm.extractLsb' 11 8 ++ rd ++ op

/-- Q format (R122). -/
def encQ (rs3 : Reg) (f2 : BitVec 2) (rs2 rs1 : Reg) (f3 : BitVec 3) (rd : Reg) (op : BitVec 7) : BitVec 32 :=
  rs3 ++ f2 ++ rs2 ++ rs1 ++ f3 ++ rd ++ op

/-- L format (R122, R189): imm[21] and the 21-bit index. -/
def encL (top : BitVec 1) (n : BitVec 21) (f3 : BitVec 3) (op : BitVec 7) : BitVec 32 :=
  top ++ n.extractLsb' 10 11 ++ n.extractLsb' 5 5 ++ f3 ++ n.extractLsb' 0 5 ++ op

/-- The word of an instruction; an event has none. -/
def encode (i : Instr) : Option (BitVec 32) :=
  match i with
  | .lui rd imm => some (encU imm rd 0x37)
  | .auipc rd imm => some (encU imm rd 0x17)
  | .jal rd imm => some (encJ imm rd 0x6F)
  | .jalr rd rs1 imm => some (encI imm rs1 0 rd 0x67)
  | .beq rs1 rs2 imm => some (encB imm rs2 rs1 0 0x63)
  | .bne rs1 rs2 imm => some (encB imm rs2 rs1 1 0x63)
  | .blt rs1 rs2 imm => some (encB imm rs2 rs1 4 0x63)
  | .bge rs1 rs2 imm => some (encB imm rs2 rs1 5 0x63)
  | .bltu rs1 rs2 imm => some (encB imm rs2 rs1 6 0x63)
  | .bgeu rs1 rs2 imm => some (encB imm rs2 rs1 7 0x63)
  | .lb rd rs1 imm => some (encI imm rs1 0 rd 0x03)
  | .lh rd rs1 imm => some (encI imm rs1 1 rd 0x03)
  | .lw rd rs1 imm => some (encI imm rs1 2 rd 0x03)
  | .ld rd rs1 imm => some (encI imm rs1 3 rd 0x03)
  | .lbu rd rs1 imm => some (encI imm rs1 4 rd 0x03)
  | .lhu rd rs1 imm => some (encI imm rs1 5 rd 0x03)
  | .lwu rd rs1 imm => some (encI imm rs1 6 rd 0x03)
  | .sb rs1 rs2 imm => some (encS imm rs2 rs1 0 0x23)
  | .sh rs1 rs2 imm => some (encS imm rs2 rs1 1 0x23)
  | .sw rs1 rs2 imm => some (encS imm rs2 rs1 2 0x23)
  | .sd rs1 rs2 imm => some (encS imm rs2 rs1 3 0x23)
  | .addi rd rs1 imm => some (encI imm rs1 0 rd 0x13)
  | .slti rd rs1 imm => some (encI imm rs1 2 rd 0x13)
  | .sltiu rd rs1 imm => some (encI imm rs1 3 rd 0x13)
  | .xori rd rs1 imm => some (encI imm rs1 4 rd 0x13)
  | .ori rd rs1 imm => some (encI imm rs1 6 rd 0x13)
  | .andi rd rs1 imm => some (encI imm rs1 7 rd 0x13)
  | .slli rd rs1 sh => some (encI (0#6 ++ sh) rs1 1 rd 0x13)
  | .srli rd rs1 sh => some (encI (0#6 ++ sh) rs1 5 rd 0x13)
  | .srai rd rs1 sh => some (encI (16#6 ++ sh) rs1 5 rd 0x13)
  | .add rd rs1 rs2 => some (encA 0 rs2 rs1 0 rd 0x33)
  | .sub rd rs1 rs2 => some (encA 32 rs2 rs1 0 rd 0x33)
  | .sll rd rs1 rs2 => some (encA 0 rs2 rs1 1 rd 0x33)
  | .slt rd rs1 rs2 => some (encA 0 rs2 rs1 2 rd 0x33)
  | .sltu rd rs1 rs2 => some (encA 0 rs2 rs1 3 rd 0x33)
  | .xor rd rs1 rs2 => some (encA 0 rs2 rs1 4 rd 0x33)
  | .srl rd rs1 rs2 => some (encA 0 rs2 rs1 5 rd 0x33)
  | .sra rd rs1 rs2 => some (encA 32 rs2 rs1 5 rd 0x33)
  | .or rd rs1 rs2 => some (encA 0 rs2 rs1 6 rd 0x33)
  | .and rd rs1 rs2 => some (encA 0 rs2 rs1 7 rd 0x33)
  | .fence fm pred succ => some (encI (fm ++ pred ++ succ) 0 0 0 0x0F)
  | .addiw rd rs1 imm => some (encI imm rs1 0 rd 0x1B)
  | .slliw rd rs1 sh => some (encA 0 sh rs1 1 rd 0x1B)
  | .srliw rd rs1 sh => some (encA 0 sh rs1 5 rd 0x1B)
  | .sraiw rd rs1 sh => some (encA 32 sh rs1 5 rd 0x1B)
  | .addw rd rs1 rs2 => some (encA 0 rs2 rs1 0 rd 0x3B)
  | .subw rd rs1 rs2 => some (encA 32 rs2 rs1 0 rd 0x3B)
  | .sllw rd rs1 rs2 => some (encA 0 rs2 rs1 1 rd 0x3B)
  | .srlw rd rs1 rs2 => some (encA 0 rs2 rs1 5 rd 0x3B)
  | .sraw rd rs1 rs2 => some (encA 32 rs2 rs1 5 rd 0x3B)
  | .mul rd rs1 rs2 => some (encA 1 rs2 rs1 0 rd 0x33)
  | .mulh rd rs1 rs2 => some (encA 1 rs2 rs1 1 rd 0x33)
  | .mulhsu rd rs1 rs2 => some (encA 1 rs2 rs1 2 rd 0x33)
  | .mulhu rd rs1 rs2 => some (encA 1 rs2 rs1 3 rd 0x33)
  | .div rd rs1 rs2 => some (encA 1 rs2 rs1 4 rd 0x33)
  | .divu rd rs1 rs2 => some (encA 1 rs2 rs1 5 rd 0x33)
  | .rem rd rs1 rs2 => some (encA 1 rs2 rs1 6 rd 0x33)
  | .remu rd rs1 rs2 => some (encA 1 rs2 rs1 7 rd 0x33)
  | .mulw rd rs1 rs2 => some (encA 1 rs2 rs1 0 rd 0x3B)
  | .divw rd rs1 rs2 => some (encA 1 rs2 rs1 4 rd 0x3B)
  | .divuw rd rs1 rs2 => some (encA 1 rs2 rs1 5 rd 0x3B)
  | .remw rd rs1 rs2 => some (encA 1 rs2 rs1 6 rd 0x3B)
  | .remuw rd rs1 rs2 => some (encA 1 rs2 rs1 7 rd 0x3B)
  | .csrrw rd rs1 csr => some (encI csr rs1 1 rd 0x73)
  | .csrrs rd rs1 csr => some (encI csr rs1 2 rd 0x73)
  | .csrrc rd rs1 csr => some (encI csr rs1 3 rd 0x73)
  | .csrrwi rd csr uimm => some (encI csr uimm 5 rd 0x73)
  | .csrrsi rd csr uimm => some (encI csr uimm 6 rd 0x73)
  | .csrrci rd csr uimm => some (encI csr uimm 7 rd 0x73)
  | .flw rd rs1 imm => some (encI imm rs1 2 rd 0x07)
  | .fsw rs1 rs2 imm => some (encS imm rs2 rs1 2 0x27)
  | .fmaddS rd rs1 rs2 rs3 rm => some (encQ rs3 0 rs2 rs1 rm rd 0x43)
  | .fmsubS rd rs1 rs2 rs3 rm => some (encQ rs3 0 rs2 rs1 rm rd 0x47)
  | .fnmsubS rd rs1 rs2 rs3 rm => some (encQ rs3 0 rs2 rs1 rm rd 0x4B)
  | .fnmaddS rd rs1 rs2 rs3 rm => some (encQ rs3 0 rs2 rs1 rm rd 0x4F)
  | .faddS rd rs1 rs2 rm => some (encA 0 rs2 rs1 rm rd 0x53)
  | .fsubS rd rs1 rs2 rm => some (encA 4 rs2 rs1 rm rd 0x53)
  | .fmulS rd rs1 rs2 rm => some (encA 8 rs2 rs1 rm rd 0x53)
  | .fdivS rd rs1 rs2 rm => some (encA 12 rs2 rs1 rm rd 0x53)
  | .fsqrtS rd rs1 rm => some (encA 44 0 rs1 rm rd 0x53)
  | .fsgnjS rd rs1 rs2 => some (encA 16 rs2 rs1 0 rd 0x53)
  | .fsgnjnS rd rs1 rs2 => some (encA 16 rs2 rs1 1 rd 0x53)
  | .fsgnjxS rd rs1 rs2 => some (encA 16 rs2 rs1 2 rd 0x53)
  | .fminS rd rs1 rs2 => some (encA 20 rs2 rs1 0 rd 0x53)
  | .fmaxS rd rs1 rs2 => some (encA 20 rs2 rs1 1 rd 0x53)
  | .fcvtWS rd rs1 rm => some (encA 96 0 rs1 rm rd 0x53)
  | .fcvtWuS rd rs1 rm => some (encA 96 1 rs1 rm rd 0x53)
  | .fcvtLS rd rs1 rm => some (encA 96 2 rs1 rm rd 0x53)
  | .fcvtLuS rd rs1 rm => some (encA 96 3 rs1 rm rd 0x53)
  | .fcvtSW rd rs1 rm => some (encA 104 0 rs1 rm rd 0x53)
  | .fcvtSWu rd rs1 rm => some (encA 104 1 rs1 rm rd 0x53)
  | .fcvtSL rd rs1 rm => some (encA 104 2 rs1 rm rd 0x53)
  | .fcvtSLu rd rs1 rm => some (encA 104 3 rs1 rm rd 0x53)
  | .fmvXW rd rs1 => some (encA 112 0 rs1 0 rd 0x53)
  | .fmvWX rd rs1 => some (encA 120 0 rs1 0 rd 0x53)
  | .feqS rd rs1 rs2 => some (encA 80 rs2 rs1 2 rd 0x53)
  | .fltS rd rs1 rs2 => some (encA 80 rs2 rs1 1 rd 0x53)
  | .fleS rd rs1 rs2 => some (encA 80 rs2 rs1 0 rd 0x53)
  | .fclassS rd rs1 => some (encA 112 0 rs1 1 rd 0x53)
  | .migrS rs1 => some (encA 0 0 rs1 0 0 0x0B)
  | .migrL rs1 => some (encA 1 0 rs1 0 0 0x0B)
  | .migrH rs1 => some (encA 2 0 rs1 0 0 0x0B)
  | .migrA rs1 => some (encA 3 0 rs1 0 0 0x0B)
  | .twait rd rs1 => some (encA 5 0 rs1 0 rd 0x0B)
  | .gang rd rs1 => some (encA 6 0 rs1 0 rd 0x0B)
  | .pcmpEq rd rs1 rs2 => some (encA 0 rs2 rs1 1 rd 0x0B)
  | .pcmpNe rd rs1 rs2 => some (encA 1 rs2 rs1 1 rd 0x0B)
  | .pcmpLt rd rs1 rs2 => some (encA 2 rs2 rs1 1 rd 0x0B)
  | .pcmpGe rd rs1 rs2 => some (encA 3 rs2 rs1 1 rd 0x0B)
  | .pcmpLtu rd rs1 rs2 => some (encA 4 rs2 rs1 1 rd 0x0B)
  | .pcmpGeu rd rs1 rs2 => some (encA 5 rs2 rs1 1 rd 0x0B)
  | .pand rd rs1 rs2 => some (encA 8 rs2 rs1 1 rd 0x0B)
  | .por rd rs1 rs2 => some (encA 9 rs2 rs1 1 rd 0x0B)
  | .pxor rd rs1 rs2 => some (encA 10 rs2 rs1 1 rd 0x0B)
  | .pandn rd rs1 rs2 => some (encA 11 rs2 rs1 1 rd 0x0B)
  | .pmov rd => some (encA 16 0 0 1 rd 0x0B)
  | .pwr rs1 => some (encA 17 0 rs1 1 0 0x0B)
  | .csel rd rs1 rs2 p => some (encA (1#2 ++ p) rs2 rs1 1 rd 0x0B)
  | .bp p imm => some (encB imm 0 p 2 0x0B)
  | .bnp p imm => some (encB imm 1 p 2 0x0B)
  | .itnext x imm => some (encB imm 2 x 2 0x0B)
  | .ldk rd n => some (encI (0#4 ++ n) 0 3 rd 0x0B)
  | .fldk rd n => some (encI (1#4 ++ n) 0 3 rd 0x0B)
  | .msend rd rs1 rs2 n => some (encA (0#4 ++ n) rs2 rs1 4 rd 0x0B)
  | .msendr rd rs1 rs2 => some (encA 8 rs2 rs1 4 rd 0x0B)
  | .mpoll rd => some (encA 9 0 0 4 rd 0x0B)
  | .klook rd rs1 => some (encA 0 0 rs1 5 rd 0x0B)
  | .klookC rd rs1 rs2 => some (encA 1 rs2 rs1 5 rd 0x0B)
  | .klookP rd rs1 => some (encA 2 0 rs1 5 rd 0x0B)
  | .kbind rd rs2 => some (encA 3 rs2 0 5 rd 0x0B)
  | .kpin rd rs2 => some (encA 4 rs2 0 5 rd 0x0B)
  | .kunpin rd rs2 => some (encA 5 rs2 0 5 rd 0x0B)
  | .kunbind rd rs2 => some (encA 6 rs2 0 5 rd 0x0B)
  | .kabandon rd rs2 => some (encA 7 rs2 0 5 rd 0x0B)
  | .kvict rd => some (encA 8 0 0 5 rd 0x0B)
  | .kwait rd rs2 => some (encA 9 rs2 0 5 rd 0x0B)
  | .kwaitU rd => some (encA 10 0 0 5 rd 0x0B)
  | .gjoin rs1 => some (encA 0 0 rs1 6 0 0x0B)
  | .gleave rs1 => some (encA 1 0 rs1 6 0 0x0B)
  | .gbar rs1 => some (encA 2 0 rs1 6 0 0x0B)
  | .tspawn rd rs1 => some (encA 3 0 rs1 6 rd 0x0B)
  | .tdec rs1 => some (encA 4 0 rs1 6 0 0x0B)
  | .itclaim rd rs1 => some (encA 5 0 rs1 6 rd 0x0B)
  | .bsig n => some (encL 0 n 7 0x0B)
  | .ckpt n => some (encL 1 n 7 0x0B)
  | .ldsync rd rs1 imm => some (encI imm rs1 0 rd 0x2B)
  | .ldsyncC rd rs1 imm => some (encI imm rs1 1 rd 0x2B)
  | .ldf rd rs1 imm => some (encI imm rs1 2 rd 0x2B)
  | .feset rs1 rs2 => some (encA 0 rs2 rs1 3 0 0x2B)
  | .feclr rs1 rs2 => some (encA 1 rs2 rs1 3 0 0x2B)
  | .fenceSc scope => some (encA (4#5 ++ scope) 0 0 3 0 0x2B)
  | .atmSwap rd rs1 rs2 size scope => some (encA (0#4 ++ size ++ scope) rs2 rs1 4 rd 0x2B)
  | .atmAdd rd rs1 rs2 size scope => some (encA (1#4 ++ size ++ scope) rs2 rs1 4 rd 0x2B)
  | .atmAnd rd rs1 rs2 size scope => some (encA (2#4 ++ size ++ scope) rs2 rs1 4 rd 0x2B)
  | .atmOr rd rs1 rs2 size scope => some (encA (3#4 ++ size ++ scope) rs2 rs1 4 rd 0x2B)
  | .atmXor rd rs1 rs2 size scope => some (encA (4#4 ++ size ++ scope) rs2 rs1 4 rd 0x2B)
  | .atmMin rd rs1 rs2 size scope => some (encA (5#4 ++ size ++ scope) rs2 rs1 4 rd 0x2B)
  | .atmMax rd rs1 rs2 size scope => some (encA (6#4 ++ size ++ scope) rs2 rs1 4 rd 0x2B)
  | .atmMinu rd rs1 rs2 size scope => some (encA (7#4 ++ size ++ scope) rs2 rs1 4 rd 0x2B)
  | .atmMaxu rd rs1 rs2 size scope => some (encA (8#4 ++ size ++ scope) rs2 rs1 4 rd 0x2B)
  | .atmFadd rd rs1 rs2 scope => some (encA (9#4 ++ 0#1 ++ scope) rs2 rs1 4 rd 0x2B)
  | .atmCas rd rs1 rs2 size scope => some (encA (10#4 ++ size ++ scope) rs2 rs1 4 rd 0x2B)
  | .copy rs1 rs2 rs3 => some (encQ rs3 0 rs2 rs1 5 0 0x2B)
  | .copyFe rs1 rs2 rs3 => some (encQ rs3 1 rs2 rs1 5 0 0x2B)
  | .copyAc rs1 rs2 rs3 n => some (encQ rs3 2 rs2 rs1 5 n 0x2B)
  | .copyTk rs1 rs2 rs3 rd => some (encQ rs3 3 rs2 rs1 5 rd 0x2B)
  | .acpost rs1 n => some (encA 0 0 rs1 6 n 0x2B)
  | .acadd rs1 rs2 => some (encA 1 rs2 rs1 6 0 0x2B)
  | .acwait rd n => some (encA 2 n 0 6 rd 0x2B)
  | .actrig rs1 n => some (encA 3 0 rs1 6 n 0x2B)
  | .acread rd n => some (encA 4 n 0 6 rd 0x2B)
  | .vadd rd rs1 rs2 w => some (encA (0#5 ++ w) rs2 rs1 0 rd 0x5B)
  | .vsub rd rs1 rs2 w => some (encA (1#5 ++ w) rs2 rs1 0 rd 0x5B)
  | .vmul rd rs1 rs2 w => some (encA (2#5 ++ w) rs2 rs1 0 rd 0x5B)
  | .vand rd rs1 rs2 w => some (encA (3#5 ++ w) rs2 rs1 0 rd 0x5B)
  | .vor rd rs1 rs2 w => some (encA (4#5 ++ w) rs2 rs1 0 rd 0x5B)
  | .vxor rd rs1 rs2 w => some (encA (5#5 ++ w) rs2 rs1 0 rd 0x5B)
  | .vsll rd rs1 rs2 w => some (encA (6#5 ++ w) rs2 rs1 0 rd 0x5B)
  | .vsrl rd rs1 rs2 w => some (encA (7#5 ++ w) rs2 rs1 0 rd 0x5B)
  | .vsra rd rs1 rs2 w => some (encA (8#5 ++ w) rs2 rs1 0 rd 0x5B)
  | .vmin rd rs1 rs2 w => some (encA (9#5 ++ w) rs2 rs1 0 rd 0x5B)
  | .vmax rd rs1 rs2 w => some (encA (10#5 ++ w) rs2 rs1 0 rd 0x5B)
  | .vminu rd rs1 rs2 w => some (encA (11#5 ++ w) rs2 rs1 0 rd 0x5B)
  | .vmaxu rd rs1 rs2 w => some (encA (12#5 ++ w) rs2 rs1 0 rd 0x5B)
  | .vfadd rd rs1 rs2 fmt => some (encA (0#5 ++ fmt) rs2 rs1 1 rd 0x5B)
  | .vfsub rd rs1 rs2 fmt => some (encA (1#5 ++ fmt) rs2 rs1 1 rd 0x5B)
  | .vfmul rd rs1 rs2 fmt => some (encA (2#5 ++ fmt) rs2 rs1 1 rd 0x5B)
  | .vfma rd rs1 rs2 fmt => some (encA (3#5 ++ fmt) rs2 rs1 1 rd 0x5B)
  | .vfmin rd rs1 rs2 fmt => some (encA (4#5 ++ fmt) rs2 rs1 1 rd 0x5B)
  | .vfmax rd rs1 rs2 fmt => some (encA (5#5 ++ fmt) rs2 rs1 1 rd 0x5B)
  | .vaddm rd rs1 rs2 => some (encA 0 rs2 rs1 2 rd 0x5B)
  | .vsubm rd rs1 rs2 => some (encA 1 rs2 rs1 2 rd 0x5B)
  | .vmulm rd rs1 rs2 => some (encA 2 rs2 rs1 2 rd 0x5B)
  | .vmont rd rs1 rs2 => some (encA 3 rs2 rs1 2 rd 0x5B)
  | .vbfly rd rs1 => some (encA 4 0 rs1 2 rd 0x5B)
  | .vbflyi rd rs1 => some (encA 5 0 rs1 2 rd 0x5B)
  | .vqset rs1 rs2 => some (encA 6 rs2 rs1 2 0 0x5B)
  | .vpermBf rd rs1 k => some (encA 0 k rs1 3 rd 0x5B)
  | .vmvx rd rs1 n => some (encA 1 n rs1 3 rd 0x5B)
  | .vins rd rs1 n => some (encA 2 n rs1 3 rd 0x5B)
  | .vbcast rd rs1 => some (encA 3 0 rs1 3 rd 0x5B)
  | .vredsumS rd rs1 => some (encA 4 0 rs1 3 rd 0x5B)
  | .vredmaxS rd rs1 => some (encA 5 0 rs1 3 rd 0x5B)
  | .vcmpeqS rd rs1 rs2 => some (encA 8 rs2 rs1 3 rd 0x5B)
  | .vcmpltS rd rs1 rs2 => some (encA 9 rs2 rs1 3 rd 0x5B)
  | .vcmpleS rd rs1 rs2 => some (encA 10 rs2 rs1 3 rd 0x5B)
  | .vsel rd rs1 rs2 => some (encA 12 rs2 rs1 3 rd 0x5B)
  | .vld rd rs1 imm => some (encI imm rs1 4 rd 0x5B)
  | .vst rs1 rs2 imm => some (encS imm rs2 rs1 5 0x5B)
  | .vcvt rd rs1 dst src part => some (encA (dst ++ src) part rs1 6 rd 0x5B)
  | .vsfu rd rs1 op => some (encA 0 op rs1 7 rd 0x5B)
  | .gathb rs1 rs2 => some (encA 2 rs2 rs1 7 0 0x5B)
  | .vquant rs1 rs2 => some (encA 3 rs2 rs1 7 0 0x5B)
  | .vdquant rd rs1 => some (encA 4 0 rs1 7 rd 0x5B)
  | .mmaE43E43 rd rs1 rs2 rs3 => some (encQ rs3 0 rs2 rs1 0 rd 0x7B)
  | .mmaE43E52 rd rs1 rs2 rs3 => some (encQ rs3 1 rs2 rs1 0 rd 0x7B)
  | .mmaE52E43 rd rs1 rs2 rs3 => some (encQ rs3 2 rs2 rs1 0 rd 0x7B)
  | .mmaE52E52 rd rs1 rs2 rs3 => some (encQ rs3 3 rs2 rs1 0 rd 0x7B)
  | .mmaE21xE21x rd rs1 rs2 rs3 => some (encQ rs3 0 rs2 rs1 1 rd 0x7B)
  | .mmaE43E21x rd rs1 rs2 rs3 => some (encQ rs3 1 rs2 rs1 1 rd 0x7B)
  | .mmaBfBf rd rs1 rs2 rs3 => some (encQ rs3 2 rs2 rs1 1 rd 0x7B)
  | .mmaSS rd rs1 rs2 rs3 => some (encQ rs3 3 rs2 rs1 1 rd 0x7B)
  | .mmaI8I8 rd rs1 rs2 => some (encQ 0 0 rs2 rs1 2 rd 0x7B)
  | .mldw rs1 fmt => some (encA 0 fmt rs1 3 0 0x7B)
  | .mzero rd => some (encA 2 0 0 3 rd 0x7B)
  | .mrd rd rs1 fmt => some (encA 3 fmt rs1 3 rd 0x7B)
  | .mrdExp rd rs1 rs2 => some (encA 4 rs2 rs1 3 rd 0x7B)
  | .mrmax rd rs1 => some (encA 5 0 rs1 3 rd 0x7B)
  | .mrot rs1 => some (encA 6 0 rs1 3 0 0x7B)
  | .mcmd rs1 rs2 => some (encA 7 rs2 rs1 3 0 0x7B)
  | .mtmask rd rs1 rs2 rs3 => some (encQ rs3 0 rs2 rs1 4 rd 0x7B)
  | .topkS rs1 rs2 k => some (encA 0 rs2 rs1 5 k 0x7B)
  | .topkSC rs1 rs2 k => some (encA 1 rs2 rs1 5 k 0x7B)
  | .topkBf rs1 rs2 k => some (encA 2 rs2 rs1 5 k 0x7B)
  | .topkBfC rs1 rs2 k => some (encA 3 rs2 rs1 5 k 0x7B)
  | .rcsnap rs1 => some (encA 4 0 rs1 5 0 0x7B)
  | .combPutS rs1 rs2 rs3 rank => some (encQ rs3 0 rs2 rs1 6 rank 0x7B)
  | .combPutBf rs1 rs2 rs3 rank => some (encQ rs3 1 rs2 rs1 6 rank 0x7B)
  | .ecall => some (encI 0 0 0 0 0x73)
  | .ebreak => some (encI 1 0 0 0 0x73)
  | .tret => some (encI 2 0 0 0 0x73)
  | .texit => some (encA 4 0 0 0 0 0x0B)
  | .ungang => some (encA 7 0 0 0 0 0x0B)
  | .tretry => some (encA 6 0 0 6 0 0x0B)
  | .fenceLe => some (encA 24 0 0 3 0 0x2B)
  | .vfence => some (encA 1 0 0 7 0 0x5B)
  | .mswap => some (encA 1 0 0 3 0 0x7B)
  | .mwait => some (encA 8 0 0 3 0 0x7B)
  | .asyncTrap => none
  | .dataReturn => none
  | .remoteAccess => none
  | .storePerform => none
  | .atomicAtHome => none
  | .ownershipGrant => none
  | .bisnpResponse => none
  | .hostMemAccess => none
  | .tcbSpawnAtHome => none
  | .predDecrement => none
  | .twaitAtHome => none
  | .groupOpAtHome => none
  | .itclaimAtHome => none
  | .counterAdd => none
  | .messageArrival => none
  | .messageReply => none
  | .chainPush => none
  | .creditRequest => none
  | .creditGrant => none
  | .creditRefusal => none
  | .migrationDeparture => none
  | .migrationArrival => none
  | .taskDispatch => none
  | .dispatchArrival => none
  | .stealAttempt => none
  | .taskCompletion => none
  | .orderedCommit => none
  | .vectorCommandStart => none
  | .vectorResultWrite => none
  | .sfuRequest => none
  | .sfuResult => none
  | .copyStart => none
  | .copyWrite => none
  | .copyComplete => none
  | .matrixOperationStart => none
  | .matrixOperationComplete => none
  | .rotationArrival => none
  | .remoteCommandDelivery => none
  | .tlbFill => none
  | .faultMessage => none
  | .faultReply => none
  | .checkpointSave => none
  | .preemptFallback => none
  | .coreVacate => none
  | .slackWater => none
  | .selfTestEnd => none
  | .notifyWrite => none
  | .submissionAdmission => none
  | .teardownCompletion => none
  | .ctxLaunch => none
  | .ctxTeardown => none
  | .ctxPreempt => none
  | .ctxResume => none
  | .attest => none
  | .getCerts => none
  | .fwStage => none
  | .fwCommit => none
  | .getHealth => none
  | .getQmap => none
  | .getBudget => none
  | .getClassmap => none
  | .getStall => none
  | .getPower => none
  | .setCap => none
  | .release => none
  | .fbufBaseWrite => none
  | .fgenWrite => none
  | .freplyResolved => none
  | .freplyDenied => none
  | .invPages => none
  | .invContext => none
  | .invAll => none
  | .invalidationComplete => none
  | .crtStageWrite => none
  | .crtStageRead => none
  | .crtCommit => none
  | .crtCommitDone => none
  | .ebudValWrite => none
  | .qmapRelease => none
  | .registerWrite => none
  | .moduleReset => none
  | .marginMeasurement => none
  | .stallSample => none
  | .budgetInterval => none
  | .powerThrottle => none
  | .clockRaise => none
  | .thermalThrottle => none
  | .thermalShutdown => none
  | .illegalWord => none
  | .fetchFault => none
  | .fbufHeadWrite => none
  | .cheadWrite => none
  | .launchCompletion => none
  | .cxlCacheSnoop => none

end Sys2Proof
end

