-- ==== Sys2Proof/Config.lean ====
section
/-! DEFINITION. What each implementation fixes and the free values: opaque constants without a body, so that no proof
can lean on their values. -/

namespace Sys2Proof.Config

/-- A fresh free value, applied to the counter State.free (log entry 4). -/
opaque freeWord : Nat → Word

/-- The SFU's result for an op and an ordinary input, where it lies within the error that R116 allows; the same bits on every
part (R120). Special inputs and `sqrt` do not use it (log entry 9). -/
opaque sfu (op : Nat) (x : BitVec 32) : BitVec 32

/-- How an INT8 element is rounded to an 8-bit float, which the spec states no rule for; a function of the format and the element
(R120, log entry 10). -/
opaque openDraw (dst x : Nat) : BitVec 16

/-- Core-clock cycles since module reset, as records carry them (R346), applied to the count of steps (log entry 3). -/
opaque moduleTime : Nat → Word

/-- Silicon stepping, MODINFO[47:44] (R342). -/
opaque stepping : BitVec 4

/-- The host's physical address width; an output address above it is absent (R327). -/
opaque hostPhysWidth : Nat

/-- The package stored for an image kind at manufacture (R350, R351). -/
opaque storedPackage (kind : Nat) : List Byte

/-- The minimum security version stored for a kind at manufacture (R353). -/
opaque minSecurity (kind : Nat) : Nat

/-- FN-DSA verification of a signature over a message under Solvoax's update key (R353). -/
opaque updateVerify (message signature : List Byte) : Bool

/-- The FN-DSA signature that the headland makes with the module identity key; the draw tells two signatures apart
(R352). -/
opaque identitySign (message : List Byte) (draw : Nat) : List Byte

/-- The three certificates that GET_CERTS returns: module identity, intermediate, root (R352). -/
opaque certificate (index : Nat) : List Byte

/-- A cove's margin measured at manufacture, in picoseconds (R356). -/
opaque margin0 (cove : Nat) : BitVec 16

/-- 1 ms average power in watts, coolant inlet and hottest junction temperatures in tenths of a degree, as read at a
step (R360). -/
opaque powerWatts : Nat → BitVec 32
opaque inletTenths : Nat → BitVec 16
opaque junctionTenths : Nat → BitVec 16

end Sys2Proof.Config
end

