-- ==== Sys2Proof/Machine/State.lean ====
section
/-! DEFINITION. The state of one SX-7280 module as plain data: the cores with their threads and engines, the coves, the
contexts, memory, everything in flight, and the units that the host and the operator reach. Cores, coves and contexts
are sparse lists in rising order of their number; one not listed has its default value. -/

namespace Sys2Proof.Machine

/-! ## Memory -/

/-- Bytes by address in one canonical form: addresses strictly rising, no byte 0 listed (an unlisted byte reads 0,
log entry 6). -/
abbrev Memory := List Host.Cell

/-! ## Threads -/

/-- The part's own copy of a task (R52), which also travels with its thread as its identity (R60). -/
structure Task where
  ctx : Nat
  tcb : Word
  entry : Word
  arg0 : Word
  arg1 : Word
  arg2 : Word
  arg3 : Word
  key : Word
  flags : BitVec 16
  home : BitVec 8
  succ : Word
  deriving DecidableEq, Repr

/-- R50: the flag bits of a TCB. -/
def Task.ordered (t : Task) : Bool := t.flags.getLsbD 0
def Task.idemp (t : Task) : Bool := t.flags.getLsbD 1
def Task.report (t : Task) : Bool := t.flags.getLsbD 2
def Task.budget (t : Task) : Bool := t.flags.getLsbD 3

/-- The signature checker of a thread (R190). -/
structure Checker where
  fold : BitVec 32 := 0
  cur : Option Nat := none
  pending : Bool := true
  suspended : Bool := false
  deriving DecidableEq, Repr

/-- The pending asynchronous causes of a thread, each at most once, with its UTVAL or code (R249). -/
structure Pending where
  gangBreak : Option Word := none
  copyFault : Option Word := none
  eBudget : Bool := false
  allAsleep : Option Nat := none
  deriving DecidableEq, Repr

/-- Where a reply's value goes. A load of n bytes extends to 64 bits (R145); an f register takes 32 bits (R156). -/
inductive Dest where
  | none
  | g (rd : Reg) (n : Nat) (signed : Bool)
  | f (rd : Reg)
  deriving DecidableEq, Repr

/-- The atomic operations of R130. -/
inductive AtomicOp where
  | swap | add | and | or | xor | min | max | minu | maxu | fadd | cas
  deriving DecidableEq, Repr

/-- An atomic with its operands (R149). -/
structure Atomic where
  op : AtomicOp
  n : Nat
  scope : BitVec 2
  b : Word
  e : Word
  dest : Dest
  deriving DecidableEq, Repr

/-- Group operations (R171). -/
inductive GroupOp where
  | join | leave | bar
  deriving DecidableEq, Repr

/-- What a translated access does once its address is translated (R145: it completes without reissuing). -/
inductive Access where
  | fetch
  | load (n : Nat) (dest : Dest)
  | store (n : Nat) (v : Word)
  | atomic (a : Atomic)
  | migrA
  | spawn (rd : Reg)
  | dec
  | wait (rd : Reg)
  | group (op : GroupOp)
  | claim (rd : Reg)
  | trigger (n : Nat)
  deriving DecidableEq, Repr

/-- The migration forms (R39); `ldf` re-executes on arrival. -/
inductive MigrForm where
  | short | long | hatbox | ldf
  deriving DecidableEq, Repr

/-- What a parked thread waits for, when an event completes its instruction. -/
inductive Wait where
  | data (dest : Dest)
  | translate (acc : Access) (va : Word)
  | fault (acc : Access) (va : Word)
  | fetchData (va : Word)
  | kwait (rd : Reg) (slot : Nat)
  | kwaitU (rd : Reg)
  | counter (rd : Reg) (n : Nat)
  | message (target : Word)
  /-- With SRSEED as it stood before the command's draws (R197, R203). -/
  | vector (dest : Dest) (serial : Nat) (seed : Word)
  | sfu (serial : Nat)
  | migrate (form : MigrForm) (dest : Nat)
  | checkpoint (n : Nat)
  deriving DecidableEq, Repr

/-- The park state of a thread (R15). `retry` marks a thread whose next instruction is not ready: it is looked at again
at each search; `await` one whose instruction an event completes. The number is the stall counter charged. -/
inductive Park where
  | none
  | retry (cause : Nat)
  | await (cause : Nat) (w : Wait)
  deriving DecidableEq, Repr

/-- What is left of a range of words whose full-empty bits are being set or cleared (R181): the next word and how many, and the step
of the instruction's issue, by which the ranges of one core are ordered (R182). -/
structure FeRest where
  next : Nat
  left : Nat
  set : Bool
  issued : Nat := 0
  deriving DecidableEq, Repr

/-- A thread's state (R17) with its per-thread CSRs (R18, R221, R246, R253). -/
structure Thread where
  ctx : Nat
  /-- Tells this occupant of a slot from every other (the model's own; a command's issuer is found by it). -/
  uid : Nat
  task : Task
  pc : Word
  g : Vector Word 32
  f : Vector (BitVec 32) 32
  p : BitVec 32
  fstat : Word
  srseed : Word
  utvec : Word := 0
  uepc : Word := 0
  ucause : Word := 0
  utval : Word := 0
  itcur : Word := 0
  itend : Word := 0
  gbase : Word := 0
  gblk : Word := 0
  gbound : Word := 0
  tkn : Word := 0
  cmbcfg : Word := 0
  mpri : Word := 0
  /-- VBUSY's dcode, dpend and gpend with the PCs kept (R196, R197). -/
  vdcode : BitVec 4 := 0
  vdpend : Bool := false
  vdpc : Word := 0
  gpend : Bool := false
  gpc : Word := 0
  /-- MBUSY's dcode and dpend with the PC kept (R224, R225). -/
  mdcode : BitVec 4 := 0
  mdpend : Bool := false
  mdpc : Word := 0
  preq : Bool := false
  /-- The handler flag h (R247). -/
  handler : Bool := false
  pend : Pending := {}
  checker : Checker := {}
  park : Park := .none
  /-- The word of the instruction being executed, kept for the fold at retirement (R190; the model's own latch). -/
  iword : BitVec 32 := 0
  /-- A fetched word whose fetch missed the instruction buffer and has returned (R141). -/
  fetched : Option (Word × BitVec 32) := none
  /-- Buffered stores of siblings whose value this thread has loaded (R90). -/
  loaded : List Nat := []
  /-- The size of the gang this thread leads (R46). -/
  gang : Option Nat := none
  /-- The part of the speculative buffer of a speculative ordered task (R68, R69). -/
  spec : Option Nat := none
  /-- The cause of a user trap that ends the task, while its speculative thread waits until it is oldest (R248). -/
  ending : Option Nat := none
  /-- Cycles of the core until the thread's last instruction has passed its issue point (R13). -/
  hold : Nat := 0
  /-- One more than the step of the thread's last `fence.le`; 0: none (R91; the model's own). -/
  leFence : Nat := 0
  /-- Remote commands sent from the cores that the thread has left, still on their way then (R236; the model's own). -/
  sent : List Nat := []
  /-- What is left of the thread's low-window `feset` or `feclr` (R181). -/
  range : Option FeRest := none
  deriving DecidableEq, Repr

/-- What stands in a slot (R16, R19, R46, R364). -/
inductive Occupant where
  | empty
  | thread (t : Thread)
  | held (leader : Nat)
  | reserved (ctx : Nat)
  | awaiting (task : Task)
  deriving DecidableEq, Repr

/-! ## Queues of a slot -/

/-- A ring in local store (R27, R28): its control fields, the words present and the index of the oldest. -/
structure Ring where
  en : Bool := false
  base : BitVec 12 := 0
  lg : BitVec 4 := 0
  head : Nat := 0
  count : Nat := 0
  deriving DecidableEq, Repr

/-- A message: sender's core and slot, header, payload (R23). -/
structure Message where
  core : Nat
  slot : Nat
  uid : Nat
  header : Word
  payload : List Word
  deriving DecidableEq, Repr

/-- The queues of a slot (R23-R30): QCWRX, QCWUP, messages that have arrived and do not yet fit, the credits held for
writes of `qdn`, the refused mark and the one held credit request. -/
structure SlotQueues where
  rx : Ring := {}
  up : Ring := {}
  upTid : BitVec 20 := 0
  dnTid : BitVec 20 := 0
  waiting : List Message := []
  /-- The messages in the receive ring: the words left of each, and whether its header has been popped. -/
  msgs : List (Nat × Bool) := []
  credits : Nat := 0
  refused : Bool := false
  request : Option Nat := none
  deriving DecidableEq, Repr

/-- The modulus state of a slot in the vector unit (R205). -/
structure Moduli where
  q : Vector Word 4 := Vector.replicate 4 0
  mu : Vector Word 4 := Vector.replicate 4 0
  deriving DecidableEq, Repr

structure Slot where
  occ : Occupant := .empty
  q : SlotQueues := {}
  mod : Moduli := {}
  deriving DecidableEq, Repr

/-! ## Units of a core -/

/-- The state of a key-map entry (R32). -/
inductive KState where
  | free | pending | bound
  deriving DecidableEq, Repr

/-- A key-map entry (R32). -/
structure KEntry where
  key : Word := 0
  state : KState := .free
  owner : Nat := 0
  pin : Nat := 0
  age : Nat := 0
  deriving DecidableEq, Repr

/-- An arrival counter (R66); `done` keeps the excess of a completion that woke no one (R178, log entry 8). -/
structure Counter where
  count : Nat := 0
  expected : Nat := 0
  posted : Bool := false
  overrun : Bool := false
  armed : Bool := false
  trigger : Word := 0
  trigCtx : Nat := 0
  done : Option Nat := none
  deriving DecidableEq, Repr

/-- A thread waiting for a full word of this core (R180): its context, where it is, and whether it consumes. -/
structure SyncWaiter where
  ctx : Nat
  core : Nat
  slot : Nat
  uid : Nat
  word : Nat
  consume : Bool
  deriving DecidableEq, Repr

/-- The gang a command belongs to: its leader's core, its size and this member's number (R46). -/
structure GangTag where
  leader : Nat
  size : Nat
  member : Nat
  deriving DecidableEq, Repr

/-- The step of a command's issue, and its thread's last `fence.le` then (R91; the model's own). -/
structure Issued where
  step : Nat := 0
  fence : Nat := 0
  deriving DecidableEq, Repr

/-- How a copy signals its completion (R186). -/
inductive Signal where
  | none
  | full
  | counter (core idx : Nat)
  | fullCounter (core idx : Nat)
  | task (tcb : Word)
  deriving DecidableEq, Repr

/-- A command of the copy engine (R183-R186, R218). -/
structure CopyCmd where
  ctx : Nat
  core : Nat
  slot : Nat
  uid : Nat
  cove : Nat
  dst : Word
  src : Word
  len : Nat
  signal : Signal
  /-- The number of the gather whose block this is (R218). -/
  gather : Option Nat := none
  issued : Issued := {}
  deriving DecidableEq, Repr

/-- A vector command with the values sampled at issue (R194). -/
inductive VOp where
  | int (op w : Nat) (vd v1 v2 : Reg)
  | fp (op fmt rm : Nat) (draws : List (BitVec 16)) (vd v1 v2 : Reg)
  | modular (op : Nat) (vd v1 v2 : Reg)
  | bfly (inverse : Bool) (vd v1 : Reg)
  | qset (v1 v2 : Reg)
  | qreset
  | perm (k : Nat) (vd v1 : Reg)
  | mvx (n : Nat) (rd v1 : Reg)
  | ins (n : Nat) (x : Word) (vd : Reg)
  | bcast (x : Word) (vd : Reg)
  | redsum (rm : Nat) (draws : List (BitVec 16)) (fd v1 : Reg)
  | redmax (fd v1 : Reg)
  | cmp (op : Nat) (vd v1 v2 : Reg)
  | sel (vd v1 v2 : Reg)
  | load (a : Word) (vd : Reg)
  | store (a : Word) (vs : Reg)
  | cvt (dst src part rm : Nat) (sat : Bool) (draws : List (BitVec 16)) (vd v1 : Reg)
  | sfu (op : Nat) (vd v1 : Reg)
  | gather (d base blk bound : Word) (vs : Reg)
  /-- A gather that has started, with its blocks that have not entered the copy engine yet (R218). -/
  | blocks (todo : List CopyCmd)
  | quant (a : Word) (vs : Reg)
  | dquant (a : Word) (vd : Reg)
  deriving DecidableEq, Repr

/-- A command in the vector queue: its thread, the address of its instruction, its gang, and a number that all members'
copies of one command share (the model's own). -/
structure VCmd where
  ctx : Nat
  slot : Nat
  uid : Nat
  pc : Word
  gang : Option GangTag := none
  serial : Nat := 1
  issued : Issued := {}
  op : VOp
  deriving DecidableEq, Repr

/-- A vector command that has started: the registers, bytes, flags and value it will write (R195). -/
structure VFlight where
  cmd : VCmd
  regs : List (Reg × VReg) := []
  mem : Option (Nat × List Byte) := none
  flags : BitVec 5 := 0
  value : Option Word := none
  /-- The source as read at the start, kept while data of other members is awaited (R200). -/
  src : VReg := 0
  waits : Bool := false
  deriving DecidableEq, Repr

/-- The copy in execution: ranges of words (first, count) not yet written, and the fault it waits on. -/
structure CopyRun where
  cmd : CopyCmd
  todo : List (Nat × Nat)
  fault : Option Word := none
  deriving DecidableEq, Repr

/-- The halves of a stationary plane (R220): the source bytes as loaded, and the format tag (a code of R132). -/
structure Plane where
  bytes : List Byte := []
  tag : Option Nat := none
  deriving DecidableEq, Repr

/-- A matrix command with the values sampled at issue (R222). -/
inductive MOp where
  | ldw (fmt : Nat) (a : Word)
  | swap
  | zero (acc : Nat)
  | mma (fa fw acc : Nat) (a rows : Word) (s : BitVec 32)
  | read (fmt acc : Nat) (d : Word) (rm : Nat) (sat : Bool) (draws : List (BitVec 16))
  | readExp (acc : Nat) (d : Word) (b : BitVec 32)
  | rowMax (acc : Nat) (d : Word)
  | mask (acc : Nat) (an cb : Word) (v : BitVec 32)
  | rot (grp : Word)
  | topk (e : Nat) (count : Bool) (k n : Nat) (o r : Word)
  | snap (d : Word)
  | put (bf : Bool) (rank : Nat) (t y : Word) (w : BitVec 32) (cfg : Word)
  deriving DecidableEq, Repr

/-- Where a remote command came from and the counter it signals (R236). -/
structure Remote where
  sender : Nat
  signal : BitVec 32
  deriving DecidableEq, Repr

structure MCmd where
  ctx : Nat
  slot : Nat
  uid : Nat
  pc : Word
  high : Bool
  gang : Option GangTag := none
  remote : Option Remote := none
  issued : Issued := {}
  op : MOp
  deriving DecidableEq, Repr

/-- The matrix operation in execution, with the source bytes it read (R230) and, for `mrot`, what is still missing. -/
structure MRun where
  cmd : MCmd
  src : List Byte := []
  needTile : Bool := false
  needPlane : Bool := false
  deriving DecidableEq, Repr

/-- An item of the rotation buffer (R231). -/
inductive RotItem where
  | tile (a : Nat) (bytes : List Byte)
  | plane (p : Plane)
  deriving DecidableEq, Repr

/-- The matrix unit of a core (R220). -/
structure Matrix where
  acc : Vector (Vector (BitVec 32) 256) 4 := Vector.replicate 4 (Vector.replicate 256 0)
  hiActive : Plane := {}
  hiShadow : Plane := {}
  loActive : Plane := {}
  loShadow : Plane := {}
  hiQueue : List MCmd := []
  loQueue : List MCmd := []
  run : Option MRun := none
  /-- Operations started in a row from the high queue while a low command waited (R223). -/
  streak : Nat := 0
  rot : List RotItem := []
  /-- The A base, the bytes and the alignment of the most recent `mma` of each queue (R231). -/
  hiMma : Option (Word × Nat × Nat) := none
  loMma : Option (Word × Nat × Nat) := none
  routing : Vector (BitVec 32) 64 := Vector.replicate 64 0
  /-- The fill bit and weight of each (token, rank) filled, by 8 × token + rank (R220). -/
  fills : List (Nat × BitVec 32) := []
  deriving DecidableEq, Repr

/-- Where a store or an atomic is performed: a core's local store or physical memory. -/
inductive Target where
  | local (core off : Nat)
  | phys (pa : Nat)
  deriving DecidableEq, Repr

/-- A buffered word of a speculative task: its address in core-window form where it is in local store (for the
broadcast, R70), where it lies, the bytes that the task itself has written, and the whole word (R73, log entry 76). -/
structure SpecWord where
  va : Word
  target : Target
  mask : BitVec 8
  data : Word
  deriving DecidableEq, Repr

/-- A part of the speculative buffer (R68): the ordered task, its thread, its buffered words and the read signature
(R69). -/
structure SpecPart where
  task : Task
  uid : Nat
  words : List SpecWord := []
  sig : BitVec 512 := 0
  /-- The task has executed `texit` and awaits its commit (R70). -/
  ended : Bool := false
  /-- The stores that its thread had made or loaded when it ended, to be performed before the commit's releases (R99). -/
  after : List Nat := []
  deriving DecidableEq, Repr

/-- A leaf translation held in a TLB or a cove translation cache (R251, R327). -/
structure Leaf where
  ctx : Nat
  va : Nat
  pa : Nat
  lg : Nat
  write : Bool
  exec : Bool
  deriving DecidableEq, Repr

/-- A line of the instruction buffer (R141): its context, virtual address, and 64 bytes. -/
structure ILine where
  ctx : Nat
  va : Nat
  bytes : List Byte
  deriving DecidableEq, Repr

/-- A core's standing (R260, R262, R338). `spare`: released from quarantine, and in no context's service yet. -/
inductive CoreStatus where
  | normal
  | contained
  | quarantined
  | releasing
  | spare
  deriving DecidableEq, Repr

/-- A migrating context in flight, in an arrival buffer or in a spill area (R39, R42, R43). -/
structure Carried where
  thread : Thread
  form : MigrForm
  hatbox : List Byte
  dest : Nat
  deriving DecidableEq, Repr

/-- A core (R17, R77) with its units. -/
structure Core where
  slots : Vector Slot 16 := Vector.replicate 16 {}
  lastIssued : Nat := 15
  stall : Vector (BitVec 48) 16 := Vector.replicate 16 0
  kmapcfg : Word := 0
  kmap : Vector KEntry 64 := Vector.replicate 64 {}
  mem : Memory := []
  /-- Full words, as cells (word index, 1): an unlisted word is empty (R87). -/
  full : Memory := []
  syncers : List SyncWaiter := []
  counters : Vector Counter 32 := Vector.replicate 32 {}
  v : Vector VReg 32 := Vector.replicate 32 0
  vqueue : List VCmd := []
  vflight : List VFlight := []
  copyq : List CopyCmd := []
  copying : Option CopyRun := none
  mx : Matrix := {}
  mcap : BitVec 32 := 0
  mnakFaulted : BitVec 32 := 0
  mnakRefused : BitVec 32 := 0
  tlb : List Leaf := []
  ibuf : List ILine := []
  arrivals : List Carried := []
  spec : Vector (Option SpecPart) 4 := Vector.replicate 4 none
  status : CoreStatus := .normal
  /-- The context the core belongs to, and whether its threads have stopped issuing for the whole-core fallback
  (R256). -/
  owner : Option Nat := none
  frozen : Bool := false
  /-- Cycles for which the divider is still busy (R13). -/
  divider : Nat := 0
  deriving DecidableEq, Repr

/-! ## Packets in flight (R11, R365) -/

/-- A reply to a waiting thread: the result of an operation that has taken effect, or data for which nothing was changed. -/
inductive Reply where
  | value (v : Word)
  | data (v : Word)
  | trap (cause : Nat) (utval : Word)
  | claim (cur last n : Word)
  | poison
  deriving DecidableEq, Repr

/-- What is in flight. -/
inductive Kind where
  | fetch (va : Word) (pa : Nat)
  | load (pa n : Nat) (va : Word)
  | ebud
  | reply (r : Reply)
  | remoteLoad (core off n : Nat) (va : Word)
  | remoteSync (core off : Nat) (consume : Bool) (va : Word)
  | remoteFe (core first words : Nat) (set : Bool) (va : Word) (begun : Bool)
  | store (t : Target) (n : Nat) (v : Word)
  | commit (w : SpecWord)
  | atomic (t : Target) (a : Atomic) (va : Word)
  | spawn (va : Word) (pa cove : Nat)
  | dec (va : Word) (pa : Option Nat) (cove : Nat)
  | taskWait (va : Word) (pa : Nat)
  | group (t : Target) (op : GroupOp) (va : Word)
  | claim (t : Target) (va : Word)
  | counter (core idx amount : Nat)
  | message (dest : Nat) (m : Message)
  | messageReply (accepted : Bool)
  | push (dest from_ : Nat) (v : Word)
  | creditRequest (dest from_ : Nat)
  | creditGrant (dest n : Nat)
  | creditRefusal (dest from_ : Nat)
  | migrate (c : Carried)
  | dispatch (core slot : Nat) (task : Task) (spec : Option Nat)
  | ended (task : Task) (status cause unit cove : Nat)
  | releases (task : Task) (left : List Word) (unit cove : Nat)
  | command (dest : Nat) (high : Bool) (cap : BitVec 32) (c : MCmd) (valid : Bool)
  | rotation (dest : Nat) (item : RotItem)
  | sfuRequest (octet : Nat) (vd : Reg) (op : Nat) (x : VReg) (c : VCmd)
  | sfuResult (vd : Reg) (x : VReg) (c : VCmd)
  | tlbMiss (va : Word) (acc : Access)
  | fault (level node : Nat) (page : Nat) (kind : BitVec 4) (unit gen : Nat)
  | faultReply (page : Nat) (resolved : Bool)
  | ownership (line : Nat)
  | snoop (line : Nat) (read : Bool)
  deriving DecidableEq, Repr

/-- A packet: its serial number, its context, the core and slot and thread it came from, whether it holds an entry of
that core's store buffer (R146), and what it carries. -/
structure Packet where
  id : Nat
  ctx : Nat
  core : Nat
  slot : Nat
  uid : Nat
  buffered : Bool := false
  /-- The packets that must be performed first: overlapping stores of the core, earlier messages to the same receiver, the
  stores that a release covers (R23, R99, R146). -/
  after : List Nat := []
  /-- The store of a non-speculative ordered task: the task, and the address whose line is broadcast when the store is
  performed (R69). -/
  broadcast : Option (Task × Word) := none
  /-- The step at which it was sent (the model's own). -/
  issued : Nat := 0
  /-- The step at which it reached a core from which its context was vacated, and where it waits (R20). -/
  held : Option Nat := none
  kind : Kind
  deriving DecidableEq, Repr

/-! ## Coves -/

/-- The ageing states of a cove (R355). -/
inductive Ageing where
  | nominal | raised | slowed | retiring | retired
  deriving DecidableEq, Repr

/-- What a cove's measurements have left (R355, R356). DESIGN CHOICE (log entry 7): `margin` and `time` are 0 before the first. -/
structure Health where
  state : Ageing := .nominal
  steps : Nat := 0
  margin : BitVec 16 := 0
  fails : BitVec 32 := 0
  time : Word := 0
  deriving DecidableEq, Repr

structure Cove where
  owner : Option Nat := none
  /-- The ready queue in its order (R58). -/
  ready : List Task := []
  lastDispatch : Nat := 62
  /-- The victim of the next steal attempt; none until the first (R61). -/
  victim : Option Nat := none
  spill : List Carried := []
  reinject : Option Nat := none
  cache : List Leaf := []
  health : Health := {}
  deriving DecidableEq, Repr

/-! ## Host-visible structures -/

/-- A context record (R340). -/
structure CtxRecord where
  ptRoot : Nat
  ctx : Nat
  ptfmt : Nat
  flags : BitVec 8
  cls : Nat
  tpc : Nat
  mcap : BitVec 32
  budget : BitVec 32
  obj : Word
  objLen : Word
  textVa : Word
  dataVa : Word
  workVa : Word
  workLen : Word
  kmap : Word
  sqBase : Word
  cqBase : Word
  sqLg : Nat
  cqLg : Nat
  coves : List Nat
  deriving DecidableEq, Repr

/-- A signature record (R295). -/
structure SigRecord where
  expected : BitVec 32
  succ0 : BitVec 32
  succ1 : BitVec 32
  flags : BitVec 32
  deriving DecidableEq, Repr

/-- A range of a checkpoint table (R299). -/
structure CkptRange where
  length : Nat
  rel : Bool
  offset : Nat
  deriving DecidableEq, Repr

structure CkptTable where
  core : List CkptRange
  entries : List (List CkptRange)
  deriving DecidableEq, Repr

/-- A kernel of the object (R318): its entry, its text range and its tables. -/
structure Kernel where
  entry : Word
  start : Word
  length : Word
  sig : Option (List SigRecord)
  ckpt : Option CkptTable
  deriving DecidableEq, Repr

/-- A completion record (R346), waiting or written. -/
structure Completion where
  tcb : Word
  status : Nat
  cause : Nat
  unit : Nat
  kind : Nat
  /-- Its task's stores that must reach system scope first (R347), by packet serial. -/
  after : List Nat := []
  deriving DecidableEq, Repr

/-- A pre-empted thread's saved state (R254). -/
structure SavedThread where
  core : Nat
  slot : Nat
  thread : Thread
  bytes : List Host.Cell
  full : List Host.Cell
  deriving DecidableEq, Repr

/-- What a vacated core's save holds (R256): the whole core after a fallback; else the map, the counters, the routing and
combine state and the ring controls of `core`, with the words of the core ranges and rings and their full bits. -/
structure SavedCore where
  whole : Bool
  core : Core
  bytes : List Host.Cell
  full : List Host.Cell
  deriving DecidableEq, Repr

/-- The life of a context's queue (R341, R348, R349); `loading`: the launch waits for a page that the object lies on. -/
inductive Phase where
  | loading | launching | open | closing (kind cause unit : Nat)
  deriving DecidableEq, Repr

/-- A context (R339-R349). -/
structure Ctx where
  record : CtxRecord
  kernels : List Kernel := []
  localImage : List Byte := []
  constImage : List Byte := []
  phase : Phase := .launching
  tail : BitVec 32 := 0
  shead : BitVec 32 := 0
  ctail : BitVec 16 := 0
  cphase : Bool := true
  chead : BitVec 16 := 0
  killed : Bool := false
  torn : Bool := false
  cause : BitVec 8 := 0
  ignored : BitVec 32 := 0
  records : List Completion := []
  ebud : BitVec 32 := 0
  /-- Some thread has issued since the last ALLASLEEP (R258). -/
  stirred : Bool := true
  /-- The cove that took the last entry with target 0xFFFF (R74). -/
  lastCove : Option Nat := none
  preempting : Bool := false
  saved : List SavedThread := []
  savedCores : List (Nat × SavedCore) := []
  history : List (BitVec 32) := []
  events : Vector (BitVec 32) 8 := Vector.replicate 8 0
  deriving DecidableEq, Repr

/-- The registers of a notify page that no context uses (R343): as the last context of its id left them. -/
structure Page where
  tail : BitVec 32 := 0
  shead : BitVec 32 := 0
  ctail : BitVec 16 := 0
  cphase : Bool := false
  chead : BitVec 16 := 0
  killed : Bool := false
  torn : Bool := false
  cause : BitVec 8 := 0
  ignored : BitVec 32 := 0
  deriving DecidableEq, Repr

/-- A word that a store of a thread has overwritten, with the word after it and the step of the store's issue: what engine
commands of the thread may still read (R88, R91; the model's own record). -/
structure OldWord where
  uid : Nat
  target : Target
  step : Nat
  old : Word
  new : Word
  deriving DecidableEq, Repr

/-- The history kept of an ended context (R358). -/
structure Ended where
  ctx : Nat
  initial : BitVec 32
  final : BitVec 32
  history : List (BitVec 32)
  events : Vector (BitVec 32) 8
  deriving DecidableEq, Repr

/-- A page-table format (R328). -/
structure PtFormat where
  ctl : Word := 0
  fields : Word := 0
  chkMask : Word := 0
  chkVal : Word := 0
  deriving DecidableEq, Repr

/-- An outstanding fault at a level of the combining tree (R330): level 0 cove, 1 die, 2 the module fault unit. -/
structure FaultEntry where
  level : Nat
  node : Nat
  ctx : Nat
  page : Nat
  ports : List Nat
  deriving DecidableEq, Repr

/-- An outstanding fault of the module fault unit with its record (R329). -/
structure FaultRecord where
  ctx : Nat
  page : Nat
  kind : BitVec 4
  unit : Nat
  tag : BitVec 32
  gen : BitVec 32
  n : Nat
  written : Bool
  /-- Answered by a generation before it could be written: it is written all the same, and awaits no reply. -/
  answered : Bool := false
  deriving DecidableEq, Repr

/-- An error event waiting to be logged (R337). -/
structure ErrorEvent where
  ctx : Nat
  addr : Word
  event : Nat
  cls : Nat
  unit : Nat
  /-- The access that met the error, as in a fault record: read, write, fetch, engine (R329). -/
  kind : BitVec 4 := 0
  deriving DecidableEq, Repr

structure FaultUnit where
  base : Word := 0
  tailPhase : Bool := true
  tailIdx : Nat := 0
  head : BitVec 16 := 0
  gen : BitVec 32 := 0
  nextTag : BitVec 32 := 1
  entries : List FaultEntry := []
  records : List FaultRecord := []
  errors : List ErrorEvent := []
  deriving DecidableEq, Repr

/-- An invalidation command (R332). -/
structure InvCommand where
  scope : Nat
  ctx : Nat
  va : Nat
  bytes : Nat
  deriving DecidableEq, Repr

structure InvUnit where
  addr : Word := 0
  done : BitVec 32 := 0
  ovf : Bool := false
  /-- Outstanding commands, oldest first, each with the packets that must be performed first and the TCBs of the speculative tasks
  that hold stores translated before it (R333). -/
  queue : List (InvCommand × List Nat × List Nat) := []
  deriving DecidableEq, Repr

/-- A run of a class-run table (R334), with its index. -/
structure Run where
  index : Nat
  lo : Word
  hi : Word
  deriving DecidableEq, Repr

structure ClassRuns where
  sel : Word := 0
  lo : Word := 0
  hi : Word := 0
  near : List Run := []
  far : List Run := []
  nearStage : List Run := []
  farStage : List Run := []
  stray : BitVec 32 := 0
  nearBusy : Bool := false
  farBusy : Bool := false
  status : BitVec 8 := 0
  deriving DecidableEq, Repr

/-- The kinds of error in a stored unit (R85). -/
inductive ErrorKind where
  | correctable
  | uncorrectable
  deriving DecidableEq, Repr

/-- An image stored for a kind, its minimum security version and whether an update waits for its first boot (R353). -/
structure Image where
  package : List Byte
  minSecurity : Nat
  fresh : Bool := false
  deriving DecidableEq, Repr

structure Headland where
  boot : BitVec 8 := 0
  log : List (List Byte) := []
  accum : List Byte := List.replicate 64 0
  images : List (Nat × Image) := []
  staged : List Host.Cell := []
  stagedLen : Nat := 0
  cap : Nat := 9600
  ceiling : Nat := 2250
  powerEvents : BitVec 32 := 0
  thermalEvents : BitVec 32 := 0
  /-- The last stall sample (R359): its time, the cycles and the sums of each cove, and the coves in which a launch cleared counters
  meanwhile. -/
  sampleTime : Word := 0
  sampleCycles : List (Nat × Nat) := []
  sample : List (Nat × Vector Word 16) := []
  sampleCleared : List Nat := []
  /-- The interval that runs: each core's counters at its start, its cycles since then, and the coves in which a launch has cleared
  some counters. -/
  sampleBase : List (Nat × Vector (BitVec 48) 16) := []
  cycles : List (Nat × Nat) := []
  cleared : List Nat := []
  /-- The last 64 contexts that ended, the newest first. -/
  ended : List Ended := []
  deriving DecidableEq, Repr

/-- The mailbox and management interface: the command in progress with its context, and the last output (R339, R354). -/
structure Mailbox where
  busy : Option (Nat × Nat) := none
  out : List Byte := []
  deriving DecidableEq, Repr

/-- What identifies one occurrence of an event (the model's own: the operands that the table's events have no encoding
for). -/
structure EvArg where
  n : Nat := 0
  m : Nat := 0
  flag : Bool := false
  int : Int := 0
  x : Word := 0
  y : Word := 0
  bytes : List Byte := []
  deriving DecidableEq, Repr

/-- A move: one cycle of a core, or an event. -/
inductive Move where
  | core (c : Nat)
  | event (i : Instr) (a : EvArg)
  deriving DecidableEq, Repr

/-- A thread waiting at a home: for a barrier phase, or for the end of the task whose TCB has a virtual address (R63,
R171). -/
structure HomeWaiter where
  target : Target
  va : Word := 0
  ctx : Nat
  core : Nat
  slot : Nat
  uid : Nat
  deriving DecidableEq, Repr

/-- The state of the module. -/
structure State where
  /-- Which agent moves next; empty: the default policy of Step.lean (log entry 2). -/
  agenda : List Move := []
  tick : Nat := 0
  free : Nat := 0
  serial : Nat := 1
  /-- The core and slot whose instruction is executing, and the operands of the event that happens. -/
  curCore : Nat := 0
  curSlot : Nat := 0
  ev : EvArg := {}
  powered : Bool := true
  cores : List (Nat × Core) := []
  coves : List (Nat × Cove) := []
  ctxs : List (Nat × Ctx) := []
  /-- The notify pages without a context, by context id (R343). -/
  pages : List (Nat × Page) := []
  net : List Packet := []
  /-- The tasks of armed TCBs as read at their spawn (R52). -/
  armed : List Task := []
  barriers : List HomeWaiter := []
  taskWaits : List HomeWaiter := []
  /-- What stores have overwritten, newest first (R91). -/
  olds : List OldWord := []
  phys : Memory := []
  errors : List (Nat × ErrorKind) := []
  /-- Errors in local store, by core and word. -/
  localErrors : List (Nat × Nat × ErrorKind) := []
  /-- Host lines that a host-line cache owns (R82). -/
  owned : List Nat := []
  /-- Lines of near and far memory that the host holds, oldest first; true: exclusive or modified (R325). -/
  hostCopies : List (Nat × Bool) := []
  hdmNear : Option Nat := none
  hdmFar : Option Nat := none
  peers : List (Nat × Nat) := []
  /-- The host physical address of BAR2, the notify pages (R343). -/
  bar2 : Option Nat := none
  ptfmt : Vector PtFormat 4 := Vector.replicate 4 {}
  fu : FaultUnit := {}
  inv : InvUnit := {}
  crt : ClassRuns := {}
  ebudSel : Word := 0
  head : Headland := {}
  mbox : Mailbox := {}
  /-- The MSI-X vectors raised, oldest first (R324). -/
  msix : List Nat := []
  deriving DecidableEq, Repr

/-- Why the machine stops. -/
inductive Fault where
  /-- An instruction was executed while the current slot runs no thread. Raised by every meaning of an instruction; no
  step reaches it, since a step executes an instruction only for the thread it has chosen. Safe. -/
  | noThread
  deriving DecidableEq, Repr

/-- Why a step has no meaning. -/
inductive Refusal where
  /-- The instruction is not modelled yet. Raised by an arm of exec only. Safe. -/
  | notModelled (mnemonic : String)
  deriving DecidableEq, Repr

/-- The module right after reset (R328-R334, R342, R350): no context, every core empty, the headland in its ROM. -/
def State.reset : State := {}

end Sys2Proof.Machine
end

