-- ==== Sys2Proof/Machine/Data.lean ====
section
/-! DEFINITION. Operations on the plain data of the state: sparse lists in rising order of their key, memory in its
canonical form with little-endian access (R2), and bit fields. -/

namespace Sys2Proof.Machine

/-! ## Sparse lists -/

/-- The value listed under a key. -/
def find? {α : Type} (k : Nat) : List (Nat × α) → Option α
  | [] => none
  | (j, v) :: rest => if j = k then some v else find? k rest

/-- A list in rising order of keys with the value under a key set. -/
def put {α : Type} (k : Nat) (v : α) : List (Nat × α) → List (Nat × α)
  | [] => [(k, v)]
  | (j, w) :: rest =>
    if k < j then (k, v) :: (j, w) :: rest else if j = k then (k, v) :: rest else (j, w) :: put k v rest

/-- A list without its entries under a key. -/
def drop {α : Type} (k : Nat) : List (Nat × α) → List (Nat × α)
  | [] => []
  | (j, w) :: rest => if j = k then drop k rest else (j, w) :: drop k rest

/-- The element at a position and the list without it. -/
def takeAt {α : Type} : Nat → List α → Option (α × List α)
  | _, [] => none
  | 0, a :: rest => some (a, rest)
  | n + 1, a :: rest =>
    match takeAt n rest with
    | some (b, r) => some (b, a :: r)
    | none => none

/-- The first element that a test accepts and the list without it. -/
def takeFirst {α : Type} (p : α → Bool) : List α → Option (α × List α)
  | [] => none
  | a :: rest =>
    if p a then some (a, rest)
    else
      match takeFirst p rest with
      | some (b, r) => some (b, a :: r)
      | none => none

/-- Insertion before the first element that the new one must precede. -/
def insertBy {α : Type} (before : α → α → Bool) (x : α) : List α → List α
  | [] => [x]
  | a :: rest => if before x a then x :: a :: rest else a :: insertBy before x rest

/-- A function applied to every element of a vector. -/
def eachOf {α β : Type} {n : Nat} (v : Vector α n) (f : α → β) : Vector β n := Vector.ofFn fun i => f (v.get i)

/-- The natural numbers from a first one on, in rising order. -/
def upFrom (first : Nat) : Nat → List Nat
  | 0 => []
  | n + 1 => first :: upFrom (first + 1) n

/-! ## Memory -/

/-- The keys of a memory rise strictly from a bound on, and no byte 0 is listed. -/
def Memory.wfFrom : Nat → Memory → Bool
  | _, [] => true
  | lo, (a, b) :: rest => decide (lo ≤ a) && b != 0 && Memory.wfFrom (a + 1) rest

/-- The canonical form. -/
def Memory.wf (m : Memory) : Bool := Memory.wfFrom 0 m

/-- One byte; an unlisted byte reads 0 (log entry 6). -/
def Memory.read (m : Memory) (a : Nat) : Byte := (find? a m).getD 0

/-- One byte written, in canonical form. -/
def Memory.write (a : Nat) (v : Byte) : Memory → Memory
  | [] => if v = 0 then [] else [(a, v)]
  | (j, w) :: rest =>
    if a < j then (if v = 0 then (j, w) :: rest else (a, v) :: (j, w) :: rest)
    else if j = a then (if v = 0 then rest else (a, v) :: rest)
    else (j, w) :: Memory.write a v rest

/-- n bytes from an address on. -/
def Memory.bytes (m : Memory) (a : Nat) : Nat → List Byte
  | 0 => []
  | n + 1 => m.read a :: m.bytes (a + 1) n

/-- Bytes written from an address on. -/
def Memory.store (m : Memory) (a : Nat) : List Byte → Memory
  | [] => m
  | v :: rest => (m.write a v).store (a + 1) rest

/-- The number that little-endian bytes hold (R2). -/
def leNat : List Byte → Nat
  | [] => 0
  | b :: rest => b.toNat + 256 * leNat rest

/-- The n little-endian bytes of a number (R2). -/
def leBytes : Nat → Nat → List Byte
  | 0, _ => []
  | n + 1, v => BitVec.ofNat 8 v :: leBytes n (v / 256)

/-- An n-byte little-endian read, zero-extended. -/
def Memory.load (m : Memory) (a n : Nat) : Word := BitVec.ofNat 64 (leNat (m.bytes a n))

/-- An n-byte little-endian write of the low bytes of a word. -/
def Memory.save (m : Memory) (a n : Nat) (v : Word) : Memory := m.store a (leBytes n v.toNat)

/-- Cells written one by one. -/
def Memory.cells (m : Memory) : List Host.Cell → Memory
  | [] => m
  | (a, v) :: rest => (m.write a v).cells rest

/-- Every byte of a range set to 0. -/
def Memory.clear (m : Memory) (lo len : Nat) : Memory := m.filter fun c => !(lo ≤ c.1 && c.1 < lo + len)

/-- The cells of a range. -/
def Memory.range (m : Memory) (lo len : Nat) : Memory := m.filter fun c => lo ≤ c.1 && c.1 < lo + len

/-- The addresses of a list of bytes stored from an address on. -/
def cellsAt (a : Nat) : List Byte → List Host.Cell
  | [] => []
  | b :: rest => (a, b) :: cellsAt (a + 1) rest

/-! ## Bits -/

/-- Bits [lo + n - 1 : lo] of a word as a number. -/
def bits {w : Nat} (x : BitVec w) (lo n : Nat) : Nat := (x.extractLsb' lo n).toNat

/-- The low 8n bits of a value, sign-extended to 64 bits (R135). -/
def sext (x : Word) (n : Nat) : Word :=
  if n = 1 then (x.extractLsb' 0 8).signExtend 64 else if n = 2 then (x.extractLsb' 0 16).signExtend 64
  else if n = 4 then (x.extractLsb' 0 32).signExtend 64 else x

/-- The low 8n bits of a value, zero-extended (R135). -/
def zext (x : Word) (n : Nat) : Word :=
  if n = 1 then (x.extractLsb' 0 8).zeroExtend 64 else if n = 2 then (x.extractLsb' 0 16).zeroExtend 64
  else if n = 4 then (x.extractLsb' 0 32).zeroExtend 64 else x

/-- A sign-extended immediate (R123). -/
def simm {n : Nat} (imm : BitVec n) : Word := imm.signExtend 64

/-- The branch or jump offset of an immediate held without imm[0] (R123). -/
def offset {n : Nat} (imm : BitVec n) : Word := imm.signExtend 64 <<< 1

/-- W results: 32 bits sign-extended (R138). -/
def w32 (x : BitVec 32) : Word := x.signExtend 64

/-- A word with the bits of a mask replaced by those of another word. -/
def masked (mask old new : Word) : Word := (old &&& ~~~mask) ||| (new &&& mask)

/-- A Bool as a number. -/
def boolNat (b : Bool) : Nat := if b then 1 else 0

/-! ## Element views of a vector register (R193) -/

/-- Element i of the w-bit view. -/
def elem (v : VReg) (w i : Nat) : Nat := bits v (w * i) w

/-- A register made of w-bit elements, element 0 first. -/
def ofElems (w : Nat) : List Nat → VReg
  | [] => 0
  | e :: rest => BitVec.ofNat 256 (e % 2 ^ w) ||| (ofElems w rest <<< w)

/-- The elements of the w-bit view. -/
def elems (v : VReg) (w : Nat) : List Nat := (upFrom 0 (256 / w)).map (elem v w)

end Sys2Proof.Machine
end

