-- ==== Sys2Proof/Machine/Float.lean ====
section
/-! DEFINITION. Numbers: the bit layouts of R103-R107, rounding with its flags (R108-R111), exact arithmetic with one
rounding, comparisons, conversions (R113), the exponential table (R114), modular arithmetic (R117, R118). -/

namespace Sys2Proof.Machine

/-! ## Exact numbers -/

/-- A dyadic number m × 2^e, held exactly. -/
structure Dy where
  m : Int
  e : Int
  deriving DecidableEq, Repr

/-- An integer times a power of two with a non-negative exponent. -/
def shiftInt (m : Int) (n : Int) : Int := m * (2 ^ n.toNat : Nat)

def Dy.add (a b : Dy) : Dy :=
  if a.m = 0 then b else if b.m = 0 then a else
  let e := min a.e b.e
  ⟨shiftInt a.m (a.e - e) + shiftInt b.m (b.e - e), e⟩

def Dy.mul (a b : Dy) : Dy := ⟨a.m * b.m, a.e + b.e⟩

def Dy.neg (a : Dy) : Dy := ⟨-a.m, a.e⟩

def Dy.sub (a b : Dy) : Dy := a.add b.neg

/-- The greatest integer not above the number. -/
def Dy.floor (a : Dy) : Int := if 0 ≤ a.e then shiftInt a.m a.e else a.m / (2 ^ (-a.e).toNat : Nat)

def Dy.lt (a b : Dy) : Bool := decide ((a.sub b).m < 0)

/-! ## Formats -/

/-- A floating-point format of R103: its field widths, its bias, the code of its largest finite value, and its
canonical NaN (R104). `ieee`: the code after the largest finite one is the infinity. `narrow`: conversions to it obey
FSTAT.sat (R113); all its NaNs are quiet (R104). -/
structure Fmt where
  ebits : Nat
  mbits : Nat
  bias : Nat
  maxCode : Nat
  canon : Nat
  ieee : Bool := true
  narrow : Bool := false
  deriving DecidableEq, Repr

def fp32 : Fmt := { ebits := 8, mbits := 23, bias := 127, maxCode := 0x7F7FFFFF, canon := 0x7FC00000 }
def fp16 : Fmt := { ebits := 5, mbits := 10, bias := 15, maxCode := 0x7BFF, canon := 0x7E00 }
def bf16 : Fmt := { ebits := 8, mbits := 7, bias := 127, maxCode := 0x7F7F, canon := 0x7FC0 }
def e4m3 : Fmt := { ebits := 4, mbits := 3, bias := 7, maxCode := 0x7E, canon := 0x7F, ieee := false, narrow := true }
def e5m2 : Fmt := { ebits := 5, mbits := 2, bias := 15, maxCode := 0x7B, canon := 0x7E, narrow := true }
/-- E2M1 has neither infinity nor NaN; its zero takes code 0 (R107). -/
def e2m1 : Fmt := { ebits := 2, mbits := 1, bias := 1, maxCode := 7, canon := 0, ieee := false, narrow := true }

def Fmt.width (f : Fmt) : Nat := 1 + f.ebits + f.mbits

/-- The value that a code stands for. -/
inductive FVal where
  | nan (signalling : Bool)
  | inf (neg : Bool)
  | fin (neg : Bool) (mag : Nat) (exp : Int)
  deriving DecidableEq, Repr

/-- R103, R104: the value of a code. -/
def Fmt.decode (f : Fmt) (x : Nat) : FVal :=
  let neg := x / 2 ^ (f.ebits + f.mbits) % 2 == 1
  let code := x % 2 ^ (f.ebits + f.mbits)
  let e := code / 2 ^ f.mbits
  let m := code % 2 ^ f.mbits
  if code > f.maxCode then
    if f.ieee && m == 0 then .inf neg else .nan (!f.narrow && m < 2 ^ (f.mbits - 1))
  else if e = 0 then .fin neg m (1 - (f.bias : Int) - f.mbits)
  else .fin neg (2 ^ f.mbits + m) ((e : Int) - f.bias - f.mbits)

/-- The code with a sign put on it. -/
def Fmt.signed (f : Fmt) (neg : Bool) (code : Nat) : Nat := if neg then 2 ^ (f.ebits + f.mbits) + code else code

def FVal.isNan : FVal → Bool
  | .nan _ => true
  | _ => false

def FVal.isSignalling : FVal → Bool
  | .nan s => s
  | _ => false

/-- A finite value as an exact number; 0 for the others. -/
def FVal.dy : FVal → Dy
  | .fin neg m e => ⟨if neg then -(m : Int) else m, e⟩
  | _ => ⟨0, 0⟩

/-- An exact number as a value; a zero takes the sign given. -/
def Dy.val (a : Dy) (negZero : Bool := false) : FVal :=
  if a.m = 0 then .fin negZero 0 0 else .fin (decide (a.m < 0)) a.m.natAbs a.e

/-! ## Flags (R108) -/

abbrev Flags := BitVec 5

def flagNv : Flags := 0b10000
def flagDz : Flags := 0b01000
def flagOf : Flags := 0b00100
def flagUf : Flags := 0b00010
def flagNx : Flags := 0b00001

def flagIf (c : Bool) (f : Flags) : Flags := if c then f else 0

/-! ## Rounding (R109-R111) -/

/-- How a result is rounded: the mode of R109, FSTAT.sat, and the value drawn for stochastic rounding (R110). -/
structure Rounding where
  mode : Nat
  sat : Bool := true
  r : Nat := 0
  deriving DecidableEq, Repr

def Rounding.rne : Rounding := { mode := 0 }

/-- The integer part of (mag + δ) × 2^exp / 2^t, and whether anything lies below it; δ is 0, or strictly between 0 and
1 if `sticky`. -/
def cut (mag : Nat) (exp : Int) (sticky : Bool) (t : Int) : Nat × Bool :=
  if t ≤ exp then (mag * 2 ^ (exp - t).toNat, sticky)
  else let d := 2 ^ (t - exp).toNat
       (mag / d, sticky || mag % d != 0)

/-- The magnitude rounded to a multiple of 2^q, in units of 2^q, and whether the magnitude was not one. -/
def roundUnits (rd : Rounding) (neg : Bool) (mag : Nat) (exp : Int) (sticky : Bool) (q : Int) : Nat × Bool :=
  let (h, lo) := cut mag exp sticky (q - 1)
  let k := h / 2
  let half := h % 2 == 1
  let inexact := half || lo
  let k' := match rd.mode with
    | 0 => if half && (lo || k % 2 == 1) then k + 1 else k
    | 1 => k
    | 2 => if neg && inexact then k + 1 else k
    | 3 => if !neg && inexact then k + 1 else k
    | 4 => if half then k + 1 else k
    | _ => ((cut mag exp sticky (q - 16)).1 + rd.r) / 2 ^ 16
  (k', inexact)

/-- R109: whether an overflow gives the infinity (else the largest finite magnitude). -/
def Rounding.toInf (rd : Rounding) (neg : Bool) : Bool :=
  match rd.mode with
  | 1 => false
  | 2 => neg
  | 3 => !neg
  | _ => true

/-- The code of an overflowed result (R109, R113). -/
def Fmt.overflow (f : Fmt) (rd : Rounding) (neg : Bool) : Nat :=
  if f.narrow && rd.sat then f.signed neg f.maxCode
  else if f.ieee then f.signed neg (if rd.toInf neg then f.maxCode + 1 else f.maxCode)
  else f.canon

/-- A non-zero magnitude rounded to a format, with its flags (R109-R111). -/
def Fmt.roundMag (f : Fmt) (rd : Rounding) (neg : Bool) (mag : Nat) (exp : Int) (sticky : Bool) : Nat × Flags :=
  let e : Int := exp + (Nat.log2 mag : Nat)
  let emin : Int := 1 - (f.bias : Int)
  let (k, inexact) := roundUnits rd neg mag exp sticky (max e emin - f.mbits)
  let code := (max e emin + f.bias - 1).toNat * 2 ^ f.mbits + k
  if code > f.maxCode then (f.overflow rd neg, flagOf ||| flagNx)
  else
    let unbounded := (roundUnits rd neg mag exp sticky (e - f.mbits)).1
    let tiny := decide (e + (if unbounded = 2 ^ (f.mbits + 1) then 1 else 0) < emin)
    (f.signed neg code, flagIf inexact flagNx ||| flagIf (inexact && tiny) flagUf)

/-- A value rounded to a format (R109, R113). DESIGN CHOICE (log entry 107): an infinity that saturates to E4M3 or E5M2 sets of
without nx. -/
def Fmt.encode (f : Fmt) (rd : Rounding) (v : FVal) (sticky : Bool := false) : Nat × Flags :=
  match v with
  | .nan s => (f.canon, flagIf s flagNv)
  | .inf neg =>
    if f.narrow && rd.sat then (f.signed neg f.maxCode, flagOf)
    else if f.ieee then (f.signed neg (f.maxCode + 1), 0)
    else (f.canon, flagNv)
  | .fin neg mag exp => if mag = 0 then (f.signed neg 0, 0) else f.roundMag rd neg mag exp sticky

/-- `fp32_rne` of an exact number (R135). -/
def fp32Rne (a : Dy) : BitVec 32 := BitVec.ofNat 32 (fp32.encode .rne a.val).1

/-! ## Arithmetic (R111, R156, R202) -/

/-- An exact result before rounding; nv of an invalid operation or a signalling operand; `sticky` as in `cut`. -/
structure Exact where
  v : FVal
  flags : Flags := 0
  sticky : Bool := false
  deriving DecidableEq, Repr

def Exact.invalid : Exact := { v := .nan false, flags := flagNv }

/-- The NaN result of operands of which some is a NaN. -/
def Exact.ofNan (vs : List FVal) : Exact := { v := .nan false, flags := flagIf (vs.any FVal.isSignalling) flagNv }

def FVal.neg : FVal → FVal
  | .nan s => .nan s
  | .inf n => .inf !n
  | .fin n m e => .fin (!n) m e

def FVal.sign : FVal → Bool
  | .nan _ => false
  | .inf n => n
  | .fin n _ _ => n

def FVal.isZero : FVal → Bool
  | .fin _ m _ => m == 0
  | _ => false

/-- The exact sum. A zero sum of operands that do not share a sign is +0, but −0 when rounding down. -/
def addExact (mode : Nat) (a b : FVal) : Exact :=
  match a, b with
  | .inf n, .inf k => if n = k then { v := .inf n } else .invalid
  | .inf n, .fin .. => { v := .inf n }
  | .fin .., .inf n => { v := .inf n }
  | .fin n _ _, .fin k _ _ => { v := (a.dy.add b.dy).val (if n = k then n else mode == 2) }
  | _, _ => .ofNan [a, b]

/-- The exact product. -/
def mulExact (a b : FVal) : Exact :=
  match a, b with
  | .inf n, .inf k => { v := .inf (n != k) }
  | .inf n, .fin k m _ => if m = 0 then .invalid else { v := .inf (n != k) }
  | .fin k m _, .inf n => if m = 0 then .invalid else { v := .inf (n != k) }
  | .fin n m e, .fin k l f => { v := .fin (n != k) (m * l) (e + f) }
  | _, _ => .ofNan [a, b]

/-- a × b + c with no rounding in between; 0 × ∞ sets nv even beside a quiet NaN (R156). DESIGN CHOICE (log entry 109): in `vfma`
too. -/
def fmaExact (mode : Nat) (a b c : FVal) : Exact :=
  let p := mulExact a b
  if p.v.isNan || c.isNan then { v := .nan false, flags := p.flags ||| flagIf c.isSignalling flagNv }
  else addExact mode p.v c

/-- The quotient, exact as to its first 64 bits and whether more follow. -/
def divExact (a b : FVal) : Exact :=
  match a, b with
  | .inf _, .inf _ => .invalid
  | .inf n, .fin k _ _ => { v := .inf (n != k) }
  | .fin n _ _, .inf k => { v := .fin (n != k) 0 0 }
  | .fin n m e, .fin k l f =>
    if l = 0 then (if m = 0 then .invalid else { v := .inf (n != k), flags := flagDz })
    else
      let s := 64 + Nat.log2 l
      { v := .fin (n != k) (m * 2 ^ s / l) (e - f - (s : Nat)), sticky := m * 2 ^ s % l != 0 }
  | _, _ => .ofNan [a, b]

/-- The largest number below 2^bits whose p-th power does not exceed n, found bit by bit and added to a start. -/
def rootFrom (p n : Nat) : Nat → Nat → Nat
  | 0, acc => acc
  | b + 1, acc => rootFrom p n b (if (acc + 2 ^ b) ^ p ≤ n then acc + 2 ^ b else acc)

/-- The square root, exact as to its first 50 bits and whether more follow. -/
def sqrtExact (a : FVal) : Exact :=
  match a with
  | .inf false => { v := .inf false }
  | .fin n m e =>
    if m = 0 then { v := .fin n 0 0 } else if n then .invalid else
    let t := 100 + (e % 2).toNat
    let w := m * 2 ^ t
    let r := rootFrom 2 w 64 0
    { v := .fin false r ((e - (t : Nat)) / 2), sticky := r * r != w }
  | .inf true => .invalid
  | .nan _ => .ofNan [a]

/-- An exact result rounded. -/
def Fmt.finish (f : Fmt) (rd : Rounding) (x : Exact) : Nat × Flags :=
  let (c, fl) := f.encode rd x.v x.sticky
  (c, fl ||| x.flags)

/-- A less than b, for values that are not NaNs. -/
def FVal.lt (a b : FVal) : Bool :=
  match a, b with
  | .inf n, .inf k => n && !k
  | .inf n, .fin .. => n
  | .fin .., .inf k => !k
  | .fin .., .fin .. => a.dy.lt b.dy
  | _, _ => false

/-- Equal as numbers; −0 equals +0. -/
def FVal.eq (a b : FVal) : Bool := !a.isNan && !b.isNan && !a.lt b && !b.lt a

/-- minimumNumber (`max` false) and maximumNumber of two codes (R111), with nv for a signalling NaN. -/
def Fmt.minMax (f : Fmt) (max : Bool) (x y : Nat) : Nat × Flags :=
  let a := f.decode x
  let b := f.decode y
  let less := a.lt b || (a.eq b && a.sign && !b.sign)
  let c := if a.isNan && b.isNan then f.canon else if a.isNan then y else if b.isNan then x
    else if less != max then x else y
  (c, flagIf (a.isSignalling || b.isSignalling) flagNv)

/-- The comparisons of R156 and R209: 0 equal, 1 less, 2 less or equal. Equality sets nv for a signalling NaN only. -/
def Fmt.compare (f : Fmt) (op : Nat) (x y : Nat) : Bool × Flags :=
  let a := f.decode x
  let b := f.decode y
  let nan := a.isNan || b.isNan
  let c := match op with
    | 0 => a.eq b
    | 1 => a.lt b
    | _ => a.lt b || a.eq b
  (!nan && c, flagIf (if op = 0 then a.isSignalling || b.isSignalling else nan) flagNv)

/-- FCLASS.S (R156). -/
def classify (x : Nat) : Nat :=
  let v := fp32.decode x
  match v with
  | .nan s => if s then 2 ^ 8 else 2 ^ 9
  | .inf n => if n then 2 ^ 0 else 2 ^ 7
  | .fin n m _ =>
    if m = 0 then (if n then 2 ^ 3 else 2 ^ 4)
    else if m < 2 ^ 23 then (if n then 2 ^ 2 else 2 ^ 5) else (if n then 2 ^ 1 else 2 ^ 6)

/-! ## Conversions (R113) -/

/-- A value to an integer between two bounds, rounded; NaN gives 0, a saturating result sets nv alone. -/
def toInt (rd : Rounding) (lo hi : Int) (v : FVal) : Int × Flags :=
  match v with
  | .nan _ => (0, flagNv)
  | .inf n => (if n then lo else hi, flagNv)
  | .fin n m e =>
    let (k, inexact) := roundUnits rd n m e false 0
    let x : Int := if n then -(k : Int) else k
    if x < lo then (lo, flagNv) else if hi < x then (hi, flagNv) else (x, flagIf inexact flagNx)

/-- An integer as a value. -/
def ofInt (x : Int) : FVal := .fin (decide (x < 0)) x.natAbs 0

/-- The floating formats of R132; codes 5 and 6 are INT8 and INT32. -/
def fmtOf (code : Nat) : Fmt :=
  match code with
  | 0 => fp32
  | 1 => bf16
  | 2 => fp16
  | 3 => e4m3
  | _ => e5m2

/-- The element widths of R132. -/
def widthOf (code : Nat) : Nat :=
  match code with
  | 0 => 32
  | 1 => 16
  | 2 => 16
  | 6 => 32
  | _ => 8

/-- A w-bit two's-complement number. -/
def signedOf (w x : Nat) : Int := if x % 2 ^ w < 2 ^ (w - 1) then (x % 2 ^ w : Nat) else (x % 2 ^ w : Nat) - (2 ^ w : Nat)

/-- The w-bit pattern of an integer. -/
def patternOf (w : Nat) (x : Int) : Nat := (x % (2 ^ w : Nat)).toNat

/-- One element converted between two formats of R132. -/
def convert (rd : Rounding) (dst src x : Nat) : Nat × Flags :=
  let v := if src = 5 ∨ src = 6 then ofInt (signedOf (widthOf src) x) else (fmtOf src).decode x
  if dst = 5 ∨ dst = 6 then
    let w := widthOf dst
    let (k, fl) := toInt rd (-(2 ^ (w - 1) : Nat)) ((2 ^ (w - 1) : Nat) - 1) v
    (patternOf w k, fl)
  else (fmtOf dst).encode rd v

/-- R110: the pairs that read no rm and draw nothing: a float from a narrower float, a float from INT8, an integer from
an integer. -/
def neverRounds (dst src : Nat) : Bool :=
  if dst = 5 ∨ dst = 6 then src == 5 || src == 6
  else src == 5 || (src != 6 && widthOf src < widthOf dst)

/-- R110 lists a float from INT8 as never rounding, yet E4M3 and E5M2 do not hold every INT8 value: the direction of
such a result is not stated (log entry 10). -/
def openRounding (dst src : Nat) : Bool := src == 5 && (dst == 3 || dst == 4)

/-! ## The exponential table (R114) -/

/-- 2^(i/64) rounded to FP32. -/
def expEndpoint (i : Nat) : FVal :=
  let n := 2 ^ (i + 64 * 30)
  let k := rootFrom 64 n 32 0
  fp32.decode (fp32.encode .rne (.fin false k (-30)) (k ^ 64 != n)).1

def fp32Val (x : BitVec 32) : FVal := fp32.decode x.toNat

/-- R114: the element x with bias b through the table. A power of two beyond ±1000 overflows or vanishes as 2^±1000
does. -/
def expTable (x b : BitVec 32) : BitVec 32 :=
  let d := (fp32.finish .rne (addExact 0 (fp32Val x) (fp32Val b).neg)).1
  let t := (fp32.finish .rne (mulExact (fp32.decode d) (fp32.decode 0x3FB8AA3B))).1
  match fp32.decode t with
  | .nan _ => BitVec.ofNat 32 fp32.canon
  | .inf neg => if neg then 0 else 0x7F800000
  | v =>
    let n := v.dy.floor
    let f := v.dy.sub ⟨n, 0⟩
    let i := (f.mul ⟨64, 0⟩).floor
    let g := (f.mul ⟨64, 0⟩).sub ⟨i, 0⟩
    let y0 := (expEndpoint i.toNat).dy
    let y1 := (expEndpoint (i.toNat + 1)).dy
    let p := (fp32Val (fp32Rne (y0.add ((y1.sub y0).mul g)))).dy
    fp32Rne (p.mul ⟨1, max (-1000) (min 1000 n)⟩)

/-! ## The special-function unit (R116) -/

/-- The results for special inputs of an op, where the value is stated; `none`: the value is stated only within an
error bound. -/
def sfuSpecial (op : Nat) (x : BitVec 32) : Option (BitVec 32) :=
  let v := fp32Val x
  let nan : Option (BitVec 32) := some (BitVec.ofNat 32 fp32.canon)
  let pinf : Option (BitVec 32) := some 0x7F800000
  let ninf : Option (BitVec 32) := some 0xFF800000
  let one : Option (BitVec 32) := some 0x3F800000
  let zero : Option (BitVec 32) := some 0
  let nzero : Option (BitVec 32) := some 0x80000000
  let neg := v.sign
  if v.isNan then nan else
  let isInf := match v with
    | .inf _ => true
    | _ => false
  match op with
  | 0 | 2 => if isInf then (if neg then zero else pinf) else if v.isZero then one else none
  | 1 | 3 =>
    if v.isZero then ninf else if neg then nan else if isInf then pinf else if x = 0x3F800000 then zero else none
  | 4 => if isInf then (if neg then nzero else zero) else if v.isZero then (if neg then ninf else pinf) else none
  | 5 => if v.isZero then (if neg then ninf else pinf) else if neg then nan else if isInf then zero else none
  | 6 => some (BitVec.ofNat 32 (fp32.finish .rne (sqrtExact v)).1)
  | 7 => if isInf then (if neg then some 0xBF800000 else one) else if v.isZero then some x else none
  | 8 => if isInf then (if neg then zero else one) else if v.isZero then some 0x3F000000 else none
  | 9 => if isInf then (if neg then nzero else pinf) else if v.isZero then some x else none
  | 10 =>
    if isInf then nan else if v.isZero then some x
    else if Dy.lt ⟨2 ^ 16, 0⟩ ⟨v.dy.m.natAbs, v.dy.e⟩ then nan else none
  | _ =>
    if isInf then nan else if v.isZero then one
    else if Dy.lt ⟨2 ^ 16, 0⟩ ⟨v.dy.m.natAbs, v.dy.e⟩ then nan else none

/-! ## E2M1X blocks (R106, R107) -/

/-- The FP32 value, rounded to nearest, of element k of an 18-byte block; exact whenever FP32 holds it. -/
def blockElement (block : List Byte) (k : Nat) : FVal :=
  let byte := ((block[k / 2]?).getD 0).toNat
  let code := if k % 2 = 0 then byte % 16 else byte / 16
  let scale := ((block[16]?).getD 0).toNat
  let x := ((block[17]?).getD 0).toNat
  if scale = 0xFF then .nan false
  else
    match if code = 8 then e4m3.decode x else e2m1.decode code with
    | .fin neg m e => .fin neg m (e + ((scale : Int) - 127))
    | v => v

/-- The index of the first element that satisfies a test. -/
def firstIndex {α : Type} (p : α → Bool) : Nat → List α → Option Nat
  | _, [] => none
  | i, a :: rest => if p a then some i else firstIndex p (i + 1) rest

/-- The greatest of a list of magnitudes. -/
def maxDy : List Dy → Dy
  | [] => ⟨0, 0⟩
  | a :: rest => let b := maxDy rest
                 if b.lt a then a else b

/-- `vquant` (R107): the block of 32 FP32 codes and its flags. -/
def quantBlock (xs : List Nat) : List Byte × Flags :=
  let vals := xs.map fp32.decode
  let big : FVal → FVal
    | .inf n => (fp32.decode (fp32.signed n fp32.maxCode))
    | .nan _ => .fin false 0 0
    | v => v
  let used := vals.map big
  let abs : FVal → Dy := fun v => ⟨v.dy.m.natAbs, v.dy.e⟩
  let amax := maxDy (used.map abs)
  let e : Int := if amax.m = 0 then -127 else max (amax.e + (Nat.log2 amax.m.natAbs : Nat) - 2) (-127)
  let isMax : FVal × FVal → Bool := fun p => !p.1.isNan && !(abs p.2).lt amax
  let xi := firstIndex isMax 0 (vals.zip used)
  let scaled : FVal → FVal
    | .fin n m k => .fin n m (k - e)
    | v => v
  let rd : Rounding := { mode := 0, sat := true }
  let x := match xi with
    | some i => (e4m3.encode rd (scaled ((used[i]?).getD (.fin false 0 0)))).1
    | none => 0
  let code : Nat → FVal → Nat := fun i v =>
    if some i = xi then 8
    else
      let c := (e2m1.encode rd (scaled v)).1
      if c = 8 then 0 else c
  let codes := (upFrom 0 32).map fun i => code i ((used[i]?).getD (.fin false 0 0))
  let codeAt : Nat → Nat := fun i => (codes[i]?).getD 0
  let block := (upFrom 0 16).map (fun i => BitVec.ofNat 8 (codeAt (2 * i) + 16 * codeAt (2 * i + 1)))
    ++ [BitVec.ofNat 8 (e + 127).toNat, BitVec.ofNat 8 x]
  let nv := vals.any fun v => match v with
    | .fin .. => false
    | _ => true
  let nx := (upFrom 0 32).any fun i =>
    match (vals[i]?).getD (.nan false) with
    | .fin n m k => !((blockElement block i).eq (.fin n m k))
    | _ => false
  (block, flagIf nv flagNv ||| flagIf nx flagNx)

/-! ## Modular arithmetic (R105, R117, R118) -/

/-- R105. -/
def validModulus (q : Word) : Bool := q.getLsbD 0 && decide (3 ≤ q.toNat) && decide (q.toNat < 2 ^ 62)

/-- `vmulm` (0: add, 1: subtract, 2: multiply) on a lane; an invalid modulus gives 0. -/
def modular (op : Nat) (q a b : Word) : Word :=
  if !validModulus q then 0 else
  let n := q.toNat
  match op with
  | 0 => BitVec.ofNat 64 ((a.toNat % n + b.toNat % n) % n)
  | 1 => BitVec.ofNat 64 ((a.toNat % n + (n - b.toNat % n)) % n)
  | _ => BitVec.ofNat 64 (a.toNat * b.toNat % n)

/-- `vmont` (R118); an invalid modulus gives 0 (R117). -/
def montgomery (q mu a b : Word) : Word :=
  if !validModulus q then 0 else
  let t := a.toNat * b.toNat
  let m := t % 2 ^ 64 * mu.toNat % 2 ^ 64
  let u := (t + m * q.toNat) / 2 ^ 64
  BitVec.ofNat 64 (if q.toNat ≤ u then u - q.toNat else u)

/-! ## The generator (R110) -/

/-- One draw: the new state and the 16-bit value. -/
def draw (seed : Word) : Word × BitVec 16 :=
  let s := seed ^^^ (seed <<< 13)
  let s := s ^^^ (s >>> 7)
  let s := s ^^^ (s <<< 17)
  (s, s.extractLsb' 48 16)

/-- n draws in order. -/
def drawN (seed : Word) : Nat → Word × List (BitVec 16)
  | 0 => (seed, [])
  | n + 1 =>
    let (s, r) := draw seed
    let (s', rs) := drawN s n
    (s', r :: rs)

end Sys2Proof.Machine
end

