-- ==== Sys2Proof/Machine/Base.lean ====
section
/-! DEFINITION. Reaching the parts of the state: the geometry of the mesh (R10), cores, slots, threads, coves and
contexts, the packets in flight, parking, local store and its full-empty bits (R77, R87). -/

namespace Sys2Proof.Machine

/-- What a step answers. -/
abbrev Result := Host.Outcome State Fault Refusal

/-! ## Geometry (R10) -/

def xOf (c : Nat) : Nat := c % 256
def yOf (c : Nat) : Nat := c / 256

def coveOf (c : Nat) : Nat := yOf c / 8 * 32 + xOf c / 8

/-- The core of a cove with a number in it. -/
def coreOf (cove n : Nat) : Nat := (cove / 32 * 8 + n / 8) * 256 + (cove % 32 * 8 + n % 8)

/-- A core's number in its cove. -/
def inCove (c : Nat) : Nat := yOf c % 8 * 8 + xOf c % 8

/-- Core 63 of every cove runs firmware only. -/
def isService (c : Nat) : Bool := inCove c == 63

def dieOf (c : Nat) : Nat := yOf c / 64 * 2 + xOf c / 128

/-- A core's index in its octet. -/
def inOctet (c : Nat) : Nat := c % 8

/-- R19. -/
def tidOf (core slot : Nat) : Nat := core * 16 + slot

/-- The coves in ring order, from cove 0 (R61): even rows rise, odd rows fall. -/
def ringCove (i : Nat) : Nat := if i / 32 % 2 = 0 then i else i / 32 * 32 + (31 - i % 32)

/-! ## Cores, coves, contexts -/

def State.core (s : State) (c : Nat) : Core := (find? c s.cores).getD {}

def State.setCore (s : State) (c : Nat) (k : Core) : State := { s with cores := put c k s.cores }

def State.cove (s : State) (v : Nat) : Cove := (find? v s.coves).getD {}

def State.setCove (s : State) (v : Nat) (k : Cove) : State := { s with coves := put v k s.coves }

def State.ctx? (s : State) (x : Nat) : Option Ctx := find? x s.ctxs

def State.setCtx (s : State) (x : Nat) (k : Ctx) : State := { s with ctxs := put x k s.ctxs }

/-- The context with an id, once its launch has loaded it: a launch that waits for a page has made none yet. -/
def State.live? (s : State) (x : Nat) : Option Ctx := (s.ctx? x).filter fun k => k.phase != .loading

/-- A context changed, if it exists. -/
def State.onCtx (s : State) (x : Nat) (f : Ctx → Ctx) : State :=
  match s.ctx? x with
  | some k => s.setCtx x (f k)
  | none => s

/-- The cove is granted to the context. -/
def State.granted (s : State) (x cove : Nat) : Bool :=
  match s.ctx? x with
  | some k => k.record.coves.contains cove
  | none => false

/-- A worker core of a cove granted to the context. -/
def State.reachable (s : State) (x core : Nat) : Bool := decide (core < 65536) && !isService core && s.granted x (coveOf core)

/-- R68: the context enables ordered tasks. -/
def State.orderedOn (s : State) (x : Nat) : Bool :=
  match s.ctx? x with
  | some k => k.record.flags.getLsbD 0
  | none => false

/-- The core's cove is retired: it is powered off (R355). -/
def State.coveOff (s : State) (c : Nat) : Bool := decide ((s.cove (coveOf c)).health.state = .retired)

/-! ## Slots and threads -/

def Core.slot (k : Core) (i : Nat) : Slot := (k.slots[i]?).getD {}

def Core.setSlot (k : Core) (i : Nat) (v : Slot) : Core := { k with slots := k.slots.setIfInBounds i v }

def State.slot (s : State) (c i : Nat) : Slot := (s.core c).slot i

def State.setSlot (s : State) (c i : Nat) (v : Slot) : State := s.setCore c ((s.core c).setSlot i v)

def Slot.thread? (v : Slot) : Option Thread :=
  match v.occ with
  | .thread t => some t
  | _ => none

def State.thread? (s : State) (c i : Nat) : Option Thread := (s.slot c i).thread?

/-- The occupant of a slot replaced by a thread. -/
def State.setThread (s : State) (c i : Nat) (t : Thread) : State := s.setSlot c i { s.slot c i with occ := .thread t }

/-- The thread of a slot changed, if there is one. -/
def State.onThread (s : State) (c i : Nat) (f : Thread → Thread) : State :=
  match s.thread? c i with
  | some t => s.setThread c i (f t)
  | none => s

/-- The thread whose instruction is executing. -/
def State.cur? (s : State) : Option Thread := s.thread? s.curCore s.curSlot

def State.setCur (s : State) (t : Thread) : State := s.setThread s.curCore s.curSlot t

/-- The core on which the executing instruction runs. -/
def State.here (s : State) : Core := s.core s.curCore

def State.setHere (s : State) (k : Core) : State := s.setCore s.curCore k

/-- The queues of the executing thread's slot. -/
def State.queues (s : State) : SlotQueues := (s.slot s.curCore s.curSlot).q

/-- The thread of a slot, if it is still the one with this uid. -/
def State.holder? (s : State) (c i uid : Nat) : Option Thread :=
  match s.thread? c i with
  | some t => if t.uid = uid then some t else none
  | none => none

/-- The saved thread of a slot that is reserved for it (R19), if it is the one with this uid, changed. -/
def Ctx.onSaved (k : Ctx) (c i uid : Nat) (f : Thread → Thread) : Ctx :=
  { k with saved := k.saved.map fun v =>
      if v.core = c ∧ v.slot = i ∧ v.thread.uid = uid then { v with thread := f v.thread } else v }

/-- The thread that issued a command changed, in its slot or swapped out of it (R19, R254); one that has left is not there
any more (R112). -/
def State.onOwner (s : State) (c i uid : Nat) (f : Thread → Thread) : State :=
  match s.holder? c i uid with
  | some t => s.setThread c i (f t)
  | none => { s with ctxs := s.ctxs.map fun (x, k) => (x, k.onSaved c i uid f) }

/-- A swapped-out thread that still has its slot. -/
def State.swapped (s : State) (c i uid : Nat) : Bool :=
  s.ctxs.any fun (_, k) => k.saved.any fun v => v.core = c && v.slot = i && v.thread.uid = uid

/-- The slots 0-15. -/
def slotNumbers : List Nat := upFrom 0 16

/-- The threads of a core with their slots. -/
def Core.threads (k : Core) : List (Nat × Thread) :=
  slotNumbers.filterMap fun i => (k.slot i).thread?.map fun t => (i, t)

/-- All threads of a context: core, slot, thread. -/
def State.threadsOf (s : State) (x : Nat) : List (Nat × Nat × Thread) :=
  s.cores.flatMap fun (c, k) => k.threads.filterMap fun (i, t) => if t.ctx = x then some (c, i, t) else none

/-- The context whose queues stand in a core's slots. -/
def State.ownerOf (s : State) (c : Nat) : Nat := (s.core c).owner.getD 0

/-- The TID of the executing thread (R19). -/
def State.curTid (s : State) : Nat := tidOf s.curCore s.curSlot

/-! ## Packets in flight -/

/-- The packet holds something not yet performed; what is left for system scope alone does not count (R90). -/
def Kind.undone : Kind → Bool
  | .ownership _ => false
  | .snoop _ _ => false
  | _ => true

/-- Stores and what counts as one (R88, R150, R175). -/
def Kind.isStore : Kind → Bool
  | .store _ _ _ => true
  | .commit _ => true
  | .atomic _ a _ => a.dest = .none
  | .dec _ _ _ => true
  | _ => false

/-- The word of a commit on its way. -/
def Kind.isCommit : Kind → Bool
  | .commit _ => true
  | _ => false

/-- A remote command on its way (R236). -/
def Kind.isCommand : Kind → Bool
  | .command _ _ _ _ _ => true
  | _ => false

/-- Words of commits of a context in a cove, still on their way (R70). -/
def State.commits (s : State) (x v : Nat) : List Packet :=
  s.net.filter fun p => p.ctx = x && coveOf p.core = v && p.kind.isCommit

/-- A packet sent by a thread of a slot. -/
def State.send (s : State) (p : Packet) : State :=
  { s with net := s.net ++ [{ p with id := s.serial, issued := s.tick }], serial := s.serial + 1 }

/-- A packet sent by the executing thread. -/
def State.sendCur (s : State) (t : Thread) (kind : Kind) (buffered : Bool := false) (after : List Nat := []) : State :=
  s.send { id := 0, ctx := t.ctx, core := s.curCore, slot := s.curSlot, uid := t.uid, buffered, after, kind }

def State.packet? (s : State) (id : Nat) : Option Packet := s.net.find? fun p => p.id = id

def State.dropPacket (s : State) (id : Nat) : State := { s with net := s.net.filter fun p => p.id != id }

/-- The packet's contents replaced; it keeps its place and number. -/
def State.turnPacket (s : State) (id : Nat) (kind : Kind) : State :=
  { s with net := s.net.map fun p => if p.id = id then { p with kind, buffered := false, held := none } else p }

/-- Nothing that the packet must follow is still undone. -/
def State.clear (s : State) (after : List Nat) : Bool := !s.net.any fun p => after.contains p.id && p.kind.undone

/-- As `clear`, at system scope (R90). -/
def State.clearSystem (s : State) (after : List Nat) : Bool := !s.net.any fun p => after.contains p.id

/-- The fenced set of a thread (R90): its own stores in flight and the siblings' stores it has loaded. -/
def State.fenced (s : State) (t : Thread) : List Nat :=
  (s.net.filter fun p =>
    (p.uid = t.uid && (p.kind.isStore || !p.kind.undone)) || t.loaded.contains p.id).map fun p => p.id

/-- The entries of a core's store buffer (R146). -/
def State.storeBuffer (s : State) (c : Nat) : List Packet := s.net.filter fun p => p.buffered && p.core = c

/-! ## Parking (R15) -/

/-- The thread's instruction is not ready: it is looked at again at each search. -/
def State.retry (s : State) (t : Thread) (cause : Nat) : State := s.setCur { t with park := .retry cause }

/-- The thread parks until an event completes its instruction. -/
def State.await (s : State) (t : Thread) (cause : Nat) (w : Wait) : State := s.setCur { t with park := .await cause w }

/-- What a thread waits for. -/
def Thread.waits (t : Thread) : Option Wait :=
  match t.park with
  | .await _ w => some w
  | _ => none

/-! ## Local store (R77) -/

def localSize : Nat := 0x18000

/-- The words that a range of bytes touches. -/
def wordsOf (off n : Nat) : List Nat := if n = 0 then [] else upFrom (off / 8) ((off + n - 1) / 8 - off / 8 + 1)

def State.localLoad (s : State) (c off n : Nat) : Word := (s.core c).mem.load off n

def Core.store (k : Core) (off n : Nat) (v : Word) : Core := { k with mem := k.mem.save off n v }

def Core.isFull (k : Core) (w : Nat) : Bool := k.full.read w != 0

/-- R87. -/
def Core.setFull (k : Core) (w : Nat) (b : Bool) : Core := { k with full := k.full.write w (if b then 1 else 0) }

def Core.setFulls (k : Core) (ws : List Nat) (b : Bool) : Core := ws.foldl (fun k w => k.setFull w b) k

/-- The worst error in a range of local store. -/
def State.localError (s : State) (c off n : Nat) : Option ErrorKind :=
  let hits := s.localErrors.filter fun (k, w, _) => k = c && (wordsOf off n).contains w
  if hits.any fun (_, _, e) => e = .uncorrectable then some .uncorrectable
  else if hits.isEmpty then none else some .correctable

/-- Words of local store written whole carry no error any more. -/
def State.healLocal (s : State) (c : Nat) (ws : List Nat) : State :=
  { s with localErrors := s.localErrors.filter fun (k, w, _) => !(k = c && ws.contains w) }

/-- The words of a byte range that it covers whole. -/
def wholeWords (off n : Nat) : List Nat := (wordsOf off n).filter fun w => off ≤ 8 * w && 8 * w + 8 ≤ off + n

/-! ## Targets -/

/-- The target some bytes further on. -/
def Target.plus (t : Target) (k : Nat) : Target :=
  match t with
  | .local c off => .local c (off + k)
  | .phys pa => .phys (pa + k)

/-- The 8-byte word that holds the target, and the byte's place in it. -/
def Target.word (t : Target) : Target :=
  match t with
  | .local c off => .local c (off / 8 * 8)
  | .phys pa => .phys (pa / 8 * 8)

def Target.byte (t : Target) : Nat :=
  match t with
  | .local _ off => off % 8
  | .phys pa => pa % 8

/-- The ranges of two targets have a byte in common. -/
def Target.overlaps (a : Target) (n : Nat) (b : Target) (m : Nat) : Bool :=
  match a, b with
  | .local c x, .local d y => c == d && decide (x < y + m) && decide (y < x + n)
  | .phys x, .phys y => decide (x < y + m) && decide (y < x + n)
  | _, _ => false

/-- How far a target lies into a range that covers all its bytes. -/
def Target.within (a : Target) (n : Nat) (b : Target) (m : Nat) : Option Nat :=
  match a, b with
  | .local c x, .local d y => if c = d ∧ y ≤ x ∧ x + n ≤ y + m then some (x - y) else none
  | .phys x, .phys y => if y ≤ x ∧ x + n ≤ y + m then some (x - y) else none
  | _, _ => none

/-! ## What engine commands may still read (R88, R91) -/

/-- A byte of a target as a write of bytes elsewhere leaves it. -/
def Target.byteAfter (u : Target) (old : Byte) (t : Target) (bs : List Byte) : Byte :=
  match u.within 1 t bs.length with
  | some j => (bs[j]?).getD old
  | none => old

/-- A word at a target as a write leaves it. -/
def Target.wordAfter (u : Target) (old : Word) (t : Target) (bs : List Byte) : Word :=
  BitVec.ofNat 64 (leNat ((upFrom 0 8).map fun i => (u.plus i).byteAfter (old.extractLsb' (8 * i) 8) t bs))

/-- A write seen by the engine commands of every thread, in whatever they may still read of the words that it meets. -/
def State.amend (s : State) (t : Target) (bs : List Byte) : State :=
  { s with olds := s.olds.map fun e =>
      { e with old := e.target.wordAfter e.old t bs, new := e.target.wordAfter e.new t bs } }

/-! ## Free values -/

/-- A fresh free value (log entry 4). -/
def State.fresh (s : State) : Word × State := (Config.freeWord s.free, { s with free := s.free + 1 })

end Sys2Proof.Machine
end

