-- ==== Sys2Proof/Machine/Translate.lean ====
section
/-! DEFINITION. Addresses: the windows of R22, canonical addresses and the page-table walk (R327, R328), the regions of
physical memory and their classes (R84, R323, R334), and the homes of addresses (R41, R80-R82). -/

namespace Sys2Proof.Machine

/-! ## Page-table formats (R328) -/

def PtFormat.levels (f : PtFormat) : Nat := bits f.ctl 0 3
def PtFormat.dmode (f : PtFormat) : Nat := bits f.ctl 8 2
def PtFormat.hier (f : PtFormat) : Bool := f.ctl.getLsbD 10
def PtFormat.leafVal (f : PtFormat) : Bool := f.ctl.getLsbD 11
def PtFormat.leafPos (f : PtFormat) : Nat := bits f.ctl 12 6
def PtFormat.oaHi (f : PtFormat) : Nat := bits f.ctl 18 6

/-- An 8-bit field of PTFMT_BITS: whether the entry has the bit, the value it names, and its position. -/
structure PtBit where
  en : Bool
  val : Bool
  pos : Nat
  deriving DecidableEq, Repr

def PtFormat.field (f : PtFormat) (lo : Nat) : PtBit :=
  { en := f.fields.getLsbD (lo + 7), val := f.fields.getLsbD (lo + 6), pos := bits f.fields lo 6 }

def PtFormat.valid (f : PtFormat) : PtBit := f.field 0
def PtFormat.user (f : PtFormat) : PtBit := f.field 8
def PtFormat.write (f : PtFormat) : PtBit := f.field 16
def PtFormat.xdeny (f : PtFormat) : PtBit := f.field 24
def PtFormat.accessed (f : PtFormat) : PtBit := f.field 32
def PtFormat.dirty (f : PtFormat) : PtBit := f.field 40
def PtFormat.dbm (f : PtFormat) : PtBit := f.field 48

/-- The entry's bit holds the value named. -/
def PtBit.holds (b : PtBit) (e : Word) : Bool := e.getLsbD b.pos == b.val

/-- A check passes when the entry has no such bit, or it holds the value. -/
def PtBit.passes (b : PtBit) (e : Word) : Bool := !b.en || b.holds e

/-- The entry with the bit at the value named. -/
def PtBit.put (b : PtBit) (e : Word) : Word :=
  let m : Word := 1 <<< b.pos
  if b.val then e ||| m else e &&& ~~~m

/-- No element occurs twice. -/
def allDistinct : List Nat → Bool
  | [] => true
  | a :: rest => !rest.contains a && allDistinct rest

/-- R328: the conditions for a valid format. -/
def PtFormat.isValid (f : PtFormat) : Bool :=
  let named := [f.valid, f.user, f.write, f.xdeny, f.accessed, f.dirty, f.dbm].filter fun b => b.en
  let places := f.leafPos :: named.map fun b => b.pos
  (f.levels == 4 || f.levels == 5) && f.dmode != 3 && decide (39 ≤ f.oaHi) && decide (f.oaHi ≤ 51) && f.valid.en &&
  places.all (fun p => decide (p < 12) || decide (f.oaHi < p)) && allDistinct places &&
  (f.dmode != 1 || f.dirty.en) && (f.dmode != 2 || (f.dbm.en && f.write.en)) &&
  f.chkMask.extractLsb' 12 (f.oaHi - 11) == 0

/-- R327: canonical for a format of so many levels. -/
def canonical (levels : Nat) (a : Word) : Bool :=
  let top := if levels = 5 then bits a 56 8 else bits a 47 17
  top == 0 || top == (if levels = 5 then 0xFF else 0x1FFFF)

/-! ## Windows (R22) -/

/-- What an address names. -/
inductive Window where
  | store (core off : Nat)
  | translated
  | nothing
  deriving DecidableEq, Repr

def State.levelsOf (s : State) (x : Nat) : Nat :=
  match s.ctx? x with
  | some k => ((s.ptfmt[k.record.ptfmt]?).getD {}).levels
  | none => 4

/-- The address lies in a core window, at whatever offset. -/
def inCoreWindow (a : Word) : Bool := bits a 33 31 == 0x7F000000

/-- The window of an address as a thread of a context on a core sees it. -/
def State.window (s : State) (x core : Nat) (a : Word) : Window :=
  if a.toNat < localSize then .store core a.toNat
  else if inCoreWindow a then
    (if bits a 0 17 < localSize then .store (bits a 17 16) (bits a 0 17) else .nothing)
  else if canonical (s.levelsOf x) a then .translated else .nothing

/-- The offset lies in the speculative buffer while ordered tasks are enabled (R68). -/
def State.specOff (s : State) (x off n : Nat) : Bool := s.orderedOn x && decide (0x17000 < off + n) && decide (off < localSize)

/-- R145: the first failing check of an n-byte access, after alignment. -/
def State.accessTrap (s : State) (x core : Nat) (a : Word) (n : Nat) (write : Bool) : Option (Nat × Word) :=
  if a.toNat % n ≠ 0 then some (3, a) else
  match s.window x core a with
  | .nothing => some (4, a)
  | .translated => none
  | .store c off =>
    if c ≠ core ∧ !s.reachable x c then some (5, a)
    else if write ∧ off < 0x800 then some (6, a)
    else if s.specOff x off n then some (4, a) else none

/-! ## Regions and classes of physical memory -/

/-- Where a physical address lies (R323, R326), or the offset into a context's notify page (R343). -/
inductive Region where
  | near (off : Nat)
  | far (off : Nat)
  | peer
  | notify (x off : Nat)
  | host
  deriving DecidableEq, Repr

def nearSize : Nat := 2 ^ 40
def farSize : Nat := 6 * 2 ^ 40
def notifySize : Nat := 1024 * 4096

def inRangeOf (base : Option Nat) (size pa : Nat) : Option Nat :=
  match base with
  | some b => if b ≤ pa ∧ pa < b + size then some (pa - b) else none
  | none => none

def State.region (s : State) (pa : Nat) : Region :=
  match inRangeOf s.hdmNear nearSize pa with
  | some o => .near o
  | none =>
    match inRangeOf s.hdmFar farSize pa with
    | some o => .far o
    | none =>
      if s.peers.any fun (b, l) => decide (b ≤ pa) && decide (pa < b + l) then .peer
      else
        match inRangeOf s.bar2 notifySize pa with
        | some o => .notify (o / 4096) (o % 4096)
        | none => .host

/-- R326: memory of another module. -/
def State.isPeer (s : State) (pa : Nat) : Bool := s.region pa == .peer

/-- R343: the context and the offset into its notify page. -/
def State.notify? (s : State) (pa : Nat) : Option (Nat × Nat) :=
  match s.region pa with
  | .notify x off => some (x, off)
  | _ => none

/-! A run of R334. -/

def Run.first (r : Run) : Nat := bits r.lo 0 32
def Run.count (r : Run) : Nat := bits r.lo 32 32
def Run.raw (r : Run) : Nat := bits r.hi 0 24
def Run.place (r : Run) : Nat := bits r.hi 32 4
def Run.cls (r : Run) : Nat := bits r.hi 40 2
def Run.valid (r : Run) : Bool := r.hi.getLsbD 48
def Run.quiesced (r : Run) : Bool := r.hi.getLsbD 49
def Run.covers (r : Run) (bay : Nat) : Bool := r.valid && decide (r.first ≤ bay) && decide (bay < r.first + r.count)

/-- The valid run that covers a bay. -/
def runOf (runs : List Run) (bay : Nat) : Option Run := runs.find? fun r => r.covers bay

/-- The run of a module address: near or far. -/
def State.runAt (s : State) (pa : Nat) : Option Run :=
  match s.region pa with
  | .near o => runOf s.crt.near (o / 2 ^ 21)
  | .far o => runOf s.crt.far (o / 2 ^ 21)
  | _ => none

/-- R323: an access to a hole or to a quiesced bay. -/
def State.isStray (s : State) (pa : Nat) : Bool :=
  match s.region pa with
  | .near _ | .far _ =>
    match s.runAt pa with
    | some r => r.quiesced
    | none => true
  | _ => false

/-- R84: 0 F, 1 D, 2 N, 3 none (host and peer memory). -/
def State.classAt (s : State) (pa : Nat) : Nat :=
  match s.region pa with
  | .near _ | .far _ =>
    match s.runAt pa with
    | some r => r.cls
    | none => 0
  | _ => 3

/-! ## Homes (R41, R80, R81, R82) -/

/-- The core on an edge of the mesh that stands for a shore position: not a cove service core. -/
def shoreAt (x y : Nat) : Nat := y * 256 + (if x = 255 ∧ y % 8 = 7 then 254 else x)

/-- The shore core of a near address: its stack by the class-run table, its channel by bay offset bits [12:8]. -/
def State.home (s : State) (pa : Nat) : Option Nat :=
  match s.region pa, s.runAt pa with
  | .near o, some r =>
    let row := r.place % 8 * 32 + o / 256 % 32
    some (shoreAt (if r.place < 8 then 0 else 255) row)
  | .far o, some r =>
    let ch := 8 * r.place + o / 256 % 8
    some (shoreAt (8 * (ch % 32) + 3) (if ch < 32 then 0 else 255))
  | _, _ => none

/-- R82: the home die of a host line. -/
def hostDie (pa : Nat) : Nat := pa / 2 ^ 12 % 8

/-! ## What a write leaves for system scope -/

/-- R82, R90, R325, R326: what a store of a physical line still needs at system scope: ownership of a host line, or the
recall of a host copy; a peer's memory has accepted it. -/
def State.leftOver (s : State) (pa : Nat) : Option Kind :=
  match s.region pa with
  | .near _ | .far _ => if (find? (pa / 64) s.hostCopies).isSome then some (.snoop (pa / 64) false) else none
  | .peer => none
  | .notify _ _ => none
  | .host => if s.owned.contains (pa / 64) then none else some (.ownership (pa / 64))

/-- The part's own write of a line: a copy of it that the host holds is recalled (R325). -/
def State.recall (s : State) (pa : Nat) : State :=
  match s.leftOver pa with
  | some (.snoop l r) => s.send { id := 0, ctx := 0, core := 0, slot := 0, uid := 0, kind := .snoop l r }
  | _ => s

/-- A stray access counted (R323). -/
def State.strayed (s : State) : State :=
  { s with crt := { s.crt with stray := if s.crt.stray = 0xFFFFFFFF then s.crt.stray else s.crt.stray + 1 } }

/-! ## The walk (R327) -/

/-- What an access wants of its page. -/
structure Need where
  write : Bool := false
  exec : Bool := false
  deriving DecidableEq, Repr

/-- A leaf found by a walk: the entry's address and value, its level, and whether every table above it permits. -/
structure Found where
  at_ : Nat
  entry : Word
  level : Nat
  user : Bool
  write : Bool
  exec : Bool
  deriving DecidableEq, Repr

/-- What a walk comes to: a leaf, an absent entry, or a stray read of a table (R323). -/
inductive Walked where
  | leaf (w : Found)
  | absent
  | stray
  deriving DecidableEq, Repr

/-- From a table of a level down to the leaf. A table above the host's physical width is absent. -/
def walkDown (s : State) (f : PtFormat) (va : Word) (user write exec : Bool) : Nat → Nat → Walked
  | level, table =>
    let at_ := table + 8 * bits va (12 + 9 * level) 9
    let e := s.phys.load at_ 8
    if 2 ^ Config.hostPhysWidth ≤ table then .absent
    else if s.isStray at_ then .stray
    else if !f.valid.passes e then .absent
    else if level = 0 ∨ e.getLsbD f.leafPos == f.leafVal then
      (if 2 < level then .absent else .leaf { at_, entry := e, level, user, write, exec })
    else
      match level with
      | 0 => .absent
      | l + 1 =>
        let next := bits e 12 (f.oaHi - 11) * 4096
        if f.hier then walkDown s f va (user && f.user.passes e) (write && f.write.passes e)
          (exec && !(f.xdeny.en && f.xdeny.holds e)) l next
        else walkDown s f va user write exec l next

/-- What becomes of the leaf entry for an access: `none` a page fault, else the entry with the accessed and dirty
updates that the context's flags allow. -/
def leafAfter (f : PtFormat) (flags : BitVec 8) (need : Need) (w : Found) : Option Word :=
  let e := w.entry
  let lifted := need.write && !f.write.passes e && f.dmode == 2 && f.dbm.en && f.dbm.holds e && flags.getLsbD 2
  if !(w.user && f.user.passes e) then none
  else if need.write && !(w.write && (f.write.passes e || lifted)) then none
  else if need.exec && !(w.exec && !(f.xdeny.en && f.xdeny.holds e)) then none
  else if e &&& f.chkMask ≠ f.chkVal then none
  else
    let e := if lifted then f.write.put e else e
    let clean := need.write && f.dmode == 1 && !f.dirty.passes e
    if clean && !flags.getLsbD 2 then none
    else
      let e := if clean then f.dirty.put e else e
      if !f.accessed.passes e then (if flags.getLsbD 1 then some (f.accessed.put e) else none) else some e

/-- The walk's update of an entry, after the host-line cache owns its line (R327); a copy that the host holds of a line of the
module's own memory is recalled (R325). -/
def State.updateEntry (s : State) (at_ : Nat) (e : Word) : State :=
  (({ s with
    phys := s.phys.save at_ 8 e
    owned := if s.region at_ = .host ∧ !s.owned.contains (at_ / 64) then s.owned ++ [at_ / 64] else s.owned } : State).amend
      (.phys at_) (leBytes 8 e.toNat)).recall at_

/-- A walk of a context's table for an address: the leaf translation to cache, or `none` for a page fault, and the state
with the entry's updates. A leaf serves stores only if it was walked for one. -/
def State.walk (s : State) (x : Nat) (va : Word) (need : Need) : Option Leaf × State :=
  match s.ctx? x with
  | none => (none, s)
  | some k =>
    let f := (s.ptfmt[k.record.ptfmt]?).getD {}
    match walkDown s f va true true true (f.levels - 1) k.record.ptRoot with
    | .absent => (none, s)
    | .stray => (none, s.strayed)
    | .leaf w =>
      let lg := 12 + 9 * w.level
      let pa := bits w.entry 12 (f.oaHi - 11) * 4096 / 2 ^ lg * 2 ^ lg
      if 2 ^ Config.hostPhysWidth ≤ pa then (none, s)
      else
        match leafAfter f k.record.flags need w with
        | none => (none, s)
        | some e =>
          (some { ctx := x, va := va.toNat / 2 ^ lg * 2 ^ lg, pa, lg, write := need.write,
                  exec := w.exec && !(f.xdeny.en && f.xdeny.holds w.entry) },
           if e = w.entry then s else s.updateEntry w.at_ e)

/-! ## Caches of translations (R251) -/

/-- The leaf translates the address and permits the access. -/
def Leaf.serves (l : Leaf) (x : Nat) (va : Word) (need : Need) : Bool :=
  l.ctx == x && l.va == va.toNat / 2 ^ l.lg * 2 ^ l.lg && (!need.write || l.write) && (!need.exec || l.exec)

def Leaf.phys (l : Leaf) (va : Word) : Nat := l.pa + va.toNat % 2 ^ l.lg

def lookup (ls : List Leaf) (x : Nat) (va : Word) (need : Need) : Option Leaf := ls.find? fun l => l.serves x va need

/-- A leaf added as the newest of at most n; it replaces a leaf of the same page. -/
def fill (n : Nat) (l : Leaf) (ls : List Leaf) : List Leaf :=
  (l :: ls.filter fun k => !(k.ctx == l.ctx && k.va == l.va && k.lg == l.lg)).take n

/-- A translation by the core's TLB. -/
def State.tlb? (s : State) (c x : Nat) (va : Word) (need : Need) : Option Nat :=
  (lookup (s.core c).tlb x va need).map fun l => l.phys va

/-- The service core's answer to a miss: its cache, else a walk, filling the cove cache and the TLB; `none` is a page
fault. -/
def State.serve (s : State) (c x : Nat) (va : Word) (need : Need) : Option Nat × State :=
  match lookup (s.cove (coveOf c)).cache x va need with
  | some l => (some (l.phys va), s.setCore c { s.core c with tlb := fill 32 l (s.core c).tlb })
  | none =>
    match s.walk x va need with
    | (none, s') => (none, s')
    | (some l, s') =>
      let v := s'.cove (coveOf c)
      let s' := s'.setCove (coveOf c) { v with cache := fill 4096 l v.cache }
      (some (l.phys va), s'.setCore c { s'.core c with tlb := fill 32 l (s'.core c).tlb })

/-- A translation made by the part for its own accesses to a context's memory: rings, lists, work area. An address in a window
or not canonical has no mapping (R22, R327). -/
def State.own (s : State) (x : Nat) (va : Word) (write : Bool) : Option Nat × State :=
  if s.window x 0 va ≠ .translated then (none, s)
  else
    match s.walk x va { write } with
    | (some l, s') => (some (l.phys va), s')
    | (none, s') => (none, s')

end Sys2Proof.Machine
end

