-- ==== Sys2Proof/Machine/Records.lean ====
section
/-! DEFINITION. The notify page (R343, R345), and what the part writes for the host by itself: completion records (R346,
R347), fault and error records (R329, R337). -/

namespace Sys2Proof.Machine

/-! ## The notify page (R343, R345) -/

/-- The registers of a context's page. -/
def Ctx.page (k : Ctx) : Page :=
  { tail := k.tail, shead := k.shead, ctail := k.ctail, cphase := k.cphase, chead := k.chead, killed := k.killed
    torn := k.torn, cause := k.cause, ignored := k.ignored }

/-- The registers of the page of a context id, as its last context left them where it has none (DEDUCED, log
entry 88). -/
def State.pageAt (s : State) (x : Nat) : Page :=
  match s.live? x with
  | some k => k.page
  | none => (find? x s.pages).getD {}

/-- A page without a context changed. -/
def State.setPage (s : State) (x : Nat) (g : Page) : State := { s with pages := put x g s.pages }

/-- The queue of a context id admits. -/
def State.queueOpen (s : State) (x : Nat) : Bool :=
  match s.ctx? x with
  | some k => decide (k.phase = .open)
  | none => false

/-- R345: the write of TAIL is accepted. -/
def Ctx.accepts (k : Ctx) (t : Word) : Bool :=
  let v := t.extractLsb' 0 32
  decide (k.phase = .open) && bits t 32 32 == 0 && decide ((v - k.shead).toNat ≤ 2 ^ k.record.sqLg) &&
    decide ((v - k.tail).toNat < 2 ^ 31)

/-- A notify write: accepted, or counted as ignored. -/
def Ctx.notified (k : Ctx) (t : Word) : Ctx :=
  if k.accepts t then { k with tail := t.extractLsb' 0 32 } else { k with ignored := k.ignored + 1 }

/-- A notify write of a page; one without an open queue is counted as ignored. -/
def State.notify (s : State) (x : Nat) (t : Word) : State :=
  match s.live? x with
  | some k => s.setCtx x (k.notified t)
  | none => s.setPage x { s.pageAt x with ignored := (s.pageAt x).ignored + 1 }

/-- CHEAD of a page written. -/
def State.writeChead (s : State) (x : Nat) (v : Word) : State :=
  match s.live? x with
  | some k => s.setCtx x { k with chead := v.extractLsb' 0 16 }
  | none => s.setPage x { s.pageAt x with chead := v.extractLsb' 0 16 }

/-- An aligned 64-bit read of a notify page (R343). -/
def Page.word (k : Page) (admits : Bool) (off : Nat) : Word :=
  match off with
  | 0x00 => k.tail.zeroExtend 64
  | 0x08 => k.shead.zeroExtend 64
  | 0x10 => BitVec.ofNat 64 (boolNat k.cphase * 2 ^ 16 + k.ctail.toNat)
  | 0x18 => k.chead.zeroExtend 64
  | 0x20 => BitVec.ofNat 64 (k.ignored.toNat * 2 ^ 32 + k.cause.toNat * 2 ^ 8 + boolNat k.killed * 4 + boolNat k.torn * 2 +
      boolNat admits)
  | _ => 0

/-- A device's read of n bytes of physical memory or of a notify page, which answers only aligned reads of 64 bits. -/
def State.physWord (s : State) (pa n : Nat) : Word :=
  match s.notify? pa with
  | some (x, off) => if n = 8 then (s.pageAt x).word (s.queueOpen x) off else 0
  | none => s.phys.load pa n

/-- A device's store to a notify page: one of 64 bits that is aligned is accepted, any other ignored (R343). -/
def State.storeNotify (s : State) (x off : Nat) (bs : List Byte) : State :=
  if bs.length ≠ 8 then s
  else
    let v : Word := BitVec.ofNat 64 (leNat bs)
    if off = 0x00 then s.notify x v
    else if off = 0x18 then s.writeChead x v
    else s

/-! ## The part's own writes -/

/-- Bytes within one line written by the part itself (R323, R325): discarded where they are stray; a unit written whole holds
no error, and a copy of the line that the host holds is recalled. -/
def State.partLine (s : State) (pa : Nat) (bs : List Byte) : State :=
  match s.notify? pa with
  | some (x, off) => s.storeNotify x off bs
  | none =>
    if s.isStray pa then s.strayed
    else
      (({ s with
        phys := s.phys.store pa bs
        errors := s.errors.filter fun (u, _) => !(decide (pa ≤ 64 * u) && decide (64 * u + 64 ≤ pa + bs.length)) } : State).amend
          (.phys pa) bs).recall pa

/-- Bytes written by the part from a physical address on, line by line. -/
def State.partStore (s : State) (pa : Nat) (bs : List Byte) : Nat → State
  | 0 => s
  | fuel + 1 =>
    if bs.isEmpty then s
    else
      let n := 64 - pa % 64
      (s.partLine pa (bs.take n)).partStore (pa + n) (bs.drop n) fuel

/-- Bytes written by the part at a virtual address, line by line, or the address that is not translated. -/
def State.writeVirt (s : State) (x : Nat) (va : Word) (bs : List Byte) : Nat → Option Word × State
  | 0 => (none, s)
  | fuel + 1 =>
    if bs.isEmpty then (none, s)
    else
      let n := 64 - va.toNat % 64
      match s.own x va true with
      | (none, s) => (some va, s)
      | (some pa, s) => (s.partLine pa (bs.take n)).writeVirt x (va + BitVec.ofNat 64 n) (bs.drop n) fuel

/-- Bytes written at a virtual address; `none` if a page does not permit it. -/
def State.virtStore (s : State) (x : Nat) (va : Word) (bs : List Byte) : Option State :=
  match s.writeVirt x va bs (bs.length / 64 + 2) with
  | (none, s') => some s'
  | (some _, _) => none

/-! ## Faults of the part (R252, R330) -/

def pageOf (a : Word) : Nat := a.toNat / 4096

/-- A fault message starts to climb from the cove of a core, with the generation last broadcast (R330). -/
def State.sendFault (s : State) (x core : Nat) (va : Word) (kind : BitVec 4) : State :=
  s.send { id := 0, ctx := x, core, slot := 0, uid := 0
           kind := .fault 0 (coveOf core) (pageOf va) kind core s.fu.gen.toNat }

/-- A fault of the context on the page is outstanding in the cove, or its message is on the way there. -/
def State.faulting (s : State) (x cove page : Nat) : Bool :=
  (s.fu.entries.any fun e => e.level = 0 && e.node = cove && e.ctx = x && e.page = page) ||
  s.net.any fun p => p.ctx = x &&
    match p.kind with
    | .fault 0 v q _ _ _ => v = cove && q = page
    | _ => false

/-- The part itself lacks a page: a fault of an engine, for a read where no other kind is named, that the driver answers (R252, R329,
R330), unless one is outstanding. -/
def State.partFault (s : State) (x cove : Nat) (va : Word) (kind : BitVec 4 := 9) : State :=
  if s.faulting x cove (pageOf va) then s else s.sendFault x (coreOf cove 63) va kind

/-! ## Completion records -/

/-- The 32 bytes of a completion record (R346). -/
def recordBytes (ctx : Nat) (phase : Bool) (budget : BitVec 32) (time : Word) (r : Completion) : List Byte :=
  leBytes 8 r.tcb.toNat ++ leBytes 1 r.status ++ leBytes 1 r.cause ++ leBytes 2 r.unit ++ leBytes 4 budget.toNat
    ++ leBytes 8 time.toNat ++ leBytes 4 (boolNat phase * 2 ^ 31 + r.kind * 2 ^ 28 + ctx) ++ leBytes 4 0

/-- R346: later records wait when the ring holds 2^cq_lg - 1. -/
def Ctx.ringFull (k : Ctx) : Bool :=
  (k.ctail.toNat + 65536 - k.chead.toNat) % 2 ^ k.record.cqLg == 2 ^ k.record.cqLg - 1

/-- The oldest waiting record written, if the ring takes it and its task's stores have reached system scope (R347). -/
def State.writeRecord (s : State) (x : Nat) : Option State :=
  match s.ctx? x with
  | none => none
  | some k =>
    match k.records with
    | [] => none
    | r :: rest =>
      if k.ringFull || !s.clearSystem r.after then none
      else
        let bytes := recordBytes x k.cphase k.ebud (Config.moduleTime s.tick) r
        match s.virtStore x (k.record.cqBase + BitVec.ofNat 64 (32 * k.ctail.toNat)) bytes with
        | none => none
        | some s' =>
          let next := (k.ctail.toNat + 1) % 2 ^ k.record.cqLg
          some (s'.onCtx x fun k => { k with records := rest, ctail := BitVec.ofNat 16 next,
                                              cphase := if next = 0 then !k.cphase else k.cphase })

/-- The address for the oldest waiting record that the part cannot translate. -/
def State.recordLacks (s : State) (x : Nat) : Option Word :=
  match s.ctx? x with
  | none => none
  | some k =>
    let at_ := k.record.cqBase + BitVec.ofNat 64 (32 * k.ctail.toNat)
    match k.records with
    | [] => none
    | r :: _ => if k.ringFull || !s.clearSystem r.after || (s.own x at_ true).1.isSome then none else some at_

/-- A page of the completion ring that is absent is a fault for the driver (R252, R340), a write of the queue engine. DESIGN CHOICE (log entry
115): the record waits, and faults again after a denial. -/
def State.wantRecord (s : State) (x : Nat) : State :=
  match s.ctx? x, s.recordLacks x with
  | some k, some va => s.partFault x (k.record.coves.headD 0) va 10
  | _, _ => s

/-- At most n records of a context written in order; the first that cannot be written holds up the others. -/
def State.writeRecords (s : State) (x : Nat) : Nat → State
  | 0 => s
  | n + 1 =>
    match s.writeRecord x with
    | some s' => s'.writeRecords x n
    | none => s.wantRecord x

/-- A record joins its context's records; those that can be written are (R346). -/
def State.record (s : State) (x : Nat) (r : Completion) : State :=
  match s.ctx? x with
  | none => s
  | some k => (s.setCtx x { k with records := k.records ++ [r] }).writeRecords x (k.records.length + 1)

/-! ## The end of tasks that threads await (R63) -/

def State.tcbStatus (s : State) (pa : Nat) : Nat := (s.phys.read (pa + 55)).toNat

/-- The status of a TCB at a virtual address as its page now stands, if the part can translate it. -/
def State.statusAt (s : State) (x : Nat) (va : Word) : Option Nat := (s.own x va false).1.map s.tcbStatus

/-- The replies to the threads whose awaited task has ended, whoever wrote its status (R63). -/
def State.wakeTwaits (s : State) : State :=
  s.taskWaits.foldl (fun s w =>
    match s.statusAt w.ctx w.va with
    | some v =>
      if 4 ≤ v ∧ v ≤ 6 then
        { s.send { id := 0, ctx := w.ctx, core := w.core, slot := w.slot, uid := w.uid,
                   kind := .reply (.data (BitVec.ofNat 64 v)) } with
          taskWaits := s.taskWaits.filter fun q => q.uid != w.uid }
      else s
    | none => s) s

/-! ## The fault buffer -/

def FaultUnit.lg (f : FaultUnit) : Nat := bits f.base 0 5
def FaultUnit.errlog (f : FaultUnit) : Bool := f.base.getLsbD 11

/-- R329. -/
def FaultUnit.ringFull (f : FaultUnit) : Bool := (f.tailIdx + 1) % 2 ^ f.lg == f.head.toNat % 2 ^ f.lg

/-- A 32-byte record written at the tail (R329); MSI-X vector 0 is raised (R324). -/
def State.putFault (s : State) (addr : Word) (desc : Nat) (tag : BitVec 32) (n unit : Nat) : State :=
  let f := s.fu
  let bytes := leBytes 8 addr.toNat ++ leBytes 4 (boolNat f.tailPhase * 2 ^ 31 + desc) ++ leBytes 4 tag.toNat
    ++ leBytes 4 f.gen.toNat ++ leBytes 2 (min n 0xFFFF) ++ leBytes 2 unit ++ leBytes 8 (Config.moduleTime s.tick).toNat
  let next := (f.tailIdx + 1) % 2 ^ f.lg
  let s := s.partStore (bits f.base 12 52 * 4096 + 32 * f.tailIdx) bytes 2
  { s with
    fu := { f with tailIdx := next, tailPhase := if next = 0 then !f.tailPhase else f.tailPhase }
    msix := s.msix ++ [0] }

/-- The first record not yet written marked written; one answered before goes. -/
def markWritten : List FaultRecord → List FaultRecord
  | [] => []
  | r :: rest =>
    if r.written then r :: markWritten rest
    else if r.answered then rest else { r with written := true } :: rest

/-- The next waiting record written: fault records first, then error records (R337). DESIGN CHOICE: records wait while the ring is
disabled (log entry 112); an error record's n is 0 (log entry 113). -/
def State.writeFault (s : State) : Option State :=
  if s.fu.lg = 0 || s.fu.ringFull then none
  else
    match s.fu.records.find? fun r => !r.written with
    | some r =>
      let desc := r.kind.toNat * 2 ^ 16 + 3 * 2 ^ 22 + r.ctx
      let s := s.putFault (BitVec.ofNat 64 (r.page * 4096)) desc r.tag r.n r.unit
      some { s with fu := { s.fu with records := markWritten s.fu.records } }
    | none =>
      match s.fu.errors with
      | [] => none
      | e :: rest =>
        let desc := 2 ^ 28 + e.event * 2 ^ 24 + e.cls * 2 ^ 22 + e.kind.toNat * 2 ^ 16 + e.ctx
        let s := s.putFault e.addr desc 0 0 e.unit
        some { s with fu := { s.fu with errors := rest } }

def State.writeFaults (s : State) : Nat → State
  | 0 => s
  | n + 1 =>
    match s.writeFault with
    | some s' => s'.writeFaults n
    | none => s

/-- Every waiting record that fits is written. -/
def State.flushFaults (s : State) : State := s.writeFaults (s.fu.records.length + s.fu.errors.length)

/-- R358: an error event counted in its context's history, saturating. -/
def Ctx.count (k : Ctx) (event : Nat) : Ctx :=
  let n := (k.events[event]?).getD 0
  { k with events := k.events.setIfInBounds event (if n = 0xFFFFFFFF then n else n + 1) }

/-- R337: an error event, logged if errlog is set, with the kind of the access that met it; none for an event that no access met. -/
def State.logError (s : State) (ctx : Nat) (addr : Word) (event cls unit : Nat) (kind : BitVec 4 := 0) : State :=
  let s := s.onCtx ctx fun k => k.count event
  if s.fu.errlog then
    ({ s with fu := { s.fu with errors := s.fu.errors ++ [{ ctx, addr, event, cls, unit, kind }] } } : State).flushFaults
  else s

/-- What an event sets off: awaited ends of tasks are told, and the waiting records of every context and of the fault unit
that can now be written are. -/
def State.flush (s : State) : State :=
  let s := s.wakeTwaits
  (s.ctxs.foldl (fun s (x, k) => s.writeRecords x k.records.length) s).flushFaults

end Sys2Proof.Machine
end

