-- ==== Sys2Proof/Machine/Contain.lean ====
section
/-! DEFINITION. What ends threads from outside: asynchronous causes (R249), gang breaks (R263), kills (R348), containment
and quarantine (R260, R262), the error budget (R261) and the checks of data read from memory (R85). -/

namespace Sys2Proof.Machine

/-! ## Withdrawing a wait -/

/-- A thread is parked for what the packet brings. -/
def Kind.awaited : Kind → Bool
  | .fetch _ _ => true
  | .load _ _ _ => true
  | .ebud => true
  | .reply _ => true
  | .remoteLoad _ _ _ _ => true
  | .remoteSync _ _ _ _ => true
  | .remoteFe _ _ _ _ _ _ => true
  | .atomic _ a _ => !decide (a.dest = .none)
  | .spawn _ _ _ => true
  | .taskWait _ _ => true
  | .group _ _ _ => true
  | .claim _ _ => true
  | .message _ _ => true
  | .messageReply _ => true
  | .tlbMiss _ _ => true
  | _ => false

/-- Everything a thread waits for forgotten: requests and replies in flight, its places at homes and at words. -/
def State.withdraw (s : State) (uid : Nat) : State :=
  { s with
    net := s.net.filter fun p => !(p.uid = uid && p.kind.awaited)
    barriers := s.barriers.filter fun w => w.uid != uid
    taskWaits := s.taskWaits.filter fun w => w.uid != uid
    cores := s.cores.map fun (c, k) =>
      (c, { k with
        syncers := k.syncers.filter fun w => w.uid != uid
        slots := eachOf k.slots fun v => { v with q := { v.q with waiting := v.q.waiting.filter fun m => m.uid != uid } } }) }

/-- The reply of an operation that has changed something: a claim that took nothing, data read and a refusal have not (R249). -/
def Reply.tookEffect : Reply → Bool
  | .value _ => true
  | .claim _ _ n => n != 0
  | .data _ => false
  | .trap _ _ => false
  | .poison => false

/-- The thread's request has taken effect and its reply is on the way, or will be: an accepted message, an operation of a home, a range
of full-empty bits of which a part is marked. -/
def State.answered (s : State) (uid : Nat) : Bool :=
  s.net.any fun p => p.uid = uid &&
    match p.kind with
    | .reply r => r.tookEffect
    | .remoteFe _ _ _ _ _ begun => begun
    | .messageReply accepted => accepted
    | _ => false

/-- A thread whose wait is withdrawn with no effect: it looks at its instruction again, and a result read has drawn nothing (R203).
DESIGN CHOICE (log entry 98): the flags of that read's command still come when it completes. -/
def Thread.withdrawn (t : Thread) : Thread :=
  match t.park with
  | .await _ (.vector _ _ seed) => { t with park := .none, srseed := seed }
  | _ => { t with park := .none }

/-- R249: an asynchronous cause recorded for the thread of a slot. With h = 0 a parked thread is woken and its wait
withdrawn, but not one in a TLB miss or page fault, nor one whose request has taken effect: there the effect stands, and
the cause is taken at the instruction behind. -/
def State.raise (s : State) (c i : Nat) (f : Pending → Pending) : State :=
  match s.thread? c i with
  | none => s
  | some t =>
    let t := { t with pend := f t.pend }
    if t.handler then s.setThread c i t
    else
      match t.park with
      | .await 12 _ => s.setThread c i t
      | .await _ _ =>
        if s.answered t.uid then s.setThread c i t else (s.withdraw t.uid).setThread c i t.withdrawn
      | _ => s.setThread c i { t with park := .none }

/-! ## Gangs (R47, R263) -/

/-- The cores of a gang led from a core. -/
def gangCores (leader size : Nat) : List Nat := upFrom leader size

def ofGang (leader : Nat) (g : Option GangTag) : Bool :=
  match g with
  | some t => t.leader == leader
  | none => false

/-- A command at the head of the vector queue that has started (R218). -/
def VOp.started (o : VOp) : Bool :=
  match o with
  | .blocks _ => true
  | _ => false

/-- The held slot of a follower released; gang commands not started discarded. -/
def Core.leaveGang (k : Core) (leader : Nat) : Core :=
  let k := { k with
    vqueue := k.vqueue.filter fun c => !ofGang leader c.gang || c.op.started
    mx := { k.mx with
      hiQueue := k.mx.hiQueue.filter fun c => !ofGang leader c.gang
      loQueue := k.mx.loQueue.filter fun c => !ofGang leader c.gang } }
  match (k.slot 15).occ with
  | .held l => if l = leader then k.setSlot 15 { k.slot 15 with occ := .empty } else k
  | _ => k

/-- The gang led from a core broken: the leader's flag cleared, every member released. -/
def State.breakGang (s : State) (leader : Nat) : State :=
  match s.thread? leader 15 with
  | none => s
  | some t =>
    match t.gang with
    | none => s
    | some size =>
      let s := (gangCores leader size).foldl (fun s c => s.setCore c ((s.core c).leaveGang leader)) s
      s.setThread leader 15 { t with gang := none }

/-- The UTVAL of GANGBREAK (R263). -/
def gangWord (core dcode member : Nat) : Word := BitVec.ofNat 64 (core * 2 ^ 16 + dcode * 2 ^ 8 + member)

/-- A gang broken by a member's fault or containment: the leader receives GANGBREAK. -/
def State.breakGangBy (s : State) (leader core dcode : Nat) : State :=
  match s.thread? leader 15 with
  | none => s
  | some t =>
    if t.gang.isNone then s
    else
      let s := s.breakGang leader
      s.raise leader 15 fun p =>
        { p with gangBreak := some (p.gangBreak.getD (gangWord core dcode (core - leader))) }

/-- The leader of a gang that has a core as a member. -/
def State.leaderOf (s : State) (c : Nat) : Option Nat :=
  (upFrom (c / 8 * 8) 8).find? fun l =>
    match s.thread? l 15 with
    | some t =>
      match t.gang with
      | some size => decide (l ≤ c) && decide (c < l + size)
      | none => false
    | none => false

/-! ## Taking a thread from its slot -/

/-- R30: a slot's queues disabled and discarded; a held credit request is refused (R25), waiting messages are refused
(R24). -/
def State.closeQueues (s : State) (c i : Nat) : State :=
  let v := s.slot c i
  let s := match v.q.request with
    | some from_ => s.send { id := 0, ctx := s.ownerOf c, core := c, slot := i, uid := 0, kind := .creditRefusal from_ (tidOf c i) }
    | none => s
  let s := v.q.waiting.foldl (fun s m =>
    s.send { id := 0, ctx := s.ownerOf c, core := m.core, slot := m.slot, uid := m.uid, kind := .messageReply false }) s
  s.setSlot c i { s.slot c i with q := {} }

/-- An entry that becomes FREE: its key cleared, its age as it was (R35, R36). -/
def KEntry.freed (e : KEntry) : KEntry := { e with state := .free, key := 0, pin := 0, owner := 0 }

/-- R38 without waking: the PENDING entries of owners become FREE. -/
def Core.abandonOf (k : Core) (owned : Nat → Bool) : Core :=
  { k with kmap := eachOf k.kmap fun e => if e.state = .pending && owned e.owner then e.freed else e }

/-- The part of the speculative buffer freed. -/
def Core.dropSpec (k : Core) (uid : Nat) : Core :=
  { k with spec := eachOf k.spec fun p =>
      match p with
      | some q => if q.uid = uid then none else some q
      | none => none }

/-- A thread removed from its slot, its wait withdrawn, its map entries abandoned, its queues closed, its gang broken. -/
def State.remove (s : State) (c i : Nat) : State :=
  match s.thread? c i with
  | none => s
  | some t =>
    let s := if t.gang.isSome then s.breakGang c else s
    let s := (s.withdraw t.uid).closeQueues c i
    let k := ((s.core c).abandonOf fun o => o = tidOf c i).dropSpec t.uid
    (s.setCore c k).setSlot c i { k.slot i with occ := .empty }

/-- A task's end on its way to the TCB's home (R62, R64): its new status, the cause and unit of its record, the cove in
which it is released or made ready, and what must be performed first. -/
def State.endTask (s : State) (task : Task) (status cause unit cove : Nat) (after : List Nat := []) : State :=
  s.send { id := 0, ctx := task.ctx, core := unit, slot := 0, uid := 0, after,
           kind := .ended task status cause unit cove }

/-! ## Kills (R261, R262, R348) -/

/-- The context of a carried thread's task is aborted. -/
def State.abort (s : State) (cause cove unit : Nat) (tasks : List Task) : State :=
  tasks.foldl (fun s t => s.endTask t 6 cause unit cove) s

/-- Ordered tasks that have executed `texit` and whose buffers a kill discards uncommitted: they have ended normally, and are
done (R348, log entry 16). -/
def State.doneParts (s : State) (c : Nat) (parts : List SpecPart) : State :=
  parts.foldl (fun s p => s.endTask p.task 4 0 c (coveOf c) p.after) s

/-- The threads of a context on a core removed and its dispatches in flight dropped, each task aborted; the PENDING entries of a
swapped-out thread become FREE too (R38). -/
def State.killOnCore (s : State) (x cause : Nat) (c : Nat) : State :=
  let s := slotNumbers.foldl (fun s i =>
    match (s.slot c i).occ with
    | .thread t => if t.ctx = x then (s.remove c i).abort cause (coveOf c) c [t.task] else s
    | .awaiting t =>
      if t.ctx = x then (s.setSlot c i { s.slot c i with occ := .empty }).abort cause (coveOf c) c [t] else s
    | .reserved y =>
      if y = x then
        (s.setCore c ((s.core c).abandonOf fun o => o = tidOf c i)).setSlot c i { s.slot c i with occ := .empty, q := {} }
      else s
    | _ => s) s
  let k := s.core c
  let gone := k.arrivals.filter fun a => a.thread.ctx = x
  let ended := (k.spec.toList.filterMap fun p => p).filter fun p => p.ended && p.task.ctx = x
  let s := s.setCore c { k with
    arrivals := k.arrivals.filter fun a => a.thread.ctx != x
    spec := eachOf k.spec fun p =>
      match p with
      | some q => if q.task.ctx = x then none else some q
      | none => none
    frozen := k.frozen && k.owner != some x
    counters := if k.owner = some x then eachOf k.counters fun a => { a with armed := false } else k.counters }
  (s.abort cause (coveOf c) c (gone.map fun a => a.thread.task)).doneParts c ended

/-- What a packet in flight of a killed context leaves behind: the task of a migrating or dispatched thread. -/
def Kind.taskOf : Kind → Option Task
  | .migrate m => some m.thread.task
  | _ => none

/-- R348: packets that a teardown discards; what counts as a store, a task's end and engine traffic go on. -/
def Kind.discarded : Kind → Bool
  | .migrate _ => true
  | .dispatch _ _ _ _ => true
  | .push _ _ _ => true
  | .creditRequest _ _ => true
  | .creditGrant _ _ => true
  | .creditRefusal _ _ => true
  | k => k.awaited

def Target.core? (t : Target) : Option Nat :=
  match t with
  | .local c _ => some c
  | .phys _ => none

/-- The core at which a packet is served. -/
def Kind.servedAt (k : Kind) : Option Nat :=
  match k with
  | .remoteLoad c _ _ _ => some c
  | .remoteSync c _ _ _ => some c
  | .remoteFe c _ _ _ _ _ => some c
  | .store t _ _ => t.core?
  | .commit w => w.target.core?
  | .atomic t _ _ => t.core?
  | .group t _ _ => t.core?
  | .claim t _ => t.core?
  | .counter c _ _ => some c
  | .message dest _ => some (dest / 16 % 65536)
  | .push dest _ _ => some (dest / 16 % 65536)
  | .creditRequest dest _ => some (dest / 16 % 65536)
  | .creditGrant dest _ => some (dest / 16 % 65536)
  | .creditRefusal dest _ => some (dest / 16 % 65536)
  | .command dest _ _ _ _ => some dest
  | .rotation dest _ => some dest
  | _ => none

/-- R20: the context stays vacated from the core, and its traffic to the core waits. -/
def Ctx.away (k : Ctx) (core : Nat) : Bool := k.savedCores.any fun (c, _) => c = core

/-- R20: the context stays vacated from the core, and its traffic to the core waits. -/
def State.away (s : State) (x core : Nat) : Bool :=
  match s.ctx? x with
  | some k => k.away core
  | none => false

/-- The core at which a target's object is homed (R41). -/
def State.homeOf (s : State) (t : Target) : Option Nat :=
  match t with
  | .local c _ => some c
  | .phys pa => s.home pa

/-- The core at which a packet arrives: the one that serves it, the home of a group's object (R20), or that of the thread which a
reply answers. -/
def State.arrivesAt (s : State) (p : Packet) : Option Nat :=
  match p.kind with
  | .reply _ => some p.core
  | .messageReply _ => some p.core
  | .group t _ _ => s.homeOf t
  | kind => kind.servedAt

/-- The packet waits at the router of a core from which its context stays vacated (R20); a reply waits for its thread. -/
def State.keeps (s : State) (p : Packet) : Bool :=
  match s.arrivesAt p with
  | some c => s.away p.ctx c
  | none => false

/-- The tasks of the threads that a pre-emption has saved. -/
def Ctx.savedTasks (k : Ctx) : List Task :=
  k.saved.map (fun v => v.thread.task) ++ k.savedCores.flatMap fun (_, v) => v.core.threads.map fun q => q.2.task

/-- The parts of ended tasks that a pre-emption has saved, with their cores. -/
def Ctx.savedEnded (k : Ctx) : List (Nat × SpecPart) :=
  k.savedCores.flatMap fun (c, v) =>
    ((v.core.spec.toList.filterMap fun p => p).filter fun p => p.ended).map fun p => (c, p)

/-- A context's ready tasks and spilled contexts dropped from a cove. -/
def Cove.forget (v : Cove) (x : Nat) : Cove :=
  { v with ready := v.ready.filter (fun t => t.ctx != x), spill := v.spill.filter fun a => a.thread.ctx != x }

/-- Steps 1 to 4 of R348 for a context, whose final record will have the kind, cause and unit given. -/
def State.close (s : State) (x kind cause unit : Nat) : State :=
  let before := s
  match s.ctx? x with
  | none => s
  | some k =>
    match k.phase with
    | .closing _ _ _ => s
    | _ =>
      let saved := k.savedTasks
      let s := s.setCtx x { k with
        phase := .closing kind cause unit, torn := true, killed := kind == 3, cause := BitVec.ofNat 8 cause
        saved := [], savedCores := [], preempting := false }
      let s := s.cores.foldl (fun s (c, _) => s.killOnCore x cause c) s
      let moving := (s.net.filter fun p => p.ctx = x).filterMap fun p => p.kind.taskOf
      let spilled := s.coves.flatMap fun (_, v) =>
        (v.spill.filter fun a => a.thread.ctx = x).map fun a => a.thread.task
      let s := { s with
        net := s.net.filter fun p => !(p.ctx = x && (p.kind.discarded || before.keeps p))
        coves := s.coves.map fun (e : Nat × Cove) => (e.1, e.2.forget x)
        armed := s.armed.filter fun t => t.ctx != x
        barriers := s.barriers.filter fun w => w.ctx != x
        taskWaits := s.taskWaits.filter fun w => w.ctx != x }
      k.savedEnded.foldl (fun s (c, p) => s.doneParts c [p]) (s.abort cause 0 0xFFFF (moving ++ spilled ++ saved))

/-- A kill (R348): kind 3 with the cause. -/
def State.kill (s : State) (x cause unit : Nat) : State := s.close x 3 cause unit

/-! ## The error budget (R85, R261) -/

/-- EBUD has fallen to 0: EBUDGET for every running thread of a task with BUDGET, else a kill. DESIGN CHOICE (log entry 102): the
running threads are those in slots. -/
def State.raiseBudget (s : State) (x : Nat) : State :=
  match (s.threadsOf x).filter fun (_, _, t) => t.task.budget with
  | [] => s.kill x 25 0xFFFF
  | ts => ts.foldl (fun s (c, i, _) => s.raise c i fun p => { p with eBudget := true }) s

/-- One decrement of EBUD, saturating: one of 0 leaves it 0 and raises nothing, also where the driver has written the 0 (R261; DEDUCED,
log entry 68). -/
def State.charge (s : State) (x : Nat) : State :=
  match s.ctx? x with
  | none => s
  | some k =>
    if k.ebud = 0 then s
    else
      let s := s.setCtx x { k with ebud := k.ebud - 1 }
      if k.ebud = 1 then s.raiseBudget x else s

/-! ## Containment (R260) and quarantine (R262) -/

/-- R260 step 1: the engines' queues and operations stop. -/
def Core.stopEngines (k : Core) : Core :=
  { k with vqueue := [], vflight := [], copyq := [], copying := none,
           mx := { k.mx with hiQueue := [], loQueue := [], run := none } }

/-- The core-window address of a local-store offset (R22). -/
def coreWindow (c off : Nat) : Word := BitVec.ofNat 64 (0xFE * 2 ^ 56 + c * 2 ^ 17 + off)

/-- Steps 1 to 3 of R260 for the sealing of a core; `restart`: tasks with IDEMP return to ready. DESIGN CHOICE (log entry 100): a task
whose thread is swapped out of the core is not running there, and goes on once it is resumed. -/
def State.seal (s : State) (c : Nat) (status : CoreStatus) (restart : Bool) (cause : Nat) : State :=
  let s := match s.leaderOf c with
    | some l => if l = c then s.breakGang l else s.breakGangBy l c 0
    | none => s
  let running := slotNumbers.filterMap fun i =>
    match (s.slot c i).occ with
    | .thread t => some t.task
    | .awaiting t => some t
    | _ => none
  let awaiting := (s.core c).spec.toList.filterMap fun p =>
    match p with
    | some q => if q.ended then some q.task else none
    | none => none
  let s := slotNumbers.foldl (fun s i => (s.remove c i).closeQueues c i) s
  let s := slotNumbers.foldl (fun s i =>
    match (s.slot c i).occ with
    | .awaiting _ => s.setSlot c i { s.slot c i with occ := .empty }
    | _ => s) s
  let s := { s with net := s.net.filter fun p =>
    match p.kind with
    | .dispatch d _ _ _ => d != c
    | _ => true }
  let k := s.core c
  let s := k.syncers.foldl (fun s w =>
    s.send { id := 0, ctx := w.ctx, core := w.core, slot := w.slot, uid := w.uid,
             kind := .reply (.trap 19 (coreWindow c (8 * w.word))) }) s
  let v := s.cove (coveOf c)
  let s := s.setCove (coveOf c) { v with spill := k.arrivals ++ v.spill }
  let s := s.setCore c { (s.core c).stopEngines with
    status, syncers := [], arrivals := [], spec := Vector.replicate 4 none }
  (running ++ awaiting).foldl (fun s t =>
    if restart && t.idemp then s.endTask t 2 0 c (coveOf c) else s.endTask t 5 cause c (coveOf c)) s

/-- R260: a core that consumed poison is contained. -/
def State.contain (s : State) (c : Nat) : State := s.seal c .contained true 27

/-- R262: a silent error quarantines the core and kills the context. -/
def State.silentError (s : State) (x c : Nat) : State :=
  let s := (s.kill x 28 c).logError x 0 5 3 c
  s.seal c .quarantined false 28

/-- The core serves no access: contained, quarantined or in its self-test. -/
def Core.sealed (k : Core) : Bool := k.status != .normal

/-! ## Checks of data read from memory (R85) -/

/-- What a check of read data finds. -/
inductive Check where
  | ok
  | mismatch
  | poison
  deriving DecidableEq, Repr

/-- The 64-byte units of a byte range. -/
def unitsOf (pa n : Nat) : List Nat := if n = 0 then [] else upFrom (pa / 64) ((pa + n - 1) / 64 - pa / 64 + 1)

def State.errorAt (s : State) (pa n : Nat) : Option ErrorKind :=
  let hits := s.errors.filter fun (u, _) => (unitsOf pa n).contains u
  if hits.any fun (_, e) => e = .uncorrectable then some .uncorrectable
  else if hits.isEmpty then none else some .correctable

/-- A correctable error is corrected by the read that meets it (log entry 22): its mark is gone. -/
def State.corrected (s : State) (pa n : Nat) : State :=
  { s with errors := s.errors.filter fun (u, e) => !((unitsOf pa n).contains u && e = .correctable) }

/-- R85, R323: n bytes read from physical memory for a consumer on a core, by an access of a kind (a load's, where none is named); EBUD
is charged before the data reaches it. -/
def State.checkPhys (s : State) (x core pa n : Nat) (va : Word) (kind : BitVec 4 := 1) : Check × State :=
  if s.isStray pa then (.poison, s.strayed)
  else
    match s.errorAt pa n, s.classAt pa with
    | none, _ => (.ok, s)
    | some _, 2 => (.ok, s)
    | some _, 1 => (.mismatch, (s.charge x).logError x va 2 1 core kind)
    | some .correctable, 0 => (.ok, ((s.charge x).logError x va 0 0 core kind).corrected pa n)
    | some .correctable, _ => (.ok, s)
    | some .uncorrectable, cls => (.poison, (s.charge x).logError x va 1 cls core kind)

/-- The errors in the words of a range of local store that a unit reads, each charged and logged (R329). -/
def State.meetLocal (s : State) (x unit core off n : Nat) (kind : BitVec 4) : State :=
  let met := s.localErrors.filter fun (k, w, _) => k = core && (wordsOf off n).contains w
  met.foldl (fun s (_, _, e) => (s.charge x).logError x (coreWindow core off) (if e = .correctable then 3 else 4) 3 unit kind) s

/-- R85: n bytes read from a core's local store for a unit, by an access of a kind: a single-bit error is corrected (log entry 22), a
double-bit error is poison. -/
def State.checkLocal (s : State) (x unit core off n : Nat) (kind : BitVec 4 := 1) : Check × State :=
  match s.localError core off n with
  | none => (.ok, s)
  | some .correctable => (.ok, (s.meetLocal x unit core off n kind).healLocal core (wordsOf off n))
  | some .uncorrectable => (.poison, s.meetLocal x unit core off n kind)

/-! ## Writes of physical memory -/

/-- A store to physical memory by an access of a kind (R85, R323): one to a hole or a quiesced bay is discarded; one smaller than the check unit
first checks the unit, which stays poisoned if its error cannot be corrected; one of whole units leaves no error. -/
def State.storePhys (s : State) (x core pa : Nat) (bs : List Byte) (va : Word) (kind : BitVec 4 := 2) : State :=
  match s.notify? pa with
  | some (y, off) => s.storeNotify y off bs
  | none =>
  if s.isStray pa then (s.checkPhys x core pa bs.length va kind).2
  else
    let whole := pa % 64 = 0 ∧ bs.length % 64 = 0
    let s := if whole then s else (s.checkPhys x core pa bs.length va kind).2
    let units := unitsOf pa bs.length
    let keep : Nat × ErrorKind → Bool := fun (u, e) =>
      !(units.contains u && (decide whole || (e = .correctable && s.classAt pa != 1 && s.classAt pa != 2)))
    ({ s with phys := s.phys.store pa bs, errors := s.errors.filter keep } : State).amend (.phys pa) bs

/-- The parts of a range of memory that lie in one 64-byte unit each: where a part starts in the range, and its length. -/
def unitParts (pa n : Nat) : List (Nat × Nat) :=
  (unitsOf pa n).map fun u => (max pa (64 * u) - pa, min (pa + n) (64 * u + 64) - max pa (64 * u))

/-- Units marked as holding an error. -/
def State.poisonPhys (s : State) (pa n : Nat) : State :=
  { s with errors := (unitsOf pa n).map (fun u => (u, .uncorrectable)) ++ s.errors.filter fun (u, _) => !(unitsOf pa n).contains u }

/-- Words of a local store marked as holding an error. -/
def State.poisonLocal (s : State) (c off n : Nat) : State :=
  let s := s.healLocal c (wordsOf off n)
  { s with localErrors := (wordsOf off n).map (fun w => (c, w, .uncorrectable)) ++ s.localErrors }

end Sys2Proof.Machine
end

