-- ==== Sys2Proof/Machine/Operands.lean ====
section
/-! DEFINITION. Operands: the g registers with their queue ports (R26, R135), the f registers and the predicate word
(R142), and the rings behind the ports (R23-R29). -/

namespace Sys2Proof.Machine

/-! ## Registers -/

/-- g[i] without ports; g0 reads 0. -/
def Thread.getG (t : Thread) (r : Reg) : Word := if r = 0 then 0 else t.g.get ⟨r.toNat, r.isLt⟩

/-- g[i] written; g0 and the queue ports hold nothing. -/
def Thread.setG (t : Thread) (r : Reg) (v : Word) : Thread :=
  if r = 0 ∨ r = 28 ∨ r = 29 ∨ r = 30 then t else { t with g := t.g.set r.toNat v r.isLt }

def Thread.getF (t : Thread) (r : Reg) : BitVec 32 := t.f.get ⟨r.toNat, r.isLt⟩

def Thread.setF (t : Thread) (r : Reg) (v : BitVec 32) : Thread := { t with f := t.f.set r.toNat v r.isLt }

/-- `pbit` (R135): p0 reads 1. -/
def Thread.pbit (t : Thread) (p : BitVec 5) : Bool := if p = 0 then true else t.p.getLsbD p.toNat

/-- `setp` (R135): p0 ignores writes. -/
def Thread.setP (t : Thread) (p : BitVec 5) (b : Bool) : Thread :=
  if p = 0 then t
  else
    let m : BitVec 32 := 1 <<< p.toNat
    { t with p := if b then t.p ||| m else t.p &&& ~~~m }

/-! ## Rings (R27, R28) -/

def Ring.size (r : Ring) : Nat := 2 ^ r.lg.toNat

/-- The local-store offset of entry k counted from the head. -/
def Ring.offset (r : Ring) (k : Nat) : Nat := r.base.toNat * 32 + 8 * ((r.head + k) % r.size)

def Ring.pop (r : Ring) (n : Nat) : Ring := { r with head := (r.head + n) % r.size, count := r.count - n }

/-- Words pushed into a ring of a core. -/
def Core.pushWords (k : Core) (r : Ring) : List Word → Core × Ring
  | [] => (k, r)
  | w :: rest => (k.store (r.offset r.count) 8 w).pushWords { r with count := r.count + 1 } rest

/-! ## Reading operands -/

/-- How many of the registers read so far name a port. -/
def readsOf (p : Reg) (before : List Reg) : Nat := (before.filter fun r => r = p).length

/-- `readg` of a register after others of the same instruction, in the order of R135. The words stay in their queues
until the instruction passes its checks. -/
def State.readg (s : State) (t : Thread) (before : List Reg) (r : Reg) : Word :=
  if r = 28 then s.localLoad s.curCore (s.queues.rx.offset (readsOf 28 before)) 8
  else if r = 29 then s.localLoad s.curCore (s.queues.up.offset (readsOf 29 before)) 8
  else if r = 30 then BitVec.ofNat 64 s.queues.credits
  else t.getG r

/-- Writes of `qdn` are refused: the chain is marked refused (R25), or the downstream core is sealed (R260). -/
def State.chainRefused (s : State) : Bool := s.queues.refused || (s.core (s.queues.dnTid.toNat / 16)).sealed

/-- R26: an instruction issues only when every queue word it reads is present and, if it writes `qdn`, a credit is held.
The stall counter of the wait, if there is one. -/
def State.portWait (s : State) (reads : List Reg) (write : Reg) : Option Nat :=
  let q := s.queues
  if (q.rx.en && decide (q.rx.count < readsOf 28 reads)) || (q.up.en && decide (q.up.count < readsOf 29 reads)) then some 4
  else if write = 30 ∧ q.up.en ∧ !s.chainRefused ∧ q.credits = 0 then some 5
  else none

/-- R26: reading a port whose queue is disabled raises QUEUE_OFF (in field order). -/
def State.readTrap (s : State) : List Reg → Option (Nat × Word)
  | [] => none
  | r :: rest =>
    if (r = 28 ∧ !s.queues.rx.en) ∨ (r = 29 ∧ !s.queues.up.en) then some (10, r.zeroExtend 64) else s.readTrap rest

/-- R25, R26: writing `qdn` while QCWUP.en = 0 raises QUEUE_OFF; while the chain refuses, MSG_REFUSED. -/
def State.writeTrap (s : State) (write : Reg) : Option (Nat × Word) :=
  if write ≠ 30 then none
  else if !s.queues.up.en then some (10, 30)
  else if s.chainRefused then some (9, s.queues.dnTid.zeroExtend 64) else none

/-! ## Words of the executing core -/

/-- A word of the executing core's local store for the executing thread: errors are corrected or contain the core
(R85). -/
def State.readLocal (s : State) (x off n : Nat) (k : Word → State → State) : State :=
  match s.checkLocal x s.curCore s.curCore off n with
  | (.ok, s') => k (s'.localLoad s'.curCore off n) s'
  | (_, s') => s'.contain s'.curCore

/-- 8-byte words of the executing core at offsets, read in order. -/
def State.readWords (s : State) (x : Nat) : List Nat → List Word → (List Word → State → State) → State
  | [], ws, k => k ws s
  | off :: rest, ws, k => s.readLocal x off 8 fun w s' => s'.readWords x rest (ws ++ [w]) k

/-- The offsets of the queue words that registers read. -/
def State.portOffsets (s : State) (reads : List Reg) : List Nat :=
  (upFrom 0 (readsOf 28 reads)).map s.queues.rx.offset ++ (upFrom 0 (readsOf 29 reads)).map s.queues.up.offset

/-! ## Popping and pushing -/

/-- A thread that waits at a queue of its slot is ready to be looked at again. -/
def State.nudge (s : State) (c i cause : Nat) : State :=
  s.onThread c i fun t => if t.park = .retry cause then { t with park := .none } else t

/-- R24: whether the receive queue refuses a message of so many words for good. -/
def Ring.refuses (r : Ring) (words : Nat) : Bool := !r.en || decide (r.size < words)

/-- The words of a message in the ring (R23). -/
def Message.words (m : Message) : List Word := m.header :: m.payload

/-- The waiting messages of a slot accepted or refused in order, as far as the first that does not yet fit (R24). -/
def State.takeMessages (s : State) (c i : Nat) : Nat → State
  | 0 => s
  | n + 1 =>
    let v := s.slot c i
    match v.q.waiting with
    | [] => s
    | m :: rest =>
      let answer (s : State) (b : Bool) : State :=
        s.send { id := 0, ctx := s.ownerOf c, core := m.core, slot := m.slot, uid := m.uid, kind := .messageReply b }
      if v.q.rx.refuses m.words.length then
        (answer (s.setSlot c i { v with q := { v.q with waiting := rest } }) false).takeMessages c i n
      else if v.q.rx.size < v.q.rx.count + m.words.length then s
      else
        let (k, rx) := (s.core c).pushWords v.q.rx m.words
        let k := k.setSlot i { v with q := { v.q with rx, waiting := rest, msgs := v.q.msgs ++ [(m.words.length, false)] } }
        (answer ((s.setCore c k).nudge c i 4) true).takeMessages c i n

/-- The messages left when n words have been popped. -/
def popMessages : Nat → List (Nat × Bool) → List (Nat × Bool)
  | 0, ms => ms
  | _, [] => []
  | n + 1, (w, _) :: rest => popMessages n (if w ≤ 1 then rest else (w - 1, true) :: rest)

/-- Every waiting message of a slot looked at once. -/
def State.settleMessages (s : State) (c i : Nat) : State := s.takeMessages c i (s.slot c i).q.waiting.length

/-- The queue words that an instruction has read leave their queues; each word of the chain queue returns one credit
upstream (R25). -/
def State.popPorts (s : State) (t : Thread) (reads : List Reg) : State :=
  let rx := readsOf 28 reads
  let up := readsOf 29 reads
  if rx = 0 ∧ up = 0 then s
  else
    let v := s.slot s.curCore s.curSlot
    let s := s.setSlot s.curCore s.curSlot { v with q := { v.q with rx := v.q.rx.pop rx, up := v.q.up.pop up, msgs := popMessages rx v.q.msgs } }
    let s := if up = 0 then s else s.sendCur t (.creditGrant v.q.upTid.toNat up)
    s.settleMessages s.curCore s.curSlot

/-- A push to `qdn`: one credit spent, one word sent downstream behind the thread's earlier pushes (R26). -/
def State.pushDown (s : State) (c i : Nat) (t : Thread) (v : Word) : State :=
  let q := (s.slot c i).q
  let dest := q.dnTid.toNat
  let earlier := (s.net.filter fun p =>
    match p.kind with
    | .push d f _ => d = dest && f = tidOf c i
    | _ => false).map fun p => p.id
  let s := s.setSlot c i { s.slot c i with q := { q with credits := q.credits - 1 } }
  s.send { id := 0, ctx := t.ctx, core := c, slot := i, uid := t.uid, after := earlier, kind := .push dest (tidOf c i) v }

/-- `writeg` (R135) for the thread of a slot: its register written, or the push of a write of `qdn`. -/
def State.writeg (s : State) (c i : Nat) (rd : Reg) (v : Word) : State :=
  match s.thread? c i with
  | none => s
  | some t => (if rd = 30 then s.pushDown c i t v else s).setThread c i (t.setG rd v)

/-- A reply's value in its destination. -/
def State.deliver (s : State) (c i : Nat) (d : Dest) (w : Word) : State :=
  match d with
  | .none => s
  | .g rd n signed => s.writeg c i rd (if signed then sext w n else zext w n)
  | .f rd => s.onThread c i fun t => t.setF rd (w.extractLsb' 0 32)

end Sys2Proof.Machine
end

