-- ==== Sys2Proof/Machine/Flags.lean ====
section
/-! DEFINITION. FSTAT (R108): the sticky flags, the rounding mode of an instruction (R109) and the generator's draws
(R110). -/

namespace Sys2Proof.Machine

/-- FSTAT.rm. -/
def Thread.rm (t : Thread) : Nat := bits t.fstat 5 3

/-- FSTAT.sat. -/
def Thread.sat (t : Thread) : Bool := t.fstat.getLsbD 8

/-- Flags ORed into FSTAT[4:0]. -/
def Thread.raiseFlags (t : Thread) (fl : Flags) : Thread := { t with fstat := t.fstat ||| fl.zeroExtend 64 }

/-- The mode that an rm value selects; `none` raises ILLEGAL (R109). -/
def Thread.modeOf (t : Thread) (rm : Nat) : Option Nat :=
  let m := if rm = 7 then t.rm else rm
  if m ≤ 5 then some m else none

/-- n draws made if the mode is stochastic: the values and the thread with its generator advanced (R110). -/
def Thread.drawFor (t : Thread) (mode n : Nat) : List (BitVec 16) × Thread :=
  if mode = 5 then
    let (seed, rs) := drawN t.srseed n
    (rs, { t with srseed := seed })
  else ([], t)

/-- The rounding of a scalar instruction, which draws once in stochastic mode (R110). -/
def Thread.rounding (t : Thread) (mode : Nat) : Rounding × Thread :=
  let (rs, t') := t.drawFor mode 1
  ({ mode, sat := t.sat, r := ((rs[0]?).getD 0).toNat }, t')

/-- The value drawn for element i of a command. -/
def drawAt (draws : List (BitVec 16)) (i : Nat) : Nat := ((draws[i]?).getD 0).toNat

end Sys2Proof.Machine
end

