-- ==== Sys2Proof/Machine/Ops.lean ====
section
/-! DEFINITION. The operations that every instruction shares: issuing with the checks of R136, retiring with the
signature checker's fold (R190, R191), taking a user trap (R247-R249) and returning from one (R158), ending a thread
(R62), waking waiters of the key map (R37). -/

namespace Sys2Proof.Machine

/-! ## The signature checker (R190, R191) -/

/-- The kernel whose text holds an address. -/
def State.kernelAt (s : State) (x : Nat) (pc : Word) : Option Kernel :=
  match s.ctx? x with
  | some k => k.kernels.find? fun q => decide (q.start.toNat ≤ pc.toNat) && decide (pc.toNat < q.start.toNat + q.length.toNat)
  | none => none

/-- The signature records that apply at an address; none without a `.sig` section. -/
def State.sigRecords (s : State) (x : Nat) (pc : Word) : List SigRecord :=
  match s.kernelAt x pc with
  | some q => q.sig.getD []
  | none => []

/-- R190: the checker runs in kernels of class F and D, and not while a handler runs. -/
def State.checking (s : State) (t : Thread) : Bool :=
  match s.ctx? t.ctx with
  | some k => decide (k.record.cls ≤ 1) && !t.checker.suspended
  | none => false

/-- How a format folds (R190): all fields of A and Q; no rs2 in I; no rd in S and B; only rd in U and J; only funct3 in
L. -/
inductive FoldShape where
  | all | noRs2 | noRd | onlyRd | onlyFunct
  deriving DecidableEq, Repr

/-- The fold shape of a word, by its major opcode and funct3 (R122, R125-R133). -/
def foldShape (w : BitVec 32) : FoldShape :=
  let f3 := bits w 12 3
  match bits w 0 7 with
  | 0x37 | 0x17 | 0x6F => .onlyRd
  | 0x63 | 0x23 | 0x27 => .noRd
  | 0x03 | 0x07 | 0x13 | 0x1B | 0x67 | 0x0F | 0x73 => .noRs2
  | 0x0B => if f3 = 2 then .noRd else if f3 = 3 then .noRs2 else if f3 = 7 then .onlyFunct else .all
  | 0x2B => if f3 ≤ 2 then .noRs2 else .all
  | 0x5B => if f3 = 4 then .noRs2 else if f3 = 5 then .noRd else .all
  | _ => .all

/-- The value that a word folds (R190). -/
def foldValue (w : BitVec 32) : BitVec 32 :=
  let major := (w.extractLsb' 2 5).zeroExtend 32 <<< 20
  let f3 := (w.extractLsb' 12 3).zeroExtend 32 <<< 17
  let rd := (w.extractLsb' 7 5).zeroExtend 32 <<< 10
  let rs1 := (w.extractLsb' 15 5).zeroExtend 32 <<< 5
  let rs2 := (w.extractLsb' 20 5).zeroExtend 32
  match foldShape w with
  | .all => major ^^^ f3 ^^^ rd ^^^ rs1 ^^^ rs2
  | .noRs2 => major ^^^ f3 ^^^ rd ^^^ rs1
  | .noRd => major ^^^ f3 ^^^ rs1 ^^^ rs2
  | .onlyRd => major ^^^ rd
  | .onlyFunct => major ^^^ f3

/-- The checker after the fold of a word; `transfer`: a control transfer sets pending. -/
def Checker.foldWord (k : Checker) (w : BitVec 32) (transfer : Bool) : Checker :=
  { k with fold := k.fold.rotateLeft 3 ^^^ foldValue w, pending := k.pending || transfer }

/-- The instruction of the thread of a slot retires and the thread goes on at a PC: a fold where the checker runs, a
silent error while pending. -/
def State.retireAt (s : State) (c i : Nat) (pc : Word) (transfer : Bool := false) : State :=
  match s.thread? c i with
  | none => s
  | some t =>
    if s.checking t then
      if t.checker.pending then s.silentError t.ctx c
      else s.setThread c i { t with pc, park := .none, fetched := none, checker := t.checker.foldWord t.iword transfer }
    else s.setThread c i { t with pc, park := .none, fetched := none }

/-- The instruction of the thread of a slot retires and the thread goes on behind it. -/
def State.retire (s : State) (c i : Nat) : State :=
  match s.thread? c i with
  | none => s
  | some t => s.retireAt c i (t.pc + 4)

/-- The executing instruction retires. -/
def State.done (s : State) : State := s.retire s.curCore s.curSlot

/-! ## Key-map waiters (R34, R37) -/

/-- The result word of a map instruction (R34). -/
def mapWord (status slot pin : Nat) : Word := BitVec.ofNat 64 (pin * 2 ^ 16 + status * 2 ^ 8 + slot)

def Core.entry (k : Core) (i : Nat) : KEntry := (k.kmap[i]?).getD {}

/-- What `kwait` answers for an entry that is not PENDING; with MISS the slot field is 0. -/
def KEntry.waitWord (e : KEntry) (slot : Nat) : Word := if e.state = .bound then mapWord 0 slot e.pin else mapWord 1 0 0

/-- The threads of a core parked in `kwait` on a slot wake with the entry's new state. -/
def State.wakeSlot (s : State) (c slot : Nat) : State :=
  slotNumbers.foldl (fun s i =>
    match s.thread? c i with
    | some t =>
      match t.waits with
      | some (.kwait rd w) =>
        if w = slot then (s.writeg c i rd (((s.core c).entry slot).waitWord slot)).retire c i else s
      | _ => s
    | none => s) s

/-- The threads of a core parked in `kwait.u` wake with DONE and slot 0. -/
def State.wakeUnpin (s : State) (c : Nat) : State :=
  slotNumbers.foldl (fun s i =>
    match s.thread? c i with
    | some t =>
      match t.waits with
      | some (.kwaitU rd) => (s.writeg c i rd (mapWord 4 0 0)).retire c i
      | _ => s
    | none => s) s

/-- R38: the PENDING entries that a TID owns become FREE and their `kwait` waiters wake. -/
def State.abandonMap (s : State) (c tid : Nat) : State :=
  let k := s.core c
  let mine := (upFrom 0 64).filter fun j => (k.entry j).state = .pending && (k.entry j).owner = tid
  mine.foldl (fun s j => s.wakeSlot c j) (s.setCore c (k.abandonOf fun o => o = tid))

/-! ## Ending a thread (R62 step 1) -/

/-- The thread of a slot leaves it: its map entries abandoned and their waiters woken, its queues closed, the slot
empty. -/
def State.leave (s : State) (c i : Nat) : State := (s.abandonMap c (tidOf c i)).remove c i

/-- The task of the thread of a slot ends with a status once the stores released are performed (R62). -/
def State.endThread (s : State) (c i : Nat) (t : Thread) (status cause : Nat) : State :=
  let after := s.fenced t
  (s.leave c i).endTask t.task status cause c (coveOf c) after

/-! ## Taking a user trap (R247, R248) -/

/-- What a trap brings: its cause, UTVAL and UCAUSE.sub, whether it is asynchronous, and whether the fetch at the PC
failed. -/
structure Trap where
  cause : Nat
  utval : Word
  sub : Nat := 0
  async : Bool := false
  fetch : Bool := false
  deriving DecidableEq, Repr

/-- The UCAUSE word (R246). -/
def Trap.word (k : Trap) (nested gang : Bool) : Word :=
  BitVec.ofNat 64 (boolNat k.async * 2 ^ 31 + boolNat nested * 2 ^ 30 + boolNat gang * 2 ^ 29 + k.sub * 2 ^ 8 + k.cause)

/-- The handler's address (R247). -/
def Thread.handlerPc (t : Thread) : Word := t.utvec >>> 2 <<< 2

/-- The thread inside its handler (R247). Its next issue lies after this cycle, whatever the instruction that trapped would have
taken (R13). -/
def Thread.enter (t : Thread) (k : Trap) (gang : Bool) : Thread :=
  { t with
    uepc := t.pc
    ucause := k.word t.handler gang
    utval := k.utval
    handler := true
    checker := { t.checker with suspended := true }
    pc := t.handlerPc
    park := .none
    fetched := none
    hold := max t.hold 1 }

/-- A trap ends the task: UTVEC.en = 0, or a fetch fault at the handler's own entry, whatever h holds (R247). -/
def Thread.endsOn (t : Thread) (k : Trap) : Bool :=
  !t.utvec.getLsbD 0 || (k.fetch && t.pc == t.handlerPc)

/-- Taking a user trap, in place of the instruction at the thread's PC: a gang that the thread leads breaks (R47); then
the handler is entered, or the task ends as faulted (R248), for a speculative ordered task once it is oldest. -/
def State.trapAt (s : State) (c i : Nat) (k : Trap) : State :=
  match s.thread? c i with
  | none => s
  | some t =>
    let s := if t.gang.isSome then s.breakGang c else s
    let gang := t.gang.isSome
    let t := { t with gang := none }
    if t.endsOn k then
      if t.spec.isSome then s.setThread c i { t with ending := some k.cause, park := .retry 8 }
      else s.endThread c i t 5 k.cause
    else s.setThread c i (t.enter k gang)

/-- A precise user trap of the executing instruction. -/
def State.trap (s : State) (cause : Nat) (utval : Word) : State := s.trapAt s.curCore s.curSlot { cause, utval }

/-! ## Asynchronous causes (R249) -/

/-- The first pending cause, in the order GANGBREAK, COPY_FAULT, EBUDGET, ALLASLEEP, and what stays pending. -/
def Pending.first (p : Pending) : Option (Trap × Pending) :=
  match p.gangBreak with
  | some w => some ({ cause := 24, utval := w, async := true }, { p with gangBreak := none })
  | none =>
    match p.copyFault with
    | some w => some ({ cause := 23, utval := w, async := true }, { p with copyFault := none })
    | none =>
      if p.eBudget then some ({ cause := 25, utval := 0, async := true }, { p with eBudget := false })
      else
        match p.allAsleep with
        | some n => some ({ cause := 26, utval := BitVec.ofNat 64 n, sub := n, async := true }, { p with allAsleep := none })
        | none => none

/-- The first pending cause taken in place of the thread's next issue. -/
def State.takeAsync (s : State) (c i : Nat) : State :=
  match s.thread? c i with
  | none => s
  | some t =>
    match t.pend.first with
    | none => s
    | some (k, rest) => (s.setThread c i { t with pend := rest }).trapAt c i k

/-! ## Returning from a trap (R158) -/

/-- `tret`: to UEPC, h cleared, the checker resumed. A `tret` that ends a handler folds nothing; outside one it is a
control transfer. A pending asynchronous cause is then taken at once. -/
def State.trapReturn (s : State) (c i : Nat) : State :=
  match s.thread? c i with
  | none => s
  | some t =>
    if bits t.uepc 0 2 ≠ 0 then s.trapAt c i { cause := 3, utval := t.uepc }
    else if t.checker.suspended then
      (s.setThread c i { t with pc := t.uepc, handler := false, park := .none, fetched := none,
                                checker := { t.checker with suspended := false } }).takeAsync c i
    else ((s.setThread c i { t with handler := false }).retireAt c i t.uepc true).takeAsync c i

/-! ## Ordered tasks: the oldest (R69) -/

/-- (key, TCB address) order of ready queues and ordered tasks (R58). -/
def Task.before (a b : Task) : Bool :=
  decide (a.key.toNat < b.key.toNat) || (a.key == b.key && decide (a.tcb.toNat < b.tcb.toNat))

/-- The tasks of a core: of its threads, of dispatches on their way to it, of its buffer parts and its arrival buffer. -/
def Core.tasks (k : Core) : List Task :=
  (k.spec.toList.filterMap fun p => p.map SpecPart.task) ++ k.arrivals.map (fun a => a.thread.task) ++
    slotNumbers.filterMap fun i =>
      match (k.slot i).occ with
      | .thread t => some t.task
      | .awaiting t => some t
      | _ => none

/-- The tasks of a cove that are ready, dispatched, running or awaiting commit, one whose end or return to ready is on its way
included; a pre-empted task stays running. -/
def State.tasksOf (s : State) (v : Nat) : List Task :=
  let place := s.cove v
  let cores := (upFrom 0 64).map fun n => s.core (coreOf v n)
  let moving := s.net.filterMap fun p =>
    match p.kind with
    | .ended t _ _ _ w => if w = v then some t else none
    | .migrate m => if coveOf m.dest = v then some m.thread.task else none
    | _ => none
  let saved := s.ctxs.flatMap fun (_, k) =>
    ((k.savedCores.filter fun (c, _) => coveOf c = v).flatMap fun (_, q) => q.core.tasks) ++
    (k.saved.filter fun q => coveOf q.core = v).map fun q => q.thread.task
  place.ready ++ moving ++ place.spill.map (fun a => a.thread.task) ++ cores.flatMap Core.tasks ++ saved

/-- The ordered tasks among them (R69). -/
def State.orderedTasks (s : State) (v : Nat) : List Task := (s.tasksOf v).filter Task.ordered

/-- No ordered task of its context in the cove precedes this one. -/
def State.isOldest (s : State) (v : Nat) (t : Task) : Bool := !(s.orderedTasks v).any fun u => u.ctx == t.ctx && u.before t

/-! ## Issuing (R135, R136) -/

/-- What an instruction does once its operands are read: a trap found at issue, not ready, or its effect on the state in
which its queue words are popped. -/
inductive Act where
  | trap (cause : Nat) (utval : Word)
  | notReady (cause : Nat)
  | go (effect : State → State)

/-- An irreversible instruction waits until its task is non-speculative (R69); one of an ordered task that is, until no other task's
commit is under way in the cove, so that the commit is one step for it (R70, log entry 29). -/
def State.heldBack (s : State) (t : Thread) : Bool :=
  t.spec.isSome || (t.task.ordered && !(s.commits t.ctx (coveOf s.curCore)).isEmpty)

/-- The instruction waits for a unit or a command queue (STALL11), whatever its operands hold. -/
def Act.busy (a : Act) : Bool :=
  match a with
  | .notReady cause => cause == 11
  | _ => false

/-- An instruction of the executing thread. It waits for the queue words it reads and the credit it spends (R26; DESIGN CHOICE,
log entry 85: that wait comes before the trap for another port that is disabled) and for its unit (R12, R222); reading a disabled port
traps; an irreversible instruction of an ordered task may be held back; then its own checks; then a write of `qdn` that cannot be made
traps. A trap leaves the queues as they stood. -/
def State.issue (s : State) (t : Thread) (reads : List Reg) (write : Reg) (irreversible : Bool) (body : Act) : State :=
  match s.portWait reads write with
  | some cause => s.retry t cause
  | none =>
    if body.busy then s.retry t 11 else
    match s.readTrap reads with
    | some (cause, utval) => s.trap cause utval
    | none =>
      if irreversible && s.heldBack t then s.retry t 8
      else
        match body with
        | .trap cause utval => s.trap cause utval
        | .notReady cause => s.retry t cause
        | .go effect =>
          match s.writeTrap write with
          | some (cause, utval) => s.trap cause utval
          | none => s.readWords t.ctx (s.portOffsets reads) [] fun _ s' => effect (s'.popPorts t reads)

/-- A meaning of an instruction: it acts on the executing thread. -/
def run (s : State) (f : Thread → State) : Result :=
  match s.cur? with
  | some t => .next (f t)
  | none => .fault .noThread

/-- A register result of the executing thread, and its instruction retires. -/
def State.finish (s : State) (rd : Reg) (v : Word) : State := (s.writeg s.curCore s.curSlot rd v).done

/-- The executing thread changed, and its instruction retires. -/
def State.finishWith (s : State) (f : Thread → Thread) : State := (s.onThread s.curCore s.curSlot f).done

/-- An instruction that computes a g register from g registers and cannot trap by itself. -/
def compute (s : State) (rd : Reg) (reads : List Reg) (f : Thread → Word) : Result :=
  run s fun t => s.issue t reads rd false (.go fun s' => s'.finish rd (f t))

/-- The form with one source. -/
def compute1 (s : State) (rd rs1 : Reg) (f : Word → Word) : Result :=
  compute s rd [rs1] fun t => f (s.readg t [] rs1)

/-- The form with two sources, rs1 read before rs2. -/
def compute2 (s : State) (rd rs1 rs2 : Reg) (f : Word → Word → Word) : Result :=
  compute s rd [rs1, rs2] fun t => f (s.readg t [] rs1) (s.readg t [rs1] rs2)

/-- The executing thread's instruction retires and the thread goes on at a PC, as a control transfer. -/
def State.goTo (s : State) (pc : Word) : State := s.retireAt s.curCore s.curSlot pc true

end Sys2Proof.Machine
end

