-- ==== Sys2Proof/Machine/Ordered.lean ====
section
/-! DEFINITION. Performing stores (R88) and what they set off: ownership of host lines (R82) and back-invalidation of host
copies (R325); ordered tasks: read signatures, broadcasts, aborts and commits (R69-R71). -/

namespace Sys2Proof.Machine

/-! ## Words at targets -/

/-- The 8-byte word at a target. -/
def State.wordAt (s : State) (t : Target) : Word :=
  match t with
  | .local c off => s.localLoad c off 8
  | .phys pa => s.phys.load pa 8

/-- A word written by a store of a thread that was issued at a step, and what it has overwritten noted: the thread's engine
commands may still read it (R88, R91). The thread's own earlier notes of the word stay as they were; for every other thread the
store is one that engine commands see. -/
def State.noting (s : State) (uid step : Nat) (t : Target) (f : State → State) : State :=
  let s' := f s
  let old := s.wordAt t.word
  let new := s'.wordAt t.word
  let kept := (s.olds.zip s'.olds).map fun (a, b) => if a.uid = uid ∧ a.target = t.word then a else b
  { s' with olds := if old = new then kept else { uid, target := t.word, step, old, new } :: kept }

/-- The address in core-window form (R69). -/
def formOf (core : Nat) (a : Word) : Word := if a.toNat < localSize then coreWindow core a.toNat else a

/-! ## Performing a store -/

/-- Bytes stored to local store, by a thread or by an access of another kind: a word that they write in part and that holds an error is read first (R85); an error that can be
corrected is gone afterwards. DESIGN CHOICE (log entry 22): one that cannot contains the core whose local store it is. -/
def State.storeRange (s : State) (x c off : Nat) (bs : List Byte) (kind : BitVec 4 := 2) : State :=
  let whole := wholeWords off bs.length
  let parts := (wordsOf off bs.length).filter fun w => !whole.contains w
  let s := parts.foldl (fun s w =>
    match s.checkLocal x c c (8 * w) 8 kind with
    | (.ok, s') => s'.healLocal c [w]
    | (_, s') => s'.contain c) s
  let s := s.healLocal c whole
  let k := s.core c
  (s.setCore c { k with mem := k.mem.store off bs }).amend (.local c off) bs

/-- A store of n bytes of a value to local store. -/
def State.storeLocal (s : State) (x c off n : Nat) (v : Word) : State := s.storeRange x c off (leBytes n v.toNat)

/-- n bytes of a store performed at their target; a sealed core takes none (R260). -/
def State.performBytes (s : State) (x core : Nat) (t : Target) (n : Nat) (v va : Word) : State :=
  match t with
  | .local c off => if (s.core c).sealed then s else s.storeLocal x c off n v
  | .phys pa => s.storePhys x core pa (leBytes n v.toNat) va

/-! ## The store buffer (R146) -/

/-- The bytes that a packet will write. -/
def Kind.footprint : Kind → Option (Target × Nat)
  | .store t n _ => some (t, n)
  | .commit w => some (w.target, 8)
  | .atomic t a _ => some (t, a.n)
  | .dec _ (some pa) _ => some (.phys (pa + 48), 8)
  | _ => none

/-- The packet writes a byte of the range. -/
def Packet.touches (p : Packet) (t : Target) (n : Nat) : Bool :=
  match p.kind.footprint with
  | some (u, m) => u.overlaps m t n
  | none => false

/-- The buffered entries of a core that overlap a range, oldest first. -/
def State.overlapping (s : State) (c : Nat) (t : Target) (n : Nat) : List Packet :=
  (s.storeBuffer c).filter fun p => p.touches t n

/-! ## Ordered tasks -/

/-- The words of commits under way that meet a range. -/
def State.committing (s : State) (x v : Nat) (t : Target) (n : Nat) : List Nat :=
  ((s.commits x v).filter fun p => p.touches t n).map fun p => p.id

/-- The bit of the read signature of an address in core-window form (R69). -/
def sigBit (a : Word) : Nat :=
  (a.extractLsb' 6 9 ^^^ a.extractLsb' 15 9 ^^^ a.extractLsb' 24 9 ^^^ a.extractLsb' 33 9 ^^^ a.extractLsb' 42 9).toNat

/-- The buffer part of a thread of a core. -/
def Core.part? (k : Core) (t : Thread) : Option SpecPart :=
  match t.spec with
  | some i => ((k.spec[i]?).getD none)
  | none => none

/-- The buffer part of a thread changed. -/
def Core.onPart (k : Core) (t : Thread) (f : SpecPart → SpecPart) : Core :=
  match t.spec with
  | some i => { k with spec := k.spec.setIfInBounds i (((k.spec[i]?).getD none).map f) }
  | none => k

/-- A load of the thread joins its read signature. -/
def State.noteRead (s : State) (c : Nat) (t : Thread) (a : Word) : State :=
  if t.spec.isNone then s
  else s.setCore c ((s.core c).onPart t fun p => { p with sig := p.sig ||| (1 <<< sigBit (formOf c a)) })

/-- A buffered byte: the part holds whole words (R68, R73). -/
def SpecWord.byte? (w : SpecWord) (t : Target) : Option Byte :=
  if w.target = t.word then some (w.data.extractLsb' (8 * t.byte) 8) else none

def specByte (ws : List SpecWord) (t : Target) : Option Byte := ws.findSome? fun w => w.byte? t

/-- The buffered bytes of a range, where there are any. -/
def specBytes (ws : List SpecWord) (t : Target) (n : Nat) : List (Option Byte) := (upFrom 0 n).map fun k => specByte ws (t.plus k)

/-- A value read from committed memory with the buffered bytes in place. -/
def overlay (ws : List SpecWord) (t : Target) (n : Nat) (v : Word) : Word :=
  BitVec.ofNat 64 (leNat ((upFrom 0 n).map fun k => (specByte ws (t.plus k)).getD (v.extractLsb' (8 * k) 8)))

/-- The words that a thread has buffered. -/
def State.specWords (s : State) (c : Nat) (t : Thread) : List SpecWord :=
  match (s.core c).part? t with
  | some p => p.words
  | none => []

/-- Bytes put into a buffered word. -/
def SpecWord.merge (w : SpecWord) (k n : Nat) (v : Word) : SpecWord :=
  let ones : Word := BitVec.ofNat 64 (2 ^ (8 * n) - 1)
  { w with mask := w.mask ||| BitVec.ofNat 8 ((2 ^ n - 1) * 2 ^ k)
           data := masked (ones <<< (8 * k)) w.data (v <<< (8 * k)) }

/-- The bits of the bytes that a mask names. -/
def byteMask (m : BitVec 8) : Word := BitVec.ofNat 64 (leNat ((upFrom 0 8).map fun k => if m.getLsbD k then 255 else 0))

/-- What an ordered task has written at a range shows in the bytes of a buffered word that its own task has not written. -/
def SpecWord.refresh (w : SpecWord) (t : Target) (n : Nat) (v : Word) : SpecWord :=
  if w.target = t.word then { w with data := masked (byteMask w.mask) (w.merge t.byte n v).data w.data } else w

/-- A store of n bytes into a buffer: merged into its word, or into a new word that memory fills. -/
def bufferWord (va : Word) (t : Target) (n : Nat) (v fill : Word) : List SpecWord → List SpecWord
  | [] => [({ va := va >>> 3 <<< 3, target := t.word, mask := 0, data := fill } : SpecWord).merge t.byte n v]
  | w :: rest => if w.target = t.word then w.merge t.byte n v :: rest else w :: bufferWord va t n v fill rest

/-- A store of a speculative thread. DESIGN CHOICE (log entry 76): the other bytes of a word that it writes in part are those that
memory has then. -/
def State.bufferStore (s : State) (c : Nat) (t : Thread) (tgt : Target) (n : Nat) (v va : Word) : State :=
  s.setCore c ((s.core c).onPart t fun p =>
    { p with words := bufferWord (formOf c va) tgt n v (s.wordAt tgt.word) p.words })

/-- The buffer holds 128 words, none of them the one that an address names (R69). -/
def bufferFull (ws : List SpecWord) (va : Word) : Bool :=
  decide (128 ≤ ws.length) && !ws.any fun w => w.va == va >>> 3 <<< 3

/-- R65, R71: a task goes back to ready in a cove. -/
def State.backToReady (s : State) (c : Nat) (t : Task) : State := s.endTask t 2 0 c (coveOf c)

/-- R71: the task of a part aborted. -/
def State.abortPart (s : State) (c i : Nat) : State :=
  match ((s.core c).spec[i]?).getD none with
  | none => s
  | some p =>
    let s :=
      match (s.core c).threads.find? fun (_, t) => t.uid = p.uid with
      | some (j, _) => if p.ended then s else s.leave c j
      | none => s
    let k := s.core c
    (s.setCore c { k with spec := k.spec.setIfInBounds i none }).backToReady c p.task

/-- The part of a later ordered task of the same context that has read a line. -/
def hitBy (task : Task) (va : Word) (p : Option SpecPart) : Bool :=
  match p with
  | some p => p.task.ctx == task.ctx && task.before p.task && p.sig.getLsbD (sigBit va)
  | none => false

/-- The tasks of a core that a line hits aborted. -/
def State.hitCore (s : State) (task : Task) (va : Word) (d : Nat) : State :=
  (upFrom 0 4).foldl (fun s i => if hitBy task va (((s.core d).spec[i]?).getD none) then s.abortPart d i else s) s

/-- What a pre-emption has saved of a core, changed as if it stood there. -/
def State.inSaved (s : State) (x d : Nat) (f : State → State) : State :=
  match (s.ctx? x).bind fun k => find? d k.savedCores with
  | none => s
  | some v =>
    let live := s.core d
    let s := f (s.setCore d v.core)
    let core := s.core d
    (s.onCtx x fun k => { k with savedCores := put d { v with core } k.savedCores }).setCore d live

/-- R70, R71: a line written by a task broadcast in its cove; every later ordered task that has read it is aborted, one
that is swapped out too. -/
def State.broadcastLine (s : State) (c : Nat) (task : Task) (va : Word) : State :=
  (upFrom 0 64).foldl (fun s n =>
    let d := coreOf (coveOf c) n
    (s.hitCore task va d).inSaved task.ctx d fun s => s.hitCore task va d) s

/-- A buffered word of local store written; one that the task stored only in part checks the word first, as a store of fewer bytes
does. -/
def State.commitLocal (s : State) (x c off : Nat) (w : SpecWord) : State :=
  if w.mask = 0xFF ∨ (s.core c).sealed then s.performBytes x c w.target 8 w.data w.va
  else
    match s.checkLocal x c c off 8 2 with
    | (.ok, s') => s'.storeLocal x c off 8 w.data
    | (_, s') => s'.contain c

/-- One buffered word performed at its home: the whole word, so that a plain store to it is overwritten (R73). -/
def State.commitWord (s : State) (x c : Nat) (w : SpecWord) : State :=
  match w.target with
  | .local d off => s.commitLocal x d off w
  | .phys pa => if w.mask ≠ 0xFF ∧ (s.notify? pa).isSome then s else s.performBytes x c w.target 8 w.data w.va

/-- A store on its way that a commit from a core must not overtake: an entry of the core's store buffer (R89), or the store of an
ordered task of the cove (R70). -/
def Packet.aheadOfCommit (q : Packet) (c x : Nat) : Bool :=
  (q.buffered && q.core = c) || (q.broadcast.isSome && q.ctx = x && coveOf q.core = coveOf c)

/-- A buffered word on its way to its home, behind the overlapping stores that it must not overtake. -/
def State.sendCommit (s : State) (c : Nat) (p : SpecPart) (w : SpecWord) : State :=
  s.send { id := 0, ctx := p.task.ctx, core := c, slot := 0, uid := p.uid
           after := (s.net.filter fun q => q.aheadOfCommit c p.task.ctx && q.touches w.target 8).map fun q => q.id
           kind := .commit w }

/-- The bytes that a load in flight will read. -/
def Kind.loads : Kind → Option (Target × Nat)
  | .load pa n _ => some (.phys pa, n)
  | .remoteLoad core off n _ => some (.local core off, n)
  | _ => none

/-- The loads that a thread has in flight follow the words of its own commit that they meet (R89). -/
def State.followCommit (s : State) (uid : Nat) : State :=
  let words := s.net.filter fun q => q.uid = uid && q.kind.isCommit
  { s with net := s.net.map fun q =>
      match q.kind.loads with
      | some (t, n) => if q.uid = uid then { q with after := q.after ++ (words.filter fun w => w.touches t n).map fun w => w.id } else q
      | none => q }

/-- The translation of bytes [va, va + len) of a context is affected. -/
def InvCommand.hits (q : InvCommand) (ctx va len : Nat) : Bool :=
  match q.scope with
  | 0 => ctx == q.ctx && decide (va < q.va + q.bytes) && decide (q.va < va + len)
  | 1 => ctx == q.ctx
  | _ => true

/-- A word of a commit on its way whose translation the command affects. -/
def Packet.commitsTo (p : Packet) (q : InvCommand) : Bool :=
  match p.kind with
  | .commit w => w.target.core?.isNone && q.hits p.ctx w.va.toNat 8
  | _ => false

/-- The words of a commit join the accesses that an outstanding invalidation waits for, where the task held stores before it
(R333). -/
def State.joinInvalidations (s : State) (p : SpecPart) : State :=
  let joined (e : InvCommand × List Nat × List Nat) : InvCommand × List Nat × List Nat :=
    if e.2.2.contains p.task.tcb.toNat then
      (e.1, e.2.1 ++ (s.net.filter fun w => w.uid = p.uid && w.commitsTo e.1).map (fun w => w.id), e.2.2)
    else e
  { s with inv := { s.inv with queue := s.inv.queue.map joined } }

/-- R70, R101: the words of a part leave for memory, where they are performed in any order; the part is freed, and the lines are
broadcast. Until they are performed no ordered task of the cove reads or writes them (log entry 29). -/
def State.commitPart (s : State) (c i : Nat) (p : SpecPart) : State :=
  let s := ((p.words.foldl (fun s w => s.sendCommit c p w) s).followCommit p.uid).joinInvalidations p
  let k := s.core c
  let s := s.setCore c { k with spec := k.spec.setIfInBounds i none }
  p.words.foldl (fun s w => s.broadcastLine c p.task w.va) s

/-- The part of a core whose task is the oldest of its cove, once no earlier commit of its context is under way there. -/
def State.oldestPart (s : State) (c : Nat) : Option (Nat × SpecPart) :=
  (upFrom 0 4).findSome? fun i =>
    match ((s.core c).spec[i]?).getD none with
    | some p => if s.isOldest (coveOf c) p.task && (s.commits p.task.ctx (coveOf c)).isEmpty then some (i, p) else none
    | none => none

/-- What a store of a thread broadcasts when it is performed: only a non-speculative ordered task's does (R69). -/
def Thread.broadcasts (t : Thread) (c : Nat) (a : Word) : Option (Task × Word) :=
  if t.task.ordered && t.spec.isNone then some (t.task, formOf c a) else none

/-- The words of the parts of a context's ordered tasks on a core refreshed. -/
def Core.refreshed (k : Core) (x : Nat) (t : Target) (n : Nat) (v : Word) : Core :=
  { k with spec := eachOf k.spec fun p => p.map fun q =>
      if q.task.ctx = x then { q with words := q.words.map fun w => w.refresh t n v } else q }

/-- What an ordered task of a core has written shows in the buffered words of its cove, saved parts included (log entry 76). -/
def State.refresh (s : State) (c x : Nat) (t : Target) (n : Nat) (v : Word) : State :=
  let near (d : Nat) (k : Core) : Core := if coveOf d = coveOf c then k.refreshed x t n v else k
  { s with
    cores := s.cores.map fun (d, k) => (d, near d k)
    ctxs := s.ctxs.map fun (y, k) =>
      (y, { k with savedCores := k.savedCores.map fun (d, q) => (d, { q with core := near d q.core }) }) }

/-- A store of n bytes at a target, performed for a thread of a core: what a non-speculative ordered task's leaves in its cove. -/
def State.announce (s : State) (c : Nat) (b : Option (Task × Word)) (t : Target) (n : Nat) : State :=
  match b with
  | some (task, va) => (s.broadcastLine c task va).refresh c task.ctx t n (s.wordAt t.word >>> (8 * t.byte))
  | none => s

end Sys2Proof.Machine
end

