-- ==== Sys2Proof/Machine/Access.lean ====
section
/-! DEFINITION. Loads, stores and atomics of threads, from the checks of R145 to where they are served: the executing core's
local store at once, the speculative buffer (R69), the store buffer (R146), or a request on its way. -/

namespace Sys2Proof.Machine

/-! ## The store buffer (R146) -/

/-- R13, R146: no entry is free. -/
def State.bufferBusy (s : State) (c : Nat) : Bool := decide (16 ≤ (s.storeBuffer c).length)

/-- How the store buffer answers a load: not concerned, a value from an entry, or a wait. -/
inductive Forward where
  | none
  | value (id : Nat) (v : Word)
  | wait
  deriving DecidableEq, Repr

/-- A buffered entry that is no plain store: an atomic, or a `tdec`, which acts as one. Neither is forwarded (R146). -/
def Kind.isAtomic (k : Kind) : Bool :=
  match k with
  | .store _ _ _ => false
  | _ => true

/-- What a buffered entry supplies to a load: its bytes, if it is a store that covers every byte. -/
def Packet.supplies (p : Packet) (t : Target) (n : Nat) : Forward :=
  match p.kind with
  | .store u m v =>
    match t.within n u m with
    | some k => .value p.id (v >>> (8 * k))
    | none => .wait
  | _ => .wait

/-- R146: the youngest overlapping entry supplies the load if it is a store that covers every byte; a load that overlaps a
buffered atomic waits. -/
def State.forward (s : State) (c : Nat) (t : Target) (n : Nat) : Forward :=
  let hits := s.overlapping c t n
  if hits.any fun p => p.kind.isAtomic then .wait
  else
    match hits.getLast? with
    | some p => p.supplies t n
    | none => .none

/-- A buffered store whose value the thread has loaded joins its fenced set (R90). -/
def Thread.noteLoaded (t : Thread) (net : List Packet) (id : Nat) : Thread :=
  { t with loaded := id :: t.loaded.filter fun j => net.any fun p => p.id = j }

/-- The words of commits under way in the cove that an ordered task's access to a range comes after: a commit is one step for
every ordered task of its cove (R70), and for the committing thread it comes first (R89). -/
def State.commitsBefore (s : State) (c : Nat) (t : Thread) (tgt : Target) (n : Nat) : List Nat :=
  if t.task.ordered then s.committing t.ctx (coveOf c) tgt n else []

/-- A store or an atomic without a result enters the store buffer of a core, behind the entries it overlaps (R146). -/
def State.enterBuffer (s : State) (c i : Nat) (t : Thread) (tgt : Target) (n : Nat) (va : Word) (kind : Kind) : State :=
  s.send { id := 0, ctx := t.ctx, core := c, slot := i, uid := t.uid, buffered := true
           after := (s.overlapping c tgt n).map (fun p => p.id) ++ s.commitsBefore c t tgt n
           broadcast := t.broadcasts c va, kind }

/-- What an access needs of its page (R327); an instruction on a TCB is translated as a load is (R54). -/
def Access.need (a : Access) : Need :=
  match a with
  | .fetch => { exec := true }
  | .load _ _ => {}
  | .store _ _ => { write := true }
  | .atomic _ => { write := true }
  | .migrA => {}
  | .spawn _ => {}
  | .dec => {}
  | .wait _ => {}
  | .group _ => { write := true }
  | .claim _ => { write := true }
  | .trigger _ => {}

/-- Where in its object, and in how many bytes, an access of a thread that has missed the TLB will write from a store-buffer entry
(R146, R150, R175). -/
def Access.entry (a : Access) (t : Thread) : Option (Nat × Nat) :=
  match a with
  | .store n _ => if t.spec.isSome then none else some (0, n)
  | .atomic a => if a.dest = .none then some (0, a.n) else none
  | .dec => some (48, 8)
  | _ => none

/-- The packet is the TLB miss of a store that will overlap a range once it has been filled; where its page faults, as the page's
entry now stands. -/
def State.missOver (s : State) (t : Target) (n : Nat) (p : Packet) : Bool :=
  match p.kind, s.holder? p.core p.slot p.uid with
  | .tlbMiss va acc, some u =>
    (match acc.entry u, (s.serve p.core p.ctx va acc.need).1 with
      | some (k, m), some pa => (Target.phys (pa + k)).overlaps m t n
      | _, _ => false)
  | _, _ => false

/-- A store of the core that has issued before, and still waits for its translation or its page, will overlap a range: stores of one
core to overlapping bytes are performed in issue order (R146). DESIGN CHOICE (log entry 96): a page that is absent overlaps nothing. -/
def State.missesOver (s : State) (c : Nat) (t : Target) (n : Nat) : Bool :=
  s.net.any fun p => p.core = c && s.missOver t n p

/-! ## Addresses -/

/-- Where a checked address leads. -/
inductive Reached where
  | target (t : Target)
  | miss
  | bad
  deriving DecidableEq, Repr

/-- The target of an address for an access of a thread on a core. -/
def State.reach (s : State) (x core : Nat) (a : Word) (need : Need) : Reached :=
  match s.window x core a with
  | .store c off => .target (.local c off)
  | .translated =>
    match s.tlb? core x a need with
    | some pa => .target (.phys pa)
    | none => .miss
  | .nothing => .bad

/-- R326: an access that peer memory does not serve. -/
def State.peerTarget (s : State) (t : Target) : Bool :=
  match t with
  | .phys pa => s.isPeer pa
  | .local _ _ => false

/-- The target is local store of the core itself. -/
def Target.isOwn (t : Target) (core : Nat) : Bool :=
  match t with
  | .local c _ => c == core
  | .phys _ => false

/-- The executing thread parks while its address is translated (R251); it then completes without reissuing. -/
def State.missing (s : State) (t : Thread) (a : Word) (acc : Access) : State :=
  (s.await t 12 (.translate acc a)).sendCur t (.tlbMiss a acc)

/-- An effect on the executing thread as it now stands in its slot. -/
def State.onCur (s : State) (f : Thread → State) : State :=
  match s.cur? with
  | some t => f t
  | none => s

/-! ## Loads -/

/-- The request of a load; it follows the entries named. -/
def State.requestLoad (s : State) (c i : Nat) (t : Thread) (tgt : Target) (n : Nat) (dest : Dest) (va : Word)
    (after : List Nat) : State :=
  let (cause, kind) : Nat × Kind :=
    match tgt with
    | .local d off => (3, .remoteLoad d off n va)
    | .phys pa => (2, .load pa n va)
  (s.setThread c i { t with park := .await cause (.data dest) }).send
    { id := 0, ctx := t.ctx, core := c, slot := i, uid := t.uid, after, kind }

/-- The value of a load delivered and its instruction retired. -/
def State.loaded (s : State) (c i : Nat) (dest : Dest) (v : Word) : State := (s.deliver c i dest v).retire c i

/-- A load of the executing core's own local store, with the thread's buffered bytes in place. -/
def State.loadOwn (s : State) (t : Thread) (off n : Nat) (dest : Dest) : State :=
  let tgt : Target := .local s.curCore off
  let ws := s.specWords s.curCore t
  if (specBytes ws tgt n).all Option.isSome then s.loaded s.curCore s.curSlot dest (overlay ws tgt n 0)
  else
    match s.checkLocal t.ctx s.curCore s.curCore off n with
    | (.ok, s') => s'.loaded s'.curCore s'.curSlot dest (overlay ws tgt n (s'.localLoad s'.curCore off n))
    | (_, s') => s'.contain s'.curCore

/-- A load once its target is known: from the thread's buffer, the executing core, the store buffer, or a request. -/
def State.loadAct (s : State) (t : Thread) (tgt : Target) (n : Nat) (dest : Dest) (va : Word) : Act :=
  let ws := s.specWords s.curCore t
  if !(s.commitsBefore s.curCore t tgt n).isEmpty then .notReady 14
  else if tgt.isOwn s.curCore then
    match tgt with
    | .local _ off => .go fun s' => (s'.noteRead s'.curCore t va).loadOwn t off n dest
    | .phys _ => .notReady 2
  else if (specBytes ws tgt n).all Option.isSome then
    .go fun s' => (s'.noteRead s'.curCore t va).loaded s'.curCore s'.curSlot dest (overlay ws tgt n 0)
  else
    match s.forward s.curCore tgt n with
    | .wait => .notReady 14
    | .value id v => .go fun s' =>
        let s' := (s'.noteRead s'.curCore t va).onThread s'.curCore s'.curSlot fun u => u.noteLoaded s'.net id
        s'.loaded s'.curCore s'.curSlot dest (overlay ws tgt n v)
    | .none => .go fun s' =>
        let s' := s'.noteRead s'.curCore t va
        s'.onCur fun u => s'.requestLoad s'.curCore s'.curSlot u tgt n dest va []

/-- A load of n bytes at an address (R145). -/
def State.load (s : State) (t : Thread) (a : Word) (n : Nat) (dest : Dest) : Act :=
  match s.accessTrap t.ctx s.curCore a n false with
  | some (cause, utval) => .trap cause utval
  | none =>
    match s.reach t.ctx s.curCore a {} with
    | .target tgt => s.loadAct t tgt n dest a
    | .miss => .go fun s' =>
        let s' := s'.noteRead s'.curCore t a
        s'.onCur fun u => s'.missing u a (.load n dest)
    | .bad => .trap 4 a

/-- The bytes that a load of a parked thread has read, with its buffered bytes in place. -/
def State.overlaid (s : State) (c i uid : Nat) (t : Target) (n : Nat) (v : Word) : Word :=
  match s.holder? c i uid with
  | some u => overlay (s.specWords c u) t n v
  | none => v

/-! ## Stores -/

/-- A store performed at issue in the executing core's local store. -/
def State.storeOwn (s : State) (t : Thread) (off n : Nat) (v va : Word) : State :=
  ((s.noting t.uid s.tick (.local s.curCore off) fun s => s.storeLocal t.ctx s.curCore off n v).announce s.curCore
    (t.broadcasts s.curCore va) (.local s.curCore off) n).done

/-- A store once its target is known. -/
def State.storeAct (s : State) (t : Thread) (tgt : Target) (n : Nat) (v va : Word) : Act :=
  if t.spec.isSome then
    (if bufferFull (s.specWords s.curCore t) (formOf s.curCore va) then .notReady 8
     else .go fun s' => (s'.bufferStore s'.curCore t tgt n v va).done)
  else if !(s.commitsBefore s.curCore t tgt n).isEmpty then .notReady 14
  else if tgt.isOwn s.curCore then
    match tgt with
    | .local _ off => .go fun s' => s'.storeOwn t off n v va
    | .phys _ => .notReady 14
  else if s.bufferBusy s.curCore || s.missesOver s.curCore tgt n then .notReady 14
  else .go fun s' => (s'.enterBuffer s'.curCore s'.curSlot t tgt n va (.store tgt n v)).done

/-- A store of n bytes at an address (R145). -/
def State.store (s : State) (t : Thread) (a : Word) (n : Nat) (v : Word) : Act :=
  match s.accessTrap t.ctx s.curCore a n true with
  | some (cause, utval) => .trap cause utval
  | none =>
    match s.reach t.ctx s.curCore a { write := true } with
    | .target tgt => s.storeAct t tgt n v a
    | .miss =>
      if t.spec.isSome ∧ bufferFull (s.specWords s.curCore t) a then .notReady 8
      else if t.spec.isNone ∧ s.bufferBusy s.curCore then .notReady 14
      else .go fun s' => s'.onCur fun u => s'.missing u a (.store n v)
    | .bad => .trap 4 a

/-! ## Atomics (R149-R151) -/

/-- What an atomic writes over an old value; `none` for a failed `cas`. -/
def Atomic.result (a : Atomic) (old : Word) : Option Word :=
  let lo (x : Word) : Word := zext x a.n
  let lt (x y : Word) : Bool := (sext x a.n).slt (sext y a.n)
  let o := lo old
  let b := lo a.b
  match a.op with
  | .swap => some b
  | .add => some (lo (o + b))
  | .and => some (o &&& b)
  | .or => some (o ||| b)
  | .xor => some (o ^^^ b)
  | .min => some (if lt b o then b else o)
  | .max => some (if lt o b then b else o)
  | .minu => some (if b.ult o then b else o)
  | .maxu => some (if o.ult b then b else o)
  | .fadd =>
    let x := addExact 0 (fp32Val (o.extractLsb' 0 32)) (fp32Val (b.extractLsb' 0 32))
    some (BitVec.ofNat 64 (fp32.finish .rne x).1)
  | .cas => if o = lo a.e then some b else none

/-- What an atomic writes, noted as a thread's store if it counts as one (R150). -/
def State.notingAtomic (s : State) (uid step : Nat) (t : Target) (a : Atomic) (f : State → State) : State :=
  if a.dest = .none then s.noting uid step t f else f s

/-- The write of an atomic in local store of a core, from the old value read there. -/
def State.updateLocal (s : State) (c off : Nat) (a : Atomic) (old : Word) : State :=
  match a.result old with
  | some new => (s.setCore c ((s.core c).store off a.n new)).amend (.local c off) (leBytes a.n new.toNat)
  | none => s

/-- An atomic of the executing core's own local store, in its issue cycle. DESIGN CHOICE (log entry 28): its line is broadcast where it
writes, not for a failed `cas`. A check that takes the last of the budget withdraws
nothing here: the atomic is its thread's current instruction (R249). -/
def State.atomicOwn (s : State) (t : Thread) (off : Nat) (a : Atomic) (va : Word) : State :=
  match s.checkLocal t.ctx s.curCore s.curCore off a.n 3 with
  | (.ok, s') =>
    let old := s'.localLoad s'.curCore off a.n
    let s' := s'.notingAtomic t.uid s'.tick (.local s'.curCore off) a fun s => s.updateLocal s.curCore off a old
    let s' := if (a.result old).isSome then s'.announce s'.curCore (t.broadcasts s'.curCore va) (.local s'.curCore off) a.n else s'
    s'.loaded s'.curCore s'.curSlot a.dest old
  | (_, s') => s'.contain s'.curCore

/-- An atomic on its way to its home: with a result it parks its thread (STALL3), without one it takes a store-buffer
entry (R150). -/
def State.sendAtomic (s : State) (c i : Nat) (t : Thread) (tgt : Target) (a : Atomic) (va : Word) (after : List Nat) : State :=
  if a.dest = .none then (s.enterBuffer c i t tgt a.n va (.atomic tgt a va)).retire c i
  else
    (s.setThread c i { t with park := .await 3 (.data a.dest) }).send
      { id := 0, ctx := t.ctx, core := c, slot := i, uid := t.uid, after, broadcast := t.broadcasts c va,
        kind := .atomic tgt a va }

/-- An atomic at an address (R149). -/
def State.atomic (s : State) (t : Thread) (va : Word) (a : Atomic) : Act :=
  match s.accessTrap t.ctx s.curCore va a.n true with
  | some (cause, utval) => .trap cause utval
  | none =>
    match s.reach t.ctx s.curCore va { write := true } with
    | .bad => .trap 4 va
    | .miss =>
      if a.dest = .none ∧ s.bufferBusy s.curCore then .notReady 14
      else .go fun s' => s'.onCur fun u => s'.missing u va (.atomic a)
    | .target tgt =>
      if s.peerTarget tgt then .trap 4 va
      else if tgt.isOwn s.curCore then
        match tgt with
        | .local _ off => .go fun s' => s'.atomicOwn t off a va
        | .phys _ => .notReady 14
      else if !(s.overlapping s.curCore tgt a.n).isEmpty || s.missesOver s.curCore tgt a.n then .notReady 14
      else if a.dest = .none ∧ s.bufferBusy s.curCore then .notReady 14
      else .go fun s' => s'.onCur fun u => s'.sendAtomic s'.curCore s'.curSlot u tgt a va []

/-! ## Fences (R90) -/

/-- A fence of a thread: not ready until its condition holds. -/
def State.fenceAct (s : State) (t : Thread) (scope : Nat) : Act :=
  let ok :=
    match scope with
    | 0 => true
    | 3 => s.clearSystem (s.fenced t)
    | _ => s.clear (s.fenced t)
  if ok then .go fun s' => s'.done else .notReady 14

end Sys2Proof.Machine
end

