-- ==== Sys2Proof/Machine/KeyMap.lean ====
section
/-! DEFINITION. The key map (R31-R37) and its instructions (R168, R169). -/

namespace Sys2Proof.Machine

/-! ## The configuration (R31) -/

def kmapEn (w : Word) : Bool := w.getLsbD 31
def kmapEntries (w : Word) : Nat := bits w 16 7
def kmapLog (w : Word) : Nat := bits w 12 4
def kmapBase (w : Word) : Nat := bits w 0 9 * 256

/-! ## Operations on entries -/

/-- What a map instruction does: its result word, the map after it, and the waiters it wakes. -/
structure MapStep where
  word : Word
  core : Core
  slot : Option Nat := none
  unpin : Bool := false
  deriving DecidableEq, Repr

def Core.setEntry (k : Core) (i : Nat) (e : KEntry) : Core := { k with kmap := k.kmap.setIfInBounds i e }

/-- The pin count as a result shows it (R34). -/
def KEntry.shownPin (e : KEntry) : Nat := if e.state = .bound then e.pin else 0

/-- R36: every other BOUND entry ages; the entry's age becomes 0. -/
def Core.touch (k : Core) (i : Nat) : Core :=
  let aged := eachOf k.kmap fun e => if e.state = .bound then { e with age := min (e.age + 1) 255 } else e
  ({ k with kmap := aged } : Core).setEntry i { k.entry i with age := 0 }

/-- The entry of the first n that holds a key. -/
def Core.keyAt (k : Core) (n : Nat) (key : Word) : Option Nat :=
  (upFrom 0 n).find? fun i => (k.entry i).state != .free && (k.entry i).key == key

/-- A result that changes nothing. -/
def Core.answer (k : Core) (status slot pin : Nat) : MapStep := { word := mapWord status slot pin, core := k }

/-- `klook` of a key; `pin`: the entry is pinned as well (`klook.p`). -/
def Core.look (k : Core) (n : Nat) (key : Word) (pin : Bool) : MapStep :=
  if key = 0 then k.answer 13 0 0
  else
    match k.keyAt n key with
    | none => k.answer 1 0 0
    | some i =>
      let e := k.entry i
      if e.state = .pending then k.answer 3 i 0
      else if pin ∧ e.pin = 63 then (k.touch i).answer 8 i 63
      else
        let k := k.touch i
        let e := k.entry i
        let e := if pin then { e with pin := e.pin + 1 } else e
        (k.setEntry i e).answer 0 i e.pin

/-- `klook.c`: an absent key claims a FREE slot for a TID. -/
def Core.claim (k : Core) (n : Nat) (key slot : Word) (tid : Nat) : MapStep :=
  if n ≤ slot.toNat then k.answer 12 0 0
  else if key = 0 then k.answer 13 0 0
  else
    match k.keyAt n key with
    | some _ => k.look n key false
    | none =>
      let i := slot.toNat
      let e := k.entry i
      if e.state = .free then
        (k.setEntry i { e with key, state := .pending, owner := tid, pin := 0 }).answer 2 i 0
      else k.answer 5 i e.shownPin

/-- An operation on a slot, after the slot check. -/
def Core.onEntry (k : Core) (n : Nat) (slot : Word) (f : Nat → KEntry → MapStep) : MapStep :=
  if n ≤ slot.toNat then k.answer 12 0 0 else f slot.toNat (k.entry slot.toNat)

def KEntry.ownedBy (e : KEntry) (tid : Nat) : Bool := e.state = .pending && e.owner = tid

def Core.bind (k : Core) (n : Nat) (slot : Word) (tid : Nat) : MapStep :=
  k.onEntry n slot fun i e =>
    if e.ownedBy tid then
      let k := k.setEntry i { e with state := .bound, pin := 0 }
      { (k.touch i).answer 4 i 0 with slot := some i }
    else k.answer 6 i e.shownPin

def Core.abandon (k : Core) (n : Nat) (slot : Word) (tid : Nat) : MapStep :=
  k.onEntry n slot fun i e =>
    if e.ownedBy tid then { (k.setEntry i e.freed).answer 4 i 0 with slot := some i } else k.answer 6 i e.shownPin

def Core.pinSlot (k : Core) (n : Nat) (slot : Word) : MapStep :=
  k.onEntry n slot fun i e =>
    if e.state ≠ .bound then k.answer 9 i 0
    else if e.pin < 63 then (k.setEntry i { e with pin := e.pin + 1 }).answer 4 i (e.pin + 1)
    else k.answer 8 i 63

def Core.unpinSlot (k : Core) (n : Nat) (slot : Word) : MapStep :=
  k.onEntry n slot fun i e =>
    if e.state ≠ .bound then k.answer 9 i 0
    else if 0 < e.pin then { (k.setEntry i { e with pin := e.pin - 1 }).answer 4 i (e.pin - 1) with unpin := true }
    else k.answer 10 i 0

def Core.unbindSlot (k : Core) (n : Nat) (slot : Word) : MapStep :=
  k.onEntry n slot fun i e =>
    if e.state ≠ .bound then k.answer 9 i 0
    else if e.pin = 0 then { (k.setEntry i e.freed).answer 4 i 0 with unpin := true }
    else k.answer 7 i e.pin

/-- The BOUND entry of the first n with pin 0 and the greatest age, the lowest index among equals. -/
def Core.oldestEntry (k : Core) (n : Nat) : Option Nat :=
  ((upFrom 0 n).filter fun i => (k.entry i).state == .bound && (k.entry i).pin == 0).foldl (fun best i =>
    match best with
    | none => some i
    | some j => if (k.entry j).age < (k.entry i).age then some i else some j) none

def Core.victim (k : Core) (n : Nat) : MapStep :=
  match (upFrom 0 n).find? fun i => (k.entry i).state = .free with
  | some i => k.answer 4 i 0
  | none =>
    match k.oldestEntry n with
    | some i => k.answer 0 i 0
    | none => k.answer 11 0 0

/-! ## The instructions -/

/-- The checks that a map instruction makes before its operands, and then its act (R169). -/
def mapIssue (s : State) (t : Thread) (reads : List Reg) (rd : Reg) (body : Act) : State :=
  let cfg := s.here.kmapcfg
  if kmapEn cfg then s.issue t reads rd true body
  else if (s.portWait reads rd).isNone then s.issue t [] 0 true (.trap 2 cfg)
  else s.issue t reads rd true body

/-- A map step of the executing thread: its result written, then the waiters it releases woken (R37). -/
def State.applyMap (s : State) (rd : Reg) (m : MapStep) : State :=
  let s := (s.setHere m.core).finish rd m.word
  let s := match m.slot with
    | some i => s.wakeSlot s.curCore i
    | none => s
  if m.unpin then s.wakeUnpin s.curCore else s

/-- A map instruction that acts at issue; the step is given the map as it stands then and its entry count. -/
def mapOp (s : State) (reads : List Reg) (rd : Reg) (f : Thread → Core → Nat → MapStep) : Result :=
  run s fun t => mapIssue s t reads rd (.go fun s' => s'.applyMap rd (f t s'.here (kmapEntries s'.here.kmapcfg)))

def execKlook (rd rs1 : Reg) (s : State) : Result := mapOp s [rs1] rd fun t k n => k.look n (s.readg t [] rs1) false
def execKlookP (rd rs1 : Reg) (s : State) : Result := mapOp s [rs1] rd fun t k n => k.look n (s.readg t [] rs1) true
def execKlookC (rd rs1 rs2 : Reg) (s : State) : Result :=
  mapOp s [rs1, rs2] rd fun t k n => k.claim n (s.readg t [] rs1) (s.readg t [rs1] rs2) s.curTid
def execKbind (rd rs2 : Reg) (s : State) : Result := mapOp s [rs2] rd fun t k n => k.bind n (s.readg t [] rs2) s.curTid
def execKabandon (rd rs2 : Reg) (s : State) : Result :=
  mapOp s [rs2] rd fun t k n => k.abandon n (s.readg t [] rs2) s.curTid
def execKpin (rd rs2 : Reg) (s : State) : Result := mapOp s [rs2] rd fun t k n => k.pinSlot n (s.readg t [] rs2)
def execKunpin (rd rs2 : Reg) (s : State) : Result := mapOp s [rs2] rd fun t k n => k.unpinSlot n (s.readg t [] rs2)
def execKunbind (rd rs2 : Reg) (s : State) : Result := mapOp s [rs2] rd fun t k n => k.unbindSlot n (s.readg t [] rs2)
def execKvict (rd : Reg) (s : State) : Result := mapOp s [] rd fun _ k n => k.victim n

/-- `kwait`: parks while the slot is PENDING. -/
def execKwait (rd rs2 : Reg) (s : State) : Result :=
  run s fun t =>
    let slot := s.readg t [] rs2
    mapIssue s t [rs2] rd (.go fun s' =>
      let k := s'.here
      if kmapEntries k.kmapcfg ≤ slot.toNat then s'.finish rd (mapWord 12 0 0)
      else
        let e := k.entry slot.toNat
        if e.state = .pending then s'.onCur fun u => s'.await u 6 (.kwait rd slot.toNat)
        else s'.finish rd (e.waitWord slot.toNat))

/-- `kwait.u`: always parks. -/
def execKwaitU (rd : Reg) (s : State) : Result :=
  run s fun t => mapIssue s t [] rd (.go fun s' => s'.onCur fun u => s'.await u 6 (.kwaitU rd))

end Sys2Proof.Machine
end

