-- ==== Sys2Proof/Machine/Units.lean ====
section
/-! DEFINITION. The commands of a thread in the vector and the matrix unit: which cores they run on (R46, R200, R226), how
many are not complete (R196, R224), and the addresses of operands that name a task, a group or a nest. -/

namespace Sys2Proof.Machine

/-! ## What engines read (R88, R91) -/

/-- When a command of a thread issues. -/
def State.issueOf (s : State) (t : Thread) : Issued := { step := s.tick, fence := t.leFence }

/-- A word as an engine command reads it that does not see the last k stores of its thread: only stores issued before the command
and after the thread's last `fence.le`, and of each the word that it overwrote, newest first. -/
def backWord (uid : Nat) (q : Issued) (t : Target) : List OldWord → Nat → Word → Word
  | [], _, v => v
  | _, 0, v => v
  | e :: rest, k + 1, v =>
    if e.uid ≠ uid ∨ e.target ≠ t then backWord uid q t rest (k + 1) v
    else if e.new = v ∧ q.fence ≤ e.step ∧ e.step < q.step then backWord uid q t rest k e.old
    else v

/-- The words of a range that an event's operand names, two bytes for each number. -/
def wordNumbers : List Byte → List Nat
  | lo :: hi :: rest => (lo.toNat + 256 * hi.toNat) :: wordNumbers rest
  | _ => []

/-- n bytes at a target. -/
def State.bytesAt (s : State) (t : Target) (n : Nat) : List Byte :=
  match t with
  | .local d off => (s.core d).mem.bytes off n
  | .phys pa => if (s.notify? pa).isSome then leBytes n (s.physWord pa n).toNat else s.phys.bytes pa n

/-- The target lies in a notify page. -/
def State.isNotify (s : State) (t : Target) : Bool :=
  match t with
  | .local _ _ => false
  | .phys pa => (s.notify? pa).isSome

/-- n bytes at a target as an engine command of a thread reads them; `back` says how many of the thread's stores each word is read
from before. -/
def State.bytesBack (s : State) (uid : Nat) (q : Issued) (t : Target) (n : Nat) (back : Nat → Nat) : List Byte :=
  let word (i : Nat) : List Byte :=
    let u := t.word.plus (8 * i)
    leBytes 8 (backWord uid q u s.olds (back i) (s.wordAt u)).toNat
  (((upFrom 0 ((t.byte + n + 7) / 8)).flatMap word).drop t.byte).take n

/-- n bytes at a target as an engine command of a thread reads them: as performed, but for the words that the event's operand
names, each read from before as many of the thread's stores as it is named times (log entry 14). -/
def State.engineBytes (s : State) (uid : Nat) (q : Issued) (t : Target) (n : Nat) : List Byte :=
  if s.ev.bytes.isEmpty || s.isNotify t then s.bytesAt t n
  else s.bytesBack uid q t n fun i => (wordNumbers s.ev.bytes).count i

/-! ## Commands of a thread -/

/-- The cores on which a thread's commands run: its own, and while it leads a gang every member's. -/
def memberCores (c : Nat) (t : Thread) : List Nat :=
  match t.gang with
  | some n => gangCores c n
  | none => [c]

/-- The reset of a slot's moduli is no command of a thread (R205). -/
def VOp.isReset (o : VOp) : Bool :=
  match o with
  | .qreset => true
  | _ => false

/-- A thread's vector commands queued or in execution on a core. -/
def Core.vectorOf (k : Core) (uid : Nat) : List VCmd :=
  (k.vqueue ++ k.vflight.map fun f => f.cmd).filter fun c => c.uid = uid && !c.op.isReset

/-- A thread's matrix commands queued or in execution on a core. -/
def Core.matrixOf (k : Core) (uid : Nat) : List MCmd :=
  (k.mx.hiQueue ++ k.mx.loQueue ++ (k.mx.run.map fun r => r.cmd).toList).filter fun c => c.uid = uid && c.remote.isNone

/-- The cores of an octet: a thread's commands run nowhere else, those of a gang that has broken included (R263). -/
def octetOf (c : Nat) : List Nat := upFrom (c / 8 * 8) 8

/-- Some vector command of the thread is not complete, on any core it runs on. -/
def State.vectorBusy (s : State) (c : Nat) (t : Thread) : Bool :=
  (octetOf c).any fun d => !((s.core d).vectorOf t.uid).isEmpty

def State.matrixBusy (s : State) (c : Nat) (t : Thread) : Bool :=
  (octetOf c).any fun d => !((s.core d).matrixOf t.uid).isEmpty

/-- Some gang command of a thread is not complete on a core. -/
def Core.gangWork (k : Core) (uid : Nat) : Bool :=
  ((k.vectorOf uid).any fun q => q.gang.isSome) || (k.matrixOf uid).any fun q => q.gang.isSome

/-- The gang led by a thread has commands that some member has not completed (R47, R173). -/
def State.gangBusy (s : State) (c : Nat) (t : Thread) : Bool := (octetOf c).any fun d => (s.core d).gangWork t.uid

/-- Room for one more command in the queues of every core that it runs on (8 entries each). -/
def State.vectorRoom (s : State) (c : Nat) (t : Thread) : Bool :=
  (memberCores c t).all fun d => decide (((s.core d).vqueue.filter fun q => !q.op.isReset).length < 8)

/-! ## Operands that name an object -/

/-- R54, R164: the checks of a TCB address; any address of a core window is none, whatever its offset. -/
def State.tcbTrap (s : State) (x core : Nat) (a : Word) : Option (Nat × Word) :=
  if a.toNat % 64 ≠ 0 then some (3, a)
  else if inCoreWindow a then some (14, a)
  else
    match s.window x core a with
    | .translated => none
    | .store _ _ => some (14, a)
    | .nothing => some (4, a)

/-- The checks of an object of a size that is executed at its home like an 8-byte atomic (R67, R171). -/
def State.objectTrap (s : State) (x core : Nat) (a : Word) (size : Nat) : Option (Nat × Word) :=
  if a.toNat % size ≠ 0 then some (3, a) else s.accessTrap x core a 8 true

/-- Why a range of bytes is no range of one window, or one that the context may not touch (R184). DESIGN CHOICE (log entry 34): the base of a
range of no bytes must still lie in a window that the context may touch. -/
def State.rangeTrap (s : State) (x core : Nat) (a : Word) (len : Nat) : Option (Nat × Word) :=
  let last := a + BitVec.ofNat 64 (len - 1)
  match s.window x core a with
  | .nothing => some (4, a)
  | .translated => if s.window x core last = .translated ∧ a.toNat ≤ last.toNat then none else some (4, a)
  | .store c off =>
    if localSize < off + len then some (4, a)
    else if c ≠ core ∧ !s.reachable x c then some (5, a)
    else if 0 < len ∧ s.specOff x off len then some (4, a) else none

/-- The local store and offset that an address names. -/
def State.localAt (s : State) (x core : Nat) (a : Word) : Option (Nat × Nat) :=
  match s.window x core a with
  | .store c off => some (c, off)
  | _ => none

end Sys2Proof.Machine
end

