-- ==== Sys2Proof/Machine/Csr.lean ====
section
/-! DEFINITION. CSR access (R153, R154): what each CSR of R18, R86, R108, R221 and R253 reads as, which writes its own rule
refuses (R29, R31, R243), and what an accepted write does. -/

namespace Sys2Proof.Machine

/-! ## Reading -/

/-- The control bits of a ring as its CSR shows them (R27, R28). -/
def Ring.word (r : Ring) : Nat := boolNat r.en * 2 ^ 63 + r.base.toNat * 2 ^ 10 + r.lg.toNat * 2 ^ 6

def SlotQueues.rxWord (q : SlotQueues) : Word := BitVec.ofNat 64 (q.rx.word + q.rx.count * 2 ^ 32)

def SlotQueues.upWord (q : SlotQueues) : Word :=
  BitVec.ofNat 64 (q.up.word + q.upTid.toNat * 2 ^ 42 + q.dnTid.toNat * 2 ^ 22)

/-- Each number once. -/
def distinct : List Nat → List Nat
  | [] => []
  | a :: rest => if rest.contains a then distinct rest else a :: distinct rest

/-- The commands of a thread that some core has not completed; a gang's command counts once (R196). -/
def State.vectorCount (s : State) (c : Nat) (t : Thread) : Nat :=
  (distinct ((octetOf c).flatMap fun d => ((s.core d).vectorOf t.uid).map VCmd.serial)).length

/-- The thread's commands of one matrix queue that a core has not completed. -/
def Core.matrixCount (k : Core) (uid : Nat) (high : Bool) : Nat := ((k.matrixOf uid).filter fun q => q.high = high).length

/-- R224; each queue runs in order on every member, so the slowest member counts. -/
def State.matrixCount (s : State) (c : Nat) (t : Thread) : Nat :=
  let slowest (high : Bool) : Nat := (octetOf c).foldl (fun n d => max n ((s.core d).matrixCount t.uid high)) 0
  slowest true + slowest false

/-- R196. -/
def State.vbusy (s : State) (c : Nat) (t : Thread) : Word :=
  let n := s.vectorCount c t
  BitVec.ofNat 64 (t.vdcode.toNat * 2 ^ 8 + min n 15 * 2 ^ 4 + boolNat t.gpend * 4 + boolNat t.vdpend * 2 + boolNat (n != 0))

/-- R224. -/
def State.mbusy (s : State) (c : Nat) (t : Thread) : Word :=
  let n := s.matrixCount c t
  BitVec.ofNat 64 (t.mdcode.toNat * 2 ^ 8 + min n 15 * 2 ^ 4 + boolNat t.mdpend * 2 + boolNat (n != 0))

/-- A modulus or a constant of the executing thread's slot; in a gang, member 0 is the leader's core (R205). -/
def State.modulus (s : State) (l : Nat) : Word := ((s.slot s.curCore s.curSlot).mod.q[l]?).getD 0
def State.constant (s : State) (l : Nat) : Word := ((s.slot s.curCore s.curSlot).mod.mu[l]?).getD 0

/-- `csr_read` for the executing thread; EBUD is read by a request instead (R86). -/
def State.csrRead (s : State) (t : Thread) (n : Nat) : Word :=
  match n with
  | 0x001 => BitVec.ofNat 64 (bits t.fstat 0 5)
  | 0x002 => BitVec.ofNat 64 (bits t.fstat 5 3)
  | 0x003 => t.fstat
  | 0x800 => t.srseed
  | 0x805 => t.utvec
  | 0x810 => s.queues.rxWord
  | 0x811 => s.queues.upWord
  | 0x818 => t.itcur
  | 0x819 => t.itend
  | 0x820 => t.gbase
  | 0x821 => t.gblk
  | 0x822 => t.gbound
  | 0x828 => t.tkn
  | 0x829 => t.cmbcfg
  | 0x830 => s.modulus 0
  | 0x831 => s.modulus 1
  | 0x832 => s.modulus 2
  | 0x833 => s.modulus 3
  | 0x834 => s.constant 0
  | 0x835 => s.constant 1
  | 0x836 => s.constant 2
  | 0x837 => s.constant 3
  | 0x838 => t.mpri
  | 0x841 => t.uepc
  | 0x842 => t.ucause
  | 0x843 => t.utval
  | 0x8C0 => s.here.kmapcfg
  | 0xCC0 => BitVec.ofNat 64 s.curTid
  | 0xCC1 => s.here.mcap.zeroExtend 64
  | 0xCC2 => s.vbusy s.curCore t
  | 0xCC4 => s.here.mnakFaulted ++ s.here.mnakRefused
  | 0xCC5 => s.mbusy s.curCore t
  | 0xCC6 => BitVec.ofNat 64 (boolNat t.preq)
  | n => if 0xC80 ≤ n ∧ n ≤ 0xC8F then ((s.here.stall[n - 0xC80]?).getD 0).zeroExtend 64 else 0

/-! ## Refused writes -/

/-- A range of local store that software may configure: wholly within the program area, and not meeting an enabled
speculative buffer (R29, R68, R243). -/
def State.programRange (s : State) (x first len : Nat) : Bool :=
  decide (0x4800 ≤ first) && decide (first + len ≤ localSize) && !(s.orderedOn x && decide (0x17000 < first + len))

/-- R29. -/
def State.ringTrap (s : State) (x : Nat) (v : Word) : Bool :=
  let base := bits v 10 12 * 32
  let d := bits v 6 4
  v.getLsbD 63 &&
    (decide (d < 2) || decide (10 < d) || decide (base % 2 ^ (d + 3) ≠ 0) || !s.programRange x base (2 ^ (d + 3)))

/-- The conditions of R31 and R68 on a configuration, apart from the entries' states. -/
def goodKmap (ordered : Bool) (v : Word) : Bool :=
  let n := kmapEntries v
  let lg := kmapLog v
  let last := kmapBase v + n * 2 ^ lg
  !kmapEn v || (decide (1 ≤ n) && decide (n ≤ 64) && decide (8 ≤ lg) && decide (lg ≤ 14) && decide (0x4800 ≤ kmapBase v) &&
    decide (last ≤ localSize) && !(ordered && decide (0x17000 < last)))

/-- R31: every entry FREE, and with en = 1 the conditions. -/
def State.kmapTrap (s : State) (x : Nat) (v : Word) : Bool :=
  s.here.kmap.toList.any (fun e => e.state != .free) || !goodKmap (s.orderedOn x) v

/-- R243: the region and the output of a combine configuration. -/
def State.combineTrap (s : State) (x : Nat) (v : Word) : Bool :=
  let row := 32 * (bits v 48 5 + 1)
  let nt := bits v 42 6 + 1
  let region := nt * (bits v 53 3 + 1) * row
  let out := nt * row
  let rbase := bits v 18 12 * 32
  let obase := bits v 30 12 * 32
  v.getLsbD 63 &&
    (!s.programRange x rbase region || !s.programRange x obase out ||
      (decide (rbase < obase + out) && decide (obase < rbase + region)))

/-- The write of a CSR that its own rule refuses. -/
def State.csrRefuses (s : State) (x n : Nat) (v : Word) : Bool :=
  if n = 0x810 ∨ n = 0x811 then s.ringTrap x v
  else if n = 0x8C0 then s.kmapTrap x v
  else if n = 0x829 then s.combineTrap x v else false

/-! ## Writing -/

/-- The ring that a control word describes: empty (R29). -/
def ringOf (v : Word) : Ring := { en := v.getLsbD 63, base := v.extractLsb' 10 12, lg := v.extractLsb' 6 4 }

/-- QCWRX written: the queue is empty, and messages that wait are looked at again (R24, R27). -/
def State.writeRx (s : State) (v : Word) : State :=
  let z := s.slot s.curCore s.curSlot
  (s.setSlot s.curCore s.curSlot { z with q := { z.q with rx := ringOf v, msgs := [] } }).settleMessages s.curCore s.curSlot

/-- The held credit request answered (R25). -/
def State.answerHeld (s : State) (c i : Nat) : State :=
  let z := s.slot c i
  match z.q.request with
  | none => s
  | some from_ =>
    let s := s.setSlot c i { z with q := { z.q with request := none } }
    let kind : Kind :=
      if z.q.upTid.toNat = from_ then .creditGrant from_ (z.q.up.size - z.q.up.count) else .creditRefusal from_ (tidOf c i)
    s.send { id := 0, ctx := s.ownerOf c, core := c, slot := i, uid := 0, kind }

/-- QCWUP written: the chain is no longer marked refused; with en = 1 the credits become 0, a request goes downstream, and
a held request is answered (R25, R28). -/
def State.writeUp (s : State) (t : Thread) (v : Word) : State :=
  let z := s.slot s.curCore s.curSlot
  let q := { z.q with up := ringOf v, upTid := v.extractLsb' 42 20, dnTid := v.extractLsb' 22 20, refused := false }
  if v.getLsbD 63 then
    let s := s.setSlot s.curCore s.curSlot { z with q := { q with credits := 0 } }
    (s.sendCur t (.creditRequest (bits v 22 20) s.curTid)).answerHeld s.curCore s.curSlot
  else s.setSlot s.curCore s.curSlot { z with q }

/-- KMAPCFG written: every entry FREE with age 0 (R31). -/
def State.writeKmap (s : State) (v : Word) : State :=
  s.setHere { s.here with kmapcfg := v &&& 0x807FF1FF, kmap := Vector.replicate 64 {} }

/-- CMBCFG written (R243): clr clears the core's fill bits, a 1 in overrun clears it. -/
def State.writeCombine (s : State) (v : Word) : State :=
  let s := if v.getLsbD 62 then s.setHere { s.here with mx := { s.here.mx with fills := [] } } else s
  s.onThread s.curCore s.curSlot fun t =>
    { t with cmbcfg := (v &&& 0x9FFFFFFFFFFC0000) ||| (t.cmbcfg &&& ~~~v &&& 0x2000000000000000) }

/-- A modulus or constant of the thread's slot written, on every member of a gang (R205). -/
def State.writeModuli (s : State) (t : Thread) (f : Moduli → Moduli) : State :=
  (memberCores s.curCore t).foldl (fun s d =>
    let z := s.slot d s.curSlot
    s.setSlot d s.curSlot { z with mod := f z.mod }) s

/-- `csr_write` for the executing thread: RO and RSV bits keep their values. -/
def State.csrWrite (s : State) (t : Thread) (n : Nat) (v : Word) : State :=
  let set (f : Thread → Thread) : State := s.onThread s.curCore s.curSlot f
  match n with
  | 0x001 => set fun u => { u with fstat := masked 0x1F u.fstat v }
  | 0x002 => set fun u => { u with fstat := masked 0xE0 u.fstat (v <<< 5) }
  | 0x003 => set fun u => { u with fstat := v &&& 0x1FF }
  | 0x800 => set fun u => { u with srseed := if v = 0 then 1 else v }
  | 0x805 => set fun u => { u with utvec := v &&& ~~~2 }
  | 0x810 => s.writeRx v
  | 0x811 => s.writeUp t v
  | 0x818 => set fun u => { u with itcur := v }
  | 0x819 => set fun u => { u with itend := v }
  | 0x820 => set fun u => { u with gbase := v }
  | 0x821 => set fun u => { u with gblk := v &&& 0x3F00001FFF }
  | 0x822 => set fun u => { u with gbound := v }
  | 0x828 => set fun u => { u with tkn := v &&& 0x1FF }
  | 0x829 => s.writeCombine v
  | 0x830 => s.writeModuli t fun m => { m with q := m.q.setIfInBounds 0 v }
  | 0x831 => s.writeModuli t fun m => { m with q := m.q.setIfInBounds 1 v }
  | 0x832 => s.writeModuli t fun m => { m with q := m.q.setIfInBounds 2 v }
  | 0x833 => s.writeModuli t fun m => { m with q := m.q.setIfInBounds 3 v }
  | 0x834 => s.writeModuli t fun m => { m with mu := m.mu.setIfInBounds 0 v }
  | 0x835 => s.writeModuli t fun m => { m with mu := m.mu.setIfInBounds 1 v }
  | 0x836 => s.writeModuli t fun m => { m with mu := m.mu.setIfInBounds 2 v }
  | 0x837 => s.writeModuli t fun m => { m with mu := m.mu.setIfInBounds 3 v }
  | 0x838 => set fun u => { u with mpri := v &&& 1 }
  | 0x841 => set fun u => { u with uepc := v }
  | 0x842 => set fun u => { u with ucause := v &&& 0xE000FFFF }
  | 0x843 => set fun u => { u with utval := v }
  | 0x8C0 => s.writeKmap v
  | 0xCC4 => s.setHere { s.here with mnakFaulted := v.extractLsb' 32 32, mnakRefused := v.extractLsb' 0 32 }
  | _ => s

/-! ## The instructions -/

/-- What a CSR instruction does: RW, RS or RC, whether it reads and whether it writes. -/
structure CsrOp where
  csr : Nat
  rd : Reg
  reads : Bool
  writes : Bool
  f : Word → Word → Word

/-- The new value from the old one and the operand. -/
def csrWrites (_ v : Word) : Word := v
def csrSets (old v : Word) : Word := old ||| v
def csrClears (old v : Word) : Word := old &&& ~~~v

/-- R205: the vector queue of a core holds the reset of a slot's moduli, or commands that use them. -/
def Core.usesModuli (k : Core) (slot : Nat) : Bool := k.vqueue.any fun q => q.slot = slot

/-- Access to the moduli waits for the thread's commands, for the reset of its slot, and for what a thread before it has left in
the queue of a core that they reach (R205). -/
def State.moduliBusy (s : State) (t : Thread) : Bool :=
  s.vectorBusy s.curCore t || (memberCores s.curCore t).any fun d => (s.core d).usesModuli s.curSlot

/-- The old value that a CSR instruction sees: its operand has been read before (R153), so that a word that it pops is gone
from the ring whose control word it reads. -/
def State.csrOld (s : State) (t : Thread) (reads : List Reg) (csr : Nat) : Word :=
  let rx := readsOf 28 reads
  let up := readsOf 29 reads
  if rx = 0 ∧ up = 0 then s.csrRead t csr
  else
    let z := s.slot s.curCore s.curSlot
    (s.setSlot s.curCore s.curSlot { z with q := { z.q with rx := z.q.rx.pop rx, up := z.q.up.pop up } }).csrRead t csr

/-- A CSR instruction with its operand read; a read of EBUD parks (STALL3). DESIGN CHOICE (log entry 108): with rd = `qdn` the push
follows the write of the CSR, be it QCWUP itself. -/
def csrAct (s : State) (t : Thread) (reads : List Reg) (o : CsrOp) (v : Word) : Act :=
  let old := s.csrOld t reads o.csr
  let new := o.f old v
  if 0x830 ≤ o.csr ∧ o.csr ≤ 0x837 ∧ s.moduliBusy t then .notReady 11
  else if o.writes ∧ s.csrRefuses t.ctx o.csr new then .trap 2 new
  else if o.csr = 0xCC3 ∧ o.reads then
    .go fun s' => s'.onCur fun u => (s'.await u 3 (.data (.g o.rd 8 false))).sendCur u .ebud
  else .go fun s' =>
    let s' := if o.writes then s'.onCur fun u => s'.csrWrite u o.csr new else s'
    if o.reads then s'.finish o.rd old else s'.done

/-- A CSR instruction with a register operand; one that writes is irreversible (R136). -/
def csrReg (s : State) (rd rs1 : Reg) (csr : BitVec 12) (rw : Bool) (f : Word → Word → Word) : Result :=
  run s fun t =>
    let o : CsrOp := { csr := csr.toNat, rd, reads := !(rw && rd = 0), writes := rw || rs1 != 0, f }
    s.issue t [rs1] (if o.reads then rd else 0) o.writes (csrAct s t [rs1] o (s.readg t [] rs1))

/-- A CSR instruction with an immediate operand. -/
def csrImm (s : State) (rd : Reg) (csr : BitVec 12) (uimm : BitVec 5) (rw : Bool) (f : Word → Word → Word) : Result :=
  run s fun t =>
    let o : CsrOp := { csr := csr.toNat, rd, reads := !(rw && rd = 0), writes := rw || uimm != 0, f }
    s.issue t [] (if o.reads then rd else 0) o.writes (csrAct s t [] o (uimm.zeroExtend 64))

def execCsrrw (rd rs1 : Reg) (csr : BitVec 12) (s : State) : Result := csrReg s rd rs1 csr true csrWrites
def execCsrrs (rd rs1 : Reg) (csr : BitVec 12) (s : State) : Result := csrReg s rd rs1 csr false csrSets
def execCsrrc (rd rs1 : Reg) (csr : BitVec 12) (s : State) : Result := csrReg s rd rs1 csr false csrClears
def execCsrrwi (rd : Reg) (csr : BitVec 12) (uimm : BitVec 5) (s : State) : Result := csrImm s rd csr uimm true csrWrites
def execCsrrsi (rd : Reg) (csr : BitVec 12) (uimm : BitVec 5) (s : State) : Result := csrImm s rd csr uimm false csrSets
def execCsrrci (rd : Reg) (csr : BitVec 12) (uimm : BitVec 5) (s : State) : Result := csrImm s rd csr uimm false csrClears

end Sys2Proof.Machine
end

