-- ==== Sys2Proof/Machine/Fetch.lean ====
section
/-! DEFINITION. Fetching an instruction word (R141): the instruction buffer, its lines of 64 bytes, and a miss. -/

namespace Sys2Proof.Machine

/-- The virtual address of the line that holds an address. -/
def lineOf (a : Word) : Nat := a.toNat / 64 * 64

/-- Lines that the instruction buffer holds: 16 KiB of 64 bytes. -/
def bufferLines : Nat := 256

def Core.line? (k : Core) (x : Nat) (pc : Word) : Option ILine := k.ibuf.find? fun l => l.ctx == x && l.va == lineOf pc

/-- A line added as the newest. -/
def Core.addLine (k : Core) (l : ILine) : Core :=
  { k with ibuf := (l :: k.ibuf.filter fun m => !(m.ctx == l.ctx && m.va == l.va)).take bufferLines }

/-- The word at an address of a line; the low two address bits are ignored (log entry 11). -/
def ILine.word (l : ILine) (pc : Word) : BitVec 32 := BitVec.ofNat 32 (leNat ((l.bytes.drop (pc.toNat % 64 / 4 * 4)).take 4))

/-- What a thread finds at its PC. -/
inductive Fetched where
  | word (w : BitVec 32)
  | badPc
  | miss
  deriving DecidableEq, Repr

/-- The fetch of a thread on a core: a word its own miss has brought, a line of the buffer, a PC that is not canonical
translated memory, or a miss. DESIGN CHOICE (log entry 78): of code that is stored to while it runs, a fetch gives the word of the
line that the buffer holds. -/
def State.fetch (s : State) (c : Nat) (t : Thread) : Fetched :=
  match s.window t.ctx c t.pc with
  | .translated =>
    match t.fetched with
    | some (pc, w) =>
      if pc = t.pc then .word w
      else
        match (s.core c).line? t.ctx t.pc with
        | some l => .word (l.word t.pc)
        | none => .miss
    | none =>
      match (s.core c).line? t.ctx t.pc with
      | some l => .word (l.word t.pc)
      | none => .miss
  | _ => .badPc

/-- A miss parks the thread: a fetch from translated memory (STALL2), after a TLB fill if the TLB lacks the page
(STALL12). -/
def State.fetchMiss (s : State) (c i : Nat) (t : Thread) : State :=
  let packet (kind : Kind) : Packet := { id := 0, ctx := t.ctx, core := c, slot := i, uid := t.uid, kind }
  match s.tlb? c t.ctx t.pc { exec := true } with
  | some pa => (s.setThread c i { t with park := .await 2 (.fetchData t.pc) }).send (packet (.fetch t.pc pa))
  | none =>
    (s.setThread c i { t with park := .await 12 (.translate .fetch t.pc) }).send (packet (.tlbMiss t.pc .fetch))

/-! ## Placing an instruction (log entry 12) -/

/-- The address at which an instruction is placed. -/
def placedPc : Word := 0x400000

/-- A context record of class N with cove 0 granted and 16 threads per core. -/
def placedRecord : CtxRecord :=
  { ptRoot := 0, ctx := 0, ptfmt := 0, flags := 0, cls := 2, tpc := 16, mcap := 0, budget := 0xFFFFFFFF, obj := 0,
    objLen := 0, textVa := placedPc, dataVa := 0, workVa := 0, workLen := 0, kmap := 0, sqBase := 0, cqBase := 0,
    sqLg := 4, cqLg := 4, coves := [0] }

/-- The registers of a thread dispatched to a slot of a core (R60). -/
def newThread (core slot uid : Nat) (task : Task) : Thread :=
  let lsp : Word := BitVec.ofNat 64 (0x800 + slot * 0x400 + 0x400)
  let g : Vector Word 32 := Vector.replicate 32 0
  let g := (((((g.set 2 task.arg0).set 3 task.arg1).set 4 task.arg2).set 5 task.arg3).set 6 task.tcb).set 25 lsp
  { ctx := task.ctx, uid, task, pc := task.entry, g, f := Vector.replicate 32 0, p := 1, fstat := 0x100,
    srseed := BitVec.ofNat 64 (tidOf core slot + 1) }

/-- A task whose first instruction is the one placed. -/
def placedTask : Task :=
  { ctx := 0, tcb := 0x1000000, entry := placedPc, arg0 := 0, arg1 := 0, arg2 := 0, arg3 := 0, key := 0, flags := 0,
    home := 0xFF, succ := 0 }

/-- What a launch, an admission and a dispatch would have left for one instruction word: context 0 open, its thread in
slot 0 of core 0 at the word, the word's line in the instruction buffer, and core 0's cycle as the next move. -/
def State.placeWord (s : State) (w : Nat) : State :=
  let k := s.core 0
  let k := { k with
    owner := some 0, status := .normal, lastIssued := 15
    ibuf := [{ ctx := 0, va := placedPc.toNat, bytes := leBytes 64 (w % 2 ^ 32) }] }
  let k := k.setSlot 0 { occ := .thread (newThread 0 0 s.serial placedTask) }
  let v := s.cove 0
  let s := (s.setCore 0 k).setCove 0 { v with owner := some 0 }
  let s := s.setCtx 0 { record := placedRecord, phase := .open, ebud := 0xFFFFFFFF }
  { s with agenda := .core 0 :: s.agenda, serial := s.serial + 1, powered := true }

end Sys2Proof.Machine
end

