-- ==== Sys2Proof/Machine/Router.lean ====
section
/-! DEFINITION. The way of a packet to where it is served: it follows what must be performed first (R89, R99), waits at the router of a
core from which its context is vacated, and is delivered in arrival order once the context is back (R20). -/

namespace Sys2Proof.Machine

/-! ## What a core's matrix unit takes from the network -/

/-- The commands waiting in a queue. -/
def Matrix.queue (m : Matrix) (high : Bool) : List MCmd := if high then m.hiQueue else m.loQueue

/-- R237: why a core refuses a remote command. -/
def Core.refusesCommand (k : Core) (cap : BitVec 32) (valid : Bool) : Bool :=
  k.sealed || cap != k.mcap || cap == 0 || k.mcap == 0 || !valid

/-- The item is of the same kind as another. -/
def RotItem.sameKind (a b : RotItem) : Bool :=
  match a, b with
  | .tile _ _, .tile _ _ => true
  | .plane _, .plane _ => true
  | _, _ => false

/-- The run still needs an item of this kind. -/
def MRun.needs (r : MRun) (i : RotItem) : Bool :=
  match i with
  | .tile _ _ => r.needTile
  | .plane _ => r.needPlane

/-- The operation in execution needs the item. -/
def Matrix.needs (m : Matrix) (i : RotItem) : Bool := m.run.any fun r => r.needs i

/-- A core takes an item of a rotation: it is not sealed, and its operation needs the item or its buffer has none of the kind (R231,
R260). -/
def Core.takesItem (k : Core) (i : RotItem) : Bool :=
  !k.sealed && (k.mx.needs i || !k.mx.rot.any fun j => j.sameKind i)

/-- The packet has a reason of its own to stay in the network: a remote command whose queue is full (R236), an item of a rotation that
its core does not take yet (R231). -/
def State.stuck (s : State) (p : Packet) : Bool :=
  match p.kind with
  | .command c high cap _ valid =>
    !(s.coveOff c || (s.core c).refusesCommand cap valid) && decide (8 ≤ ((s.core c).mx.queue high).length)
  | .rotation c i => !(s.core c).takesItem i
  | _ => false

/-! ## Arrival order (R20) -/

/-- The packet has waited at its router since before another came. -/
def Packet.before (q p : Packet) : Bool :=
  match q.held, p.held with
  | none, _ => false
  | some _, none => true
  | some m, some n => decide (m < n)

/-- No packet of the context that has waited longer for the same core goes first. -/
def State.inTurn (s : State) (p : Packet) : Bool :=
  !s.net.any fun q => q.ctx = p.ctx && q.before p && decide (s.arrivesAt q = s.arrivesAt p) && !s.stuck q

/-- A packet that comes to a core from which its context is vacated waits there from now on. -/
def State.holdAt (s : State) (p : Packet) : State :=
  { s with net := s.net.map fun q => if q.id = p.id ∧ q.held = none then { q with held := some s.tick } else q }

/-- The packet is served by the event that brings it. -/
def State.admits (s : State) (p : Packet) : Bool := s.clear p.after && !s.keeps p && s.inTurn p

/-- A packet that is not served: nothing happens, unless it now waits at a router. -/
def State.putOff (s : State) (p : Packet) : State := if s.clear p.after && s.keeps p then s.holdAt p else s

/-- An event on the packet that its operand names; once it is served, host records that can then be written are. -/
def onPacket (s : State) (f : Packet → State) : Result :=
  match s.packet? s.ev.n with
  | some p => if s.admits p then .next (f p).flush else .next (s.putOff p)
  | none => .next s

end Sys2Proof.Machine
end

