-- ==== Sys2Proof/Machine/Signals.lean ====
section
/-! DEFINITION. What engines and instructions share on a core: arrival counters (R66) and full-empty words with their
waiters (R87, R180). -/

namespace Sys2Proof.Machine

/-! ## Arrival counters -/

def Core.counter (k : Core) (n : Nat) : Counter := (k.counters[n]?).getD {}

def State.setCounter (s : State) (c n : Nat) (v : Counter) : State :=
  let k := s.core c
  s.setCore c { k with counters := k.counters.setIfInBounds n v }

/-- The threads of a core parked in `acwait` on a counter, with their destinations. -/
def Core.counterWaiters (k : Core) (n : Nat) : List (Nat × Reg) :=
  k.threads.filterMap fun (i, t) =>
    match t.waits with
    | some (.counter rd m) => if m = n then some (i, rd) else none
    | _ => none

/-- Completion, if it has been reached: the excess x to every waiter, and the armed trigger's decrement. -/
def State.settleCounter (s : State) (c n : Nat) : State :=
  let v := (s.core c).counter n
  if v.posted && decide (v.expected ≤ v.count) then
    let x := v.count - v.expected
    let waiters := (s.core c).counterWaiters n
    let s := s.setCounter c n { v with
      count := x, posted := false, overrun := v.overrun || decide (0 < x), armed := false
      done := if waiters.isEmpty then some x else none }
    let s := if v.armed then
        s.send { id := 0, ctx := v.trigCtx, core := c, slot := 0, uid := 0, kind := .dec v.trigger none (coveOf c) }
      else s
    waiters.foldl (fun s (i, rd) => (s.writeg c i rd (BitVec.ofNat 64 x)).retire c i) s
  else s

/-- A counter armed with the decrement of a TCB (R178). -/
def State.armTrigger (s : State) (c : Nat) (t : Thread) (n : Nat) (tcb : Word) : State :=
  s.setCounter c n { (s.core c).counter n with armed := true, trigger := tcb, trigCtx := t.ctx }

/-- An add to a counter; the count stays at 0xFFFF_FFFF when the sum exceeds it. -/
def State.addCounter (s : State) (c n amount : Nat) : State :=
  let v := (s.core c).counter n
  let sum := v.count + amount
  (s.setCounter c n { v with count := min sum 0xFFFFFFFF, overrun := v.overrun || decide (0xFFFFFFFF < sum) }).settleCounter c n

/-- The word that `acread` returns. -/
def Counter.word (v : Counter) : Word :=
  BitVec.ofNat 64 (v.count + boolNat v.posted * 2 ^ 32 + boolNat v.overrun * 2 ^ 33 + boolNat v.armed * 2 ^ 34)

/-! ## Full-empty words -/

/-- A full word of a core as a reply to a thread of a context on a unit: its value, or poison. An `ldsync` changes nothing. -/
def State.wordReply (s : State) (x unit c w : Nat) (consume : Bool) : Reply × State :=
  match s.checkLocal x unit c (8 * w) 8 with
  | (.ok, s') =>
    let v := s'.localLoad c (8 * w) 8
    (if consume then .value v else .data v, s')
  | (_, s') => (.poison, s')

/-- The word that a reply brings. -/
def Reply.word? : Reply → Option Word
  | .value v => some v
  | .data v => some v
  | _ => none

/-- A thread of the word's own core served in the same cycle. -/
def State.serveHere (s : State) (c : Nat) (w : SyncWaiter) (r : Reply) : State :=
  match s.holder? c w.slot w.uid, r.word? with
  | some t, some v =>
    (match t.waits with
      | some (.data dest) => s.loaded c w.slot dest v
      | _ => s)
  | some _, none => s.contain c
  | none, _ => s

/-- A waiter served with the word as it stands, which `ldsync.c` empties in the same step: at once on its own core, elsewhere by
a reply. A waiter whose wait the check of the word has withdrawn (R249) or whose core it has contained is passed over. -/
def State.serveWaiter (s : State) (c : Nat) (w : SyncWaiter) : State :=
  let (r, s) := s.wordReply w.ctx w.core c w.word w.consume
  let k := s.core c
  if !k.syncers.contains w then s
  else
    let k := { k with syncers := k.syncers.filter fun q => q != w }
    let s := s.setCore c (if w.consume then k.setFull w.word false else k)
    if w.core = c then s.serveHere c w r
    else s.send { id := 0, ctx := w.ctx, core := w.core, slot := w.slot, uid := w.uid, kind := .reply r }

/-- R180: a word that is full serves every waiting `ldsync`, then the `ldsync.c` that has waited longest, which empties
it. -/
def State.serveWord (s : State) (c w : Nat) : State :=
  let here := (s.core c).syncers.filter fun q => q.word = w
  let order := (here.filter fun q => !q.consume) ++ here.filter fun q => q.consume
  order.foldl (fun s q => if (s.core c).isFull w then s.serveWaiter c q else s) s

/-- Words made full, in order. -/
def State.fillWords (s : State) (c : Nat) (ws : List Nat) : State :=
  ws.foldl (fun s w => (s.setCore c ((s.core c).setFull w true)).serveWord c w) s

/-- The words of a range that one cycle marks (R181). -/
def fePace : Nat := 64

/-- R181: the full-empty bits of a range of words of a core set or cleared. -/
def State.markWords (s : State) (c first words : Nat) (set : Bool) : State :=
  let ws := upFrom first words
  if set then s.fillWords c ws else s.setCore c ((s.core c).setFulls ws false)

/-- `ldsync` and `ldsync.c` of a thread of a core on a word of that core: served at once, or waiting. -/
def State.syncAt (s : State) (x c word : Nat) (consume : Bool) (core slot uid : Nat) : State :=
  let w : SyncWaiter := { ctx := x, core, slot, uid, word, consume }
  let k := s.core c
  (s.setCore c { k with syncers := k.syncers ++ [w] }).serveWord c word

end Sys2Proof.Machine
end

