-- ==== Sys2Proof/Machine/Home.lean ====
section
/-! DEFINITION. Where requests arrive: replies to threads, loads, stores and atomics at their homes (R79, R88, R149, R365),
and the host's side of coherence (R82, R102, R323, R325). -/

namespace Sys2Proof.Machine

/-! ## Packets that arrive -/

/-- The thread that a packet answers, if it still waits. -/
def State.waiter? (s : State) (p : Packet) : Option (Thread × Wait) :=
  match s.holder? p.core p.slot p.uid with
  | some t => t.waits.map fun w => (t, w)
  | none => none

/-- The packet is still there: a check that took the last of the budget may have withdrawn its issuer's wait, and the request
then has no effect (R249). -/
def State.awaits (s : State) (p : Packet) : Bool := (s.packet? p.id).isSome

/-- A packet turned into the reply to its sender. -/
def State.replyTo (s : State) (p : Packet) (r : Reply) : State := s.turnPacket p.id (.reply r)

/-! ## Lines that the host holds (R325) -/

def State.exclusive (s : State) (pa : Nat) : Bool := (find? (pa / 64) s.hostCopies).getD false

/-- A snoop of the line is in flight. -/
def State.snooping (s : State) (line : Nat) (read : Bool) : Bool :=
  s.net.any fun p =>
    match p.kind with
    | .snoop l r => l = line && r = read
    | _ => false

/-- A snoop sent, unless one is in flight already. -/
def State.snoopFor (s : State) (line : Nat) (read : Bool) : State :=
  if s.snooping line read then s else s.send { id := 0, ctx := 0, core := 0, slot := 0, uid := 0, kind := .snoop line read }

/-- Ownership of a host line requested, unless a request is in flight already (R82). -/
def State.ownFor (s : State) (line : Nat) : State :=
  if s.net.any fun p => p.kind = .ownership line then s
  else s.send { id := 0, ctx := 0, core := 0, slot := 0, uid := 0, kind := .ownership line }

/-- A read of physical memory: what it is once the host has given up an exclusive copy of the line. -/
def State.withLine (s : State) (pa : Nat) (f : State → State) : State :=
  if s.exclusive pa then s.snoopFor (pa / 64) true else f s

/-- The same for a read of several lines, one after the other. -/
def State.withLines (s : State) (lines : List Nat) (f : State → State) : State :=
  match lines.find? fun l => s.exclusive (64 * l) with
  | some l => s.snoopFor l true
  | none => f s

/-- The first line that the host holds exclusively of n bytes of a context's memory that the part is about to read. -/
def State.heldLine (s : State) (x : Nat) (va : Word) (n : Nat) : Option Nat :=
  if s.hostCopies.isEmpty || n == 0 then none
  else
    (upFrom 0 ((va.toNat % 64 + n + 63) / 64)).findSome? fun i =>
      match (s.own x (BitVec.ofNat 64 (va.toNat / 64 * 64 + 64 * i)) false).1 with
      | some pa => if s.exclusive pa then some (pa / 64) else none
      | none => none

/-- A read by the part of n bytes of a context's memory (R325). -/
def State.withBytes (s : State) (x : Nat) (va : Word) (n : Nat) (f : State → State) : State :=
  match s.heldLine x va n with
  | some l => s.snoopFor l true
  | none => f s

/-! ## Data for a thread -/

/-- A fetched line enters the instruction buffer and the thread goes on (R141); an error makes the fetch the consuming
instruction (R85). -/
def State.returnFetch (s : State) (p : Packet) (va : Word) (pa : Nat) : State :=
  match s.checkPhys p.ctx p.core (pa / 64 * 64) 64 va 4 with
  | (check, s) =>
    let s := s.dropPacket p.id
    match s.waiter? p, check with
    | none, _ => s
    | some (t, _), .ok =>
      let line : ILine := { ctx := p.ctx, va := va.toNat / 64 * 64, bytes := s.phys.bytes (pa / 64 * 64) 64 }
      let s := s.setCore p.core ((s.core p.core).addLine line)
      s.setThread p.core p.slot { t with park := .none, fetched := some (va, line.word va) }
    | some _, .mismatch => s.trapAt p.core p.slot { cause := 19, utval := va, fetch := true }
    | some _, .poison => s.contain p.core

/-- The value of a load delivered to the thread that still waits for it. -/
def State.giveValue (s : State) (p : Packet) (v : Word) : State :=
  match s.waiter? p with
  | some (_, .data dest) => s.loaded p.core p.slot dest v
  | _ => s

/-- A load of physical memory returns (R85, R259). -/
def State.returnLoad (s : State) (p : Packet) (pa n : Nat) (va : Word) : State :=
  match s.checkPhys p.ctx p.core pa n va with
  | (check, s) =>
    let s := s.dropPacket p.id
    match s.waiter? p, check with
    | none, _ => s
    | some _, .ok => s.giveValue p (s.overlaid p.core p.slot p.uid (.phys pa) n (s.physWord pa n))
    | some _, .mismatch => s.trapAt p.core p.slot { cause := 19, utval := va }
    | some _, .poison => s.contain p.core

/-- A claimed chunk in ITCUR, ITEND and the result (R67). -/
def State.giveClaim (s : State) (p : Packet) (cur last n : Word) : State :=
  match s.waiter? p with
  | some (t, .data dest) =>
    (s.setThread p.core p.slot { t with itcur := cur, itend := last }).loaded p.core p.slot dest n
  | _ => s

/-- A reply reaches the thread that waits for it. -/
def State.takeReply (s : State) (p : Packet) (r : Reply) : State :=
  let s := s.dropPacket p.id
  match s.holder? p.core p.slot p.uid with
  | none => s
  | some _ =>
    match r with
    | .value v => s.giveValue p v
    | .data v => s.giveValue p v
    | .claim cur last n => s.giveClaim p cur last n
    | .trap cause utval => s.trapAt p.core p.slot { cause, utval }
    | .poison => s.contain p.core

/-- R86: the budget after every decrement made so far. -/
def State.budgetOf (s : State) (x : Nat) : Word :=
  match s.ctx? x with
  | some k => k.ebud.zeroExtend 64
  | none => 0

/-- DATA_RETURN. -/
def execDataReturn (s : State) : Result :=
  onPacket s fun p =>
    match p.kind with
    | .fetch va pa => s.withLine pa fun s => s.returnFetch p va pa
    | .load pa n va => s.withLine pa fun s => s.returnLoad p pa n va
    | .ebud => (s.dropPacket p.id).giveValue p (s.budgetOf p.ctx)
    | .reply r => s.takeReply p r
    | _ => s

/-! ## Requests to another core's local store -/

/-- A load served at the owning core; poison contains the loading core (R85). -/
def State.remoteLoad (s : State) (p : Packet) (core off n : Nat) (va : Word) : State :=
  if (s.core core).sealed then s.replyTo p (.trap 19 va)
  else
    match s.checkLocal p.ctx p.core core off n with
    | (.ok, s) => s.replyTo p (.data (s.overlaid p.core p.slot p.uid (.local core off) n (s.localLoad core off n)))
    | (_, s) => s.replyTo p .poison

/-- The next 64 words of a range of the owning core marked, in rising order; with the last the reply (R181). -/
def State.markRemote (s : State) (p : Packet) (core first words : Nat) (set : Bool) (va : Word) : State :=
  let s := s.markWords core first (min fePace words) set
  if words ≤ fePace then s.replyTo p (.value 0)
  else s.turnPacket p.id (.remoteFe core (first + fePace) (words - fePace) set va true)

/-- REMOTE_ACCESS (R79, R180, R181). -/
def execRemoteAccess (s : State) : Result :=
  onPacket s fun p =>
    match p.kind with
    | .remoteLoad core off n va => s.remoteLoad p core off n va
    | .remoteSync core off consume va =>
      if (s.core core).sealed then s.replyTo p (.trap 19 va)
      else (s.dropPacket p.id).syncAt p.ctx core (off / 8) consume p.core p.slot p.uid
    | .remoteFe core first words set va _ =>
      if (s.core core).sealed then s.replyTo p (.trap 19 va)
      else s.markRemote p core first words set va
    | _ => s

/-! ## Stores and atomics at their homes -/

/-- What a performed packet leaves for system scope, or nothing. -/
def State.settlePacket (s : State) (p : Packet) (t : Target) : State :=
  match t with
  | .local _ _ => s.dropPacket p.id
  | .phys pa =>
    match s.leftOver pa with
    | some kind => s.turnPacket p.id kind
    | none => s.dropPacket p.id

/-- The address that a store's error report names. DESIGN CHOICE (log entry 113): that of a buffered store to memory is physical. -/
def Target.word64 (t : Target) : Word :=
  match t with
  | .local core off => coreWindow core off
  | .phys pa => BitVec.ofNat 64 pa

/-- STORE_PERFORM (R88, R101, R146): a store, or a word of a commit, is performed. -/
def execStorePerform (s : State) : Result :=
  onPacket s fun p =>
    match p.kind with
    | .store t n v =>
      let s := s.noting p.uid p.issued t fun s => s.performBytes p.ctx p.core t n v t.word64
      (s.announce p.core p.broadcast t n).settlePacket p t
    | .commit w =>
      let s := s.noting p.uid p.issued w.target fun s => s.commitWord p.ctx p.core w
      (s.refresh p.core p.ctx w.target 8 w.data).settlePacket p w.target
    | _ => s

/-- The outcome of an atomic for its issuer, if it waits. DESIGN CHOICE (log entry 94): one without a result that meets a sealed core or
an error is dropped, and nobody is told. -/
def State.endAtomic (s : State) (p : Packet) (a : Atomic) (r : Reply) : State :=
  if a.dest = .none then s.dropPacket p.id else s.replyTo p r

/-- The old value that an atomic returns; a failed `cas` has changed nothing (R149). -/
def Atomic.reply (a : Atomic) (old : Word) : Reply := if (a.result old).isSome then .value old else .data old

/-- An atomic on another core's local store. DESIGN CHOICE (log entry 94): an error that it cannot correct leaves the word as it
was; where the issuer awaits no reply nobody is told. -/
def State.atomicRemote (s : State) (p : Packet) (core off : Nat) (a : Atomic) (va : Word) : State :=
  if (s.core core).sealed then s.endAtomic p a (.trap 19 va)
  else
    match s.checkLocal p.ctx p.core core off a.n 3 with
    | (.ok, s) =>
      if s.awaits p then
        let old := s.localLoad core off a.n
        let s := s.notingAtomic p.uid p.issued (.local core off) a fun s => s.updateLocal core off a old
        (if (a.result old).isSome then s.announce p.core p.broadcast (.local core off) a.n else s).endAtomic p a (a.reply old)
      else s
    | (_, s) => s.endAtomic p a .poison

/-- A corrected unit is written back without its error. -/
def State.healPhys (s : State) (pa n : Nat) : State :=
  { s with errors := s.errors.filter fun (u, e) => !((unitsOf pa n).contains u && e = .correctable) }

/-- An atomic on physical memory once its line is the home's (R149, R151). On a notify page it is neither a read nor a write
that R343 accepts: it reads 0 and writes nothing (log entry 61). -/
def State.atomicPhys (s : State) (p : Packet) (pa : Nat) (a : Atomic) (va : Word) : State :=
  if (s.notify? pa).isSome then s.endAtomic p a (.data 0)
  else
  match s.checkPhys p.ctx p.core pa a.n va 3 with
  | (.ok, s) =>
    let s := s.healPhys pa a.n
    let old := s.phys.load pa a.n
    match if s.awaits p then a.result old else none with
    | none => s.endAtomic p a (.data old)
    | some new =>
      let s := s.notingAtomic p.uid p.issued (.phys pa) a fun s =>
        ({ s with phys := s.phys.save pa a.n new } : State).amend (.phys pa) (leBytes a.n new.toNat)
      let s := s.announce p.core p.broadcast (.phys pa) a.n
      if a.dest = .none then s.settlePacket p (.phys pa)
      else
        let s := match s.leftOver pa with
          | some kind => s.send { id := 0, ctx := p.ctx, core := p.core, slot := p.slot, uid := p.uid, kind }
          | none => s
        s.replyTo p (.value old)
  | (.mismatch, s) => s.endAtomic p a (.trap 19 va)
  | (.poison, s) => s.endAtomic p a .poison

/-- What an atomic must wait for before it is performed: ownership of a host line; for scope 3, the recall of every host
copy (R92). -/
def State.atomicNeeds (s : State) (pa : Nat) (a : Atomic) : Option Kind :=
  match s.region pa with
  | .host => if s.owned.contains (pa / 64) then none else some (.ownership (pa / 64))
  | .peer => none
  | _ => if a.scope = 3 ∧ (find? (pa / 64) s.hostCopies).isSome then some (.snoop (pa / 64) false) else none

/-- ATOMIC_AT_HOME. -/
def execAtomicAtHome (s : State) : Result :=
  onPacket s fun p =>
    match p.kind with
    | .atomic (.local core off) a va => s.atomicRemote p core off a va
    | .atomic (.phys pa) a va =>
      (match s.atomicNeeds pa a with
        | some (.ownership line) => s.ownFor line
        | some (.snoop line read) => s.snoopFor line read
        | _ => s.atomicPhys p pa a va)
    | _ => s

/-! ## The host -/

/-- OWNERSHIP_GRANT (R82). -/
def execOwnershipGrant (s : State) : Result :=
  onPacket s fun p =>
    match p.kind with
    | .ownership line =>
      { s.dropPacket p.id with owned := if s.owned.contains line then s.owned else s.owned ++ [line] }
    | _ => s

/-- Bytes that the host writes into physical memory; a unit written whole holds no error. -/
def State.hostStore (s : State) (pa : Nat) (bs : List Byte) : State :=
  let whole (u : Nat) : Bool := decide (pa ≤ 64 * u) && decide (64 * u + 64 ≤ pa + bs.length)
  ({ s with
    phys := s.phys.store pa bs
    errors := s.errors.filter fun (u, _) => !((unitsOf pa bs.length).contains u && whole u) } : State).amend (.phys pa) bs

/-- A line that the host sends back (R323, R325). -/
def State.hostLine (s : State) (line : Nat) (bs : List Byte) : State :=
  if s.isStray (64 * line) then s.strayed else s.hostStore (64 * line) bs

/-- A line's host copy set or dropped; a line already tracked keeps its place. -/
def setCopy (line : Nat) (v : Bool) : List (Nat × Bool) → List (Nat × Bool)
  | [] => [(line, v)]
  | (l, w) :: rest => if l = line then (l, v) :: rest else (l, w) :: setCopy line v rest

/-- BISNP_RESPONSE (R325). The host's line comes with the response where the operand says so: after BISnpData the host keeps
a shared copy, after BISnpInv none. A line of a hole or a quiesced bay is discarded and counted (R323). -/
def execBisnpResponse (s : State) : Result :=
  onPacket s fun p =>
    match p.kind with
    | .snoop line read =>
      let s := s.dropPacket p.id
      if read then
        let s := if s.ev.flag ∧ s.ev.bytes.length = 64 then s.hostLine line s.ev.bytes else s
        { s with hostCopies := if (find? line s.hostCopies).isSome then setCopy line false s.hostCopies else s.hostCopies }
      else { s with hostCopies := drop line s.hostCopies }
    | _ => s

/-- The snoop filter that tracks a line (R325): one for each stack and for each channel group. -/
def State.filterOf (s : State) (pa : Nat) : Option (Bool × Nat) :=
  match s.region pa, s.runAt pa with
  | .near _, some r => some (false, r.place)
  | .far _, some r => some (true, r.place)
  | _, _ => none

/-- The oldest line of a full filter. -/
def State.recalled (s : State) (pa : Nat) : Option Nat :=
  let mine := s.hostCopies.filter fun (l, _) => s.filterOf (64 * l) = s.filterOf pa
  if mine.length < 2097152 then none else mine.head?.map fun q => q.1

/-- HOST_MEM_ACCESS (R323, R325): n the address, flag a write of the bytes given, m the copy that the host keeps (0 none, 1
shared, 2 exclusive), x = 1: the host writes poison. An access lies within one line of near or far memory. -/
def execHostMemAccess (s : State) : Result :=
  let pa := s.ev.n
  let line := pa / 64
  let keep (s : State) : State :=
    if s.ev.m = 0 then s else { s with hostCopies := setCopy line (s.ev.m = 2) s.hostCopies }
  match s.region pa with
  | .near _ | .far _ =>
    if s.ev.bytes.length ≤ 64 - pa % 64 then
      if s.isStray pa then .next s.strayed.flush
      else
        match (if s.ev.m = 0 ∨ (find? line s.hostCopies).isSome then none else s.recalled pa) with
        | some old => .next (s.snoopFor old false)
        | none =>
          if s.ev.flag then
            let s := s.hostStore pa s.ev.bytes
            .next (keep (if s.ev.x = 1 then s.poisonPhys pa s.ev.bytes.length else s)).flush
          else .next (keep s)
    else .next s
  | _ => .next s

/-- CXL_CACHE_SNOOP (R102): the host stores bytes (the operand) into a line of its own memory; the home die's cache gives
the line up, and the store is visible there. -/
def execCxlCacheSnoop (s : State) : Result :=
  let pa := s.ev.n
  if s.region pa = .host ∧ s.ev.bytes.length ≤ 64 - pa % 64 then
    .next ({ s.hostStore pa s.ev.bytes with owned := s.owned.filter fun l => l != pa / 64 } : State).flush
  else .next s

end Sys2Proof.Machine
end

