-- ==== Sys2Proof/Machine/Tasks.lean ====
section
/-! DEFINITION. Instructions on tasks (R54, R63, R175), group objects (R171) and the iteration fetcher (R67): what a thread
checks and sends; the homes act in events. -/

namespace Sys2Proof.Machine

/-! ## Requests to a home -/

/-- The entries of a core that a request to an object must follow, since the thread's accesses to one address take effect
in program order (R89). -/
def State.behind (s : State) (c : Nat) (t : Target) (n : Nat) : List Nat := (s.overlapping c t n).map fun p => p.id

/-- A thread of a slot parks for the home's reply. -/
def State.ask (s : State) (c i : Nat) (t : Thread) (cause : Nat) (dest : Dest) (after : List Nat) (kind : Kind) : State :=
  (s.setThread c i { t with park := .await cause (.data dest) }).send
    { id := 0, ctx := t.ctx, core := c, slot := i, uid := t.uid, after, kind }

/-- `tspawn` with its address translated (R54). -/
def State.askSpawn (s : State) (c i : Nat) (t : Thread) (rd : Reg) (va : Word) (pa : Nat) : State :=
  s.ask c i t 3 (.g rd 8 false) (s.behind c (.phys pa) 64) (.spawn va pa (coveOf c))

/-- `twait` with its address translated (R63). -/
def State.askWait (s : State) (c i : Nat) (t : Thread) (rd : Reg) (va : Word) (pa : Nat) : State :=
  s.ask c i t 8 (.g rd 8 false) (s.behind c (.phys pa) 64) (.taskWait va pa)

/-- `tdec` with its address translated: a store-buffer entry that releases the thread's stores (R99, R175). -/
def State.sendDec (s : State) (c i : Nat) (t : Thread) (va : Word) (pa : Nat) : State :=
  (s.send { id := 0, ctx := t.ctx, core := c, slot := i, uid := t.uid, buffered := true
            after := s.behind c (.phys pa) 64 ++ s.fenced t, broadcast := t.broadcasts c va
            kind := .dec va (some pa) (coveOf c) }).retire c i

/-- A group operation at its home; a `gbar` releases the thread's stores (R172). -/
def State.askGroup (s : State) (c i : Nat) (t : Thread) (op : GroupOp) (va : Word) (tgt : Target) : State :=
  let release := if op = .bar then s.fenced t else []
  s.ask c i t (if op = .bar then 8 else 3) .none (s.behind c tgt 64 ++ release) (.group tgt op va)

/-- `itclaim` at the descriptor's home. -/
def State.askClaim (s : State) (c i : Nat) (t : Thread) (rd : Reg) (va : Word) (tgt : Target) : State :=
  s.ask c i t 3 (.g rd 8 false) (s.behind c tgt 32) (.claim tgt va)

/-! ## Tasks -/

/-- An instruction on a TCB: its address checks, then a miss or what it does with the physical address. -/
def State.tcbAct (s : State) (t : Thread) (a : Word) (acc : Access) (f : Nat → Act) : Act :=
  match s.tcbTrap t.ctx s.curCore a with
  | some (cause, utval) => .trap cause utval
  | none =>
    match s.reach t.ctx s.curCore a {} with
    | .target (.phys pa) => if s.isPeer pa then .trap 4 a else f pa
    | _ => .go fun s' => s'.onCur fun u => s'.missing u a acc

def execTspawn (rd rs1 : Reg) (s : State) : Result :=
  run s fun t =>
    let a := s.readg t [] rs1
    s.issue t [rs1] rd true (s.tcbAct t a (.spawn rd) fun pa =>
      .go fun s' => s'.onCur fun u => s'.askSpawn s'.curCore s'.curSlot u rd a pa)

def execTdec (rs1 : Reg) (s : State) : Result :=
  run s fun t =>
    let a := s.readg t [] rs1
    s.issue t [rs1] 0 true
      (if s.bufferBusy s.curCore then
        (match s.tcbTrap t.ctx s.curCore a with
          | some (cause, utval) => .trap cause utval
          | none => .notReady 14)
      else s.tcbAct t a .dec fun pa =>
        if s.missesOver s.curCore (.phys (pa + 48)) 8 then .notReady 14
        else .go fun s' => s'.onCur fun u => s'.sendDec s'.curCore s'.curSlot u a pa)

def execTwait (rd rs1 : Reg) (s : State) : Result :=
  run s fun t =>
    let a := s.readg t [] rs1
    s.issue t [rs1] rd true (s.tcbAct t a (.wait rd) fun pa =>
      .go fun s' => s'.onCur fun u => s'.askWait s'.curCore s'.curSlot u rd a pa)

/-! ## Groups -/

/-- An instruction on an object in memory of any kind: its address checks, then a miss or its request. -/
def State.objectAct (s : State) (t : Thread) (a : Word) (size : Nat) (acc : Access) (f : Target → State → Thread → State) :
    Act :=
  match s.objectTrap t.ctx s.curCore a size with
  | some (cause, utval) => .trap cause utval
  | none =>
    match s.reach t.ctx s.curCore a { write := true } with
    | .target tgt => if s.peerTarget tgt then .trap 4 a else .go fun s' => s'.onCur fun u => f tgt s' u
    | .miss => .go fun s' => s'.onCur fun u => s'.missing u a acc
    | .bad => .trap 4 a

/-- A group instruction. -/
def group (s : State) (op : GroupOp) (rs1 : Reg) : Result :=
  run s fun t =>
    let a := s.readg t [] rs1
    s.issue t [rs1] 0 true (s.objectAct t a 64 (.group op) fun tgt s' u =>
      s'.askGroup s'.curCore s'.curSlot u op a tgt)

def execGjoin (rs1 : Reg) (s : State) : Result := group s .join rs1
def execGleave (rs1 : Reg) (s : State) : Result := group s .leave rs1
def execGbar (rs1 : Reg) (s : State) : Result := group s .bar rs1

/-! ## The iteration fetcher -/

def execItclaim (rd rs1 : Reg) (s : State) : Result :=
  run s fun t =>
    let a := s.readg t [] rs1
    s.issue t [rs1] rd true (s.objectAct t a 32 (.claim rd) fun tgt s' u =>
      s'.askClaim s'.curCore s'.curSlot u rd a tgt)

/-- The fields of ITCUR and ITEND: an extent and a linear index. -/
def extent (w : Word) : Nat := bits w 40 24
def linear (w : Word) : Nat := bits w 0 40

/-- The indices that `itnext` unpacks, written to gx, gx + 1 and gx + 2, and ITCUR advanced. -/
def Thread.unpack (t : Thread) (x : Reg) : Thread :=
  let i := linear t.itcur
  let nx := extent t.itcur
  let ny := extent t.itend
  let u := ((t.setG x (BitVec.ofNat 64 (i % nx))).setG (x + 1) (BitVec.ofNat 64 (i / nx % ny))).setG (x + 2)
    (BitVec.ofNat 64 (i / (nx * ny)))
  { u with itcur := BitVec.ofNat 64 (nx * 2 ^ 40 + (i + 1) % 2 ^ 40) }

/-- R67: branches when the chunk is used up, else hands out one iteration. -/
def execItnext (x : Reg) (imm : BitVec 12) (s : State) : Result :=
  run s fun t => s.issue t [] 0 false
    (if linear t.itcur = linear t.itend then .go fun s' => s'.goTo (t.pc + offset imm)
     else if extent t.itcur = 0 ∨ extent t.itend = 0 then .trap 2 t.itcur
     else .go fun s' => (s'.onThread s'.curCore s'.curSlot fun u => u.unpack x).goTo (t.pc + 4))

end Sys2Proof.Machine
end

