-- ==== Sys2Proof/Machine/Tcb.lean ====
section
/-! DEFINITION. Task control blocks at their homes (R50, R52, R54, R56), ready queues (R57, R58), and the start of a page
fault (R252, R330). -/

namespace Sys2Proof.Machine

/-! ## Fields (R50) -/

/-- The task that a TCB in physical memory describes. -/
def State.tcbTask (s : State) (x : Nat) (va : Word) (pa : Nat) : Task :=
  let w (o : Nat) : Word := s.phys.load (pa + o) 8
  { ctx := x, tcb := va, entry := w 0, arg0 := w 8, arg1 := w 16, arg2 := w 24, arg3 := w 32, key := w 40,
    flags := (w 48).extractLsb' 32 16, home := (w 48).extractLsb' 48 8, succ := w 56 }

def State.tcbPred (s : State) (pa : Nat) : BitVec 32 := (s.phys.load (pa + 48) 4).extractLsb' 0 32

/-- R54. -/
def State.tcbInvalid (s : State) (t : Task) : Bool :=
  t.flags.extractLsb' 4 12 != 0 || (decide (63 ≤ t.home.toNat) && decide (t.home.toNat ≤ 0xFE)) ||
    (t.ordered && !s.orderedOn t.ctx) || decide (t.succ.toNat % 8 ≠ 0)

/-- The context's queue is open: nothing of it is being torn down (R76). -/
def State.alive (s : State) (x : Nat) : Bool :=
  match s.ctx? x with
  | some k => !k.torn
  | none => false

/-! ## Writes by the part -/

/-- R82, R92: an operation on a host line waits until the home die's cache owns it. -/
def State.withOwned (s : State) (pa : Nat) (f : State → State) : State :=
  if s.region pa = .host ∧ !s.owned.contains (pa / 64) then s.ownFor (pa / 64) else f s

/-- What a write of the part at a home leaves for system scope: the recall of a host copy (R325), or ownership. -/
def State.leave_ (s : State) (x core pa : Nat) : State :=
  match s.leftOver pa with
  | some kind => s.send { id := 0, ctx := x, core, slot := 0, uid := 0, kind }
  | none => s

/-- The status byte of a TCB written. -/
def State.setStatus (s : State) (pa status : Nat) : State :=
  ({ s with phys := s.phys.write (pa + 55) (BitVec.ofNat 8 status) } : State).amend (.phys (pa + 55)) [BitVec.ofNat 8 status]

/-- The part's change of a task's status at its TCB (R62, R64), as an atomic without a reply (R363): a TCB that cannot be
translated or read is left unchanged. The answer says whether the change was made. DESIGN CHOICE (log entry 43): a change that nothing
waits for (to running, held or ready) is lost where the TCB's page is absent. -/
def State.changeStatus (s : State) (t : Task) (unit status : Nat) : Bool × State :=
  match s.own t.ctx t.tcb false with
  | (none, s) => (false, s)
  | (some pa, s) =>
    match s.checkPhys t.ctx unit pa 64 t.tcb 9 with
    | (.ok, s) => (true, ((s.healPhys pa 64).setStatus pa status).leave_ t.ctx unit pa)
    | (_, s) => (false, s)

/-- The change of a status that nothing else depends on. -/
def State.markTask (s : State) (t : Task) (unit status : Nat) : State := (s.changeStatus t unit status).2

/-- The first address of a task's successor list that the part cannot translate; an address that is not translated memory makes
the list unreadable instead (R62). -/
def State.listLacks (s : State) (t : Task) : Option Word :=
  let lacks (a : Word) : Bool := s.window t.ctx 0 a == .translated && (s.own t.ctx a false).1.isNone
  if t.succ = 0 ∨ t.succ.toNat % 8 ≠ 0 then none
  else if lacks t.succ then some t.succ
  else
    match (s.own t.ctx t.succ false).1 with
    | none => none
    | some pa =>
      let n := (s.phys.load pa 8).toNat
      if 1024 < n then none else ((upFrom 1 n).map fun i => t.succ + BitVec.ofNat 64 (8 * i)).find? lacks

/-! ## Ready queues -/

/-- R57, R58: a task in the ready queue of a cove. -/
def State.enqueue (s : State) (v : Nat) (t : Task) : State :=
  let k := s.cove v
  s.setCove v { k with ready := insertBy Task.before t k.ready }

/-- The armed tasks without the one of a task's TCB. -/
def State.disarm (s : State) (t : Task) : State := { s with armed := s.armed.filter fun a => !(a.ctx == t.ctx && a.tcb == t.tcb) }

/-- The fields of a TCB kept while it is armed (R52). -/
def State.arm (s : State) (t : Task) : State := { s.disarm t with armed := t :: (s.disarm t).armed }

/-- The armed task of a context whose TCB has this virtual address, or stands at this physical one under another. -/
def State.armedTask (s : State) (x : Nat) (va : Word) (pa : Nat) : Option Task :=
  match s.armed.find? fun t => t.ctx = x && t.tcb = va with
  | some t => some t
  | none => s.armed.find? fun t => t.ctx = x && (s.own x t.tcb false).1 = some pa

/-- R54, the act of a spawn on a TCB whose status is idle or done and whose fields are valid: the new status. -/
def State.spawnAt (s : State) (t : Task) (pa cove : Nat) : Nat × State :=
  if (s.tcbPred pa).toInt ≤ 0 then (2, ((s.setStatus pa 2).disarm t).enqueue cove t)
  else (1, (s.setStatus pa 1).arm t)

/-- The predecessor count of a TCB lowered by 1 (R56). -/
def State.lowerPred (s : State) (pa : Nat) : State :=
  let pred := s.tcbPred pa - 1
  ({ s with phys := s.phys.save (pa + 48) 4 (pred.zeroExtend 64) } : State).amend (.phys (pa + 48)) (leBytes 4 pred.toNat)

/-- R56: one decrement of a TCB whose data is sound; one armed by the part has the fields read at its spawn (R52). After
teardown nothing is released (R76). -/
def State.lower (s : State) (x : Nat) (va : Word) (pa cove : Nat) : State :=
  let t := (s.armedTask x va pa).getD (s.tcbTask x va pa)
  let s := s.lowerPred pa
  if s.tcbStatus pa = 1 ∧ s.tcbPred pa = 0 ∧ s.alive x then ((s.setStatus pa 2).disarm t).enqueue cove t
  else s

/-- One decrement at a TCB's home, by the part or by an access of another kind; an error in the TCB loses it (R363). -/
def State.decrement (s : State) (x unit : Nat) (va : Word) (pa cove : Nat) (kind : BitVec 4 := 9) : State :=
  match s.checkPhys x unit pa 64 va kind with
  | (.ok, s) => (s.healPhys pa 64).lower x va pa cove
  | (_, s) => s

/-! ## Page faults -/

/-- The kind bits of a fault record (R329): read, write, fetch, engine. -/
def Access.kind (a : Access) : BitVec 4 :=
  match a with
  | .fetch => 4
  | .load _ _ => 1
  | .store _ _ => 2
  | .atomic _ => 3
  | .migrA => 1
  | .spawn _ => 1
  | .dec => 1
  | .wait _ => 1
  | .group _ => 3
  | .claim _ => 3
  | .trigger _ => 1

end Sys2Proof.Machine
end

