-- ==== Sys2Proof/Machine/SchedEvents.lean ====
section
/-! DEFINITION. The scheduler and migration: departure (R42), arrival (R43, R44), dispatch (R59, R60, R364), stealing (R61),
and the commit of ordered tasks (R69, R70). -/

namespace Sys2Proof.Machine

/-! ## Departing (R39, R42) -/

/-- The thread area of a slot (R77). -/
def areaOf (slot : Nat) : Nat := 0x800 + slot * 0x400

/-- What migration carries of a thread (R17, R18, R39); the rest has its value after arrival. -/
def Thread.carried (t : Thread) (form : MigrForm) (uid : Nat) (loaded : List Nat) : Thread :=
  let keep (i : Nat) : Bool := decide (1 ≤ i) && (decide (i ≤ 16) || (decide (i ≤ 24) && form != .short))
  { ctx := t.ctx, uid, task := t.task, pc := t.pc, g := Vector.ofFn fun i => if keep i.val then t.g.get i else 0
    f := Vector.replicate 32 0, p := t.p, fstat := t.fstat, srseed := t.srseed, utvec := t.utvec, handler := t.handler
    pend := t.pend, checker := t.checker, loaded, leFence := t.leFence }

/-- The form carries the hatbox. -/
def MigrForm.hasHatbox (f : MigrForm) : Bool := f == .hatbox || f == .ldf

/-- The context leaves its slot for its target, with a new uid: what its commands may still read of its stores goes with it, and
the remote commands that it has sent stay ahead of its later ones. -/
def State.departNow (s : State) (c i : Nat) (t : Thread) (form : MigrForm) (dest : Nat) (hatbox : List Byte) : State :=
  let uid := s.serial
  let commands := (s.net.filter fun p => (p.uid = t.uid || t.sent.contains p.id) && p.kind.isCommand).map fun p => p.id
  let thread := { t.carried form uid (s.fenced t) with sent := commands }
  let olds := s.olds.flatMap fun e => if e.uid = t.uid then [e, { e with uid }] else [e]
  (({ s with serial := s.serial + 1, olds } : State).leave c i).send
    { id := 0, ctx := t.ctx, core := c, slot := i, uid, kind := .migrate { thread, form, hatbox, dest } }

/-- The hatbox is read, and an error in it contains the core (R85). -/
def State.departWith (s : State) (c i : Nat) (t : Thread) (form : MigrForm) (dest : Nat) : State :=
  if form.hasHatbox then
    match s.checkLocal t.ctx c c (areaOf i) 256 with
    | (.ok, s) =>
      (match s.holder? c i t.uid with
        | some t => s.departNow c i t form dest ((s.core c).mem.bytes (areaOf i) 256)
        | none => s)
    | (_, s) => s.contain c
  else s.departNow c i t form dest []

/-- MIGRATION_DEPARTURE of the thread of core `ev.n`, slot `ev.m`, once its stores are performed at device scope. A migration
to the thread's own core ends there (R40); an `ldf` has not retired (R162). -/
def execMigrationDeparture (s : State) : Result :=
  let c := s.ev.n
  let i := s.ev.m
  match s.thread? c i with
  | none => .next s
  | some t =>
    match t.waits with
    | some (.migrate form dest) =>
      if !s.clear (s.fenced t) then .next s
      else if form = .ldf then .next (s.departWith c i { t with park := .none } form dest).flush
      else
        let s := s.retire c i
        .next (match s.holder? c i t.uid with
          | some t => if dest = c then s else s.departWith c i t form dest
          | none => s).flush
    | _ => .next s

/-! ## Arriving (R43, R44) -/

/-- The granted thread count k9. -/
def State.tpcOf (s : State) (x : Nat) : Nat :=
  match s.ctx? x with
  | some k => k.record.tpc
  | none => 0

/-- The lowest-numbered empty slot below k9. -/
def State.freeSlot (s : State) (x c : Nat) : Option Nat := (upFrom 0 (s.tpcOf x)).find? fun i => (s.slot c i).occ == .empty

/-- R205: the reset of a slot's moduli enters the vector queue. -/
def Core.queueReset (k : Core) (x slot : Nat) : Core :=
  { k with vqueue := k.vqueue ++ [{ ctx := x, slot, uid := 0, pc := 0, op := .qreset }] }

/-- The context enters a slot: `lsp`, the hatbox, disabled queues, moduli reset. -/
def State.enter (s : State) (a : Carried) (c i : Nat) : State :=
  let t := { a.thread with g := a.thread.g.set 25 (BitVec.ofNat 64 (areaOf i + 0x400)) }
  let s := s.setThread c i t
  let s := s.setCore c ((s.core c).queueReset t.ctx i)
  if a.form.hasHatbox then s.storeRange t.ctx c (areaOf i) a.hatbox else s

/-- Contexts of the cove's spill area wait for a core; those of a context that stays vacated from it wait for its resume
instead, and hold back no other context (R20). -/
def State.spilledFor (s : State) (c : Nat) : Bool :=
  (s.cove (coveOf c)).spill.any fun a => a.dest = c && !s.away a.thread.ctx c

def State.spillTo (s : State) (v : Nat) (a : Carried) : State :=
  let k := s.cove v
  s.setCove v { k with spill := k.spill ++ [a] }

/-- R262: the worker core of the cove at which a migration to a quarantined core is re-injected. -/
def State.reinjection (s : State) (v : Nat) : Option Nat :=
  let first := match (s.cove v).reinject with
    | some n => n + 1
    | none => 0
  ((upFrom first 63).map fun n => n % 63).find? fun n => (s.core (coreOf v n)).status == .normal

/-- A context at its target core: into a slot, the arrival buffer, or the spill area, behind those that wait for the
core. -/
def State.admitAt (s : State) (a : Carried) : State :=
  let c := a.dest
  let k := s.core c
  if k.sealed || s.away a.thread.ctx c then s.spillTo (coveOf c) a
  else if s.spilledFor c then s.spillTo (coveOf c) a
  else if k.arrivals.isEmpty then
    match s.freeSlot a.thread.ctx c with
    | some i => s.enter a c i
    | none => s.setCore c { k with arrivals := [a] }
  else if k.arrivals.length < 4 then s.setCore c { k with arrivals := k.arrivals ++ [a] }
  else s.spillTo (coveOf c) a

/-- The target of a context whose core may be quarantined; `none`: every worker core is. -/
def State.redirect (s : State) (a : Carried) : State × Option Carried :=
  match (s.core a.dest).status with
  | .quarantined | .releasing | .spare =>
    let v := coveOf a.dest
    (match s.reinjection v with
      | some n => (s.setCove v { s.cove v with reinject := some n }, some { a with dest := coreOf v n })
      | none => (s, none))
  | _ => (s, some a)

/-- A context from the network. -/
def State.arrive (s : State) (a : Carried) : State :=
  match s.redirect a with
  | (s, some b) => s.admitAt b
  | (s, none) => s.spillTo (coveOf a.dest) a

/-- The head of a core's arrival buffer enters a slot that has become empty. -/
def State.unbuffer (s : State) (c : Nat) : State :=
  match (s.core c).arrivals with
  | [] => s
  | a :: rest =>
    match s.freeSlot a.thread.ctx c with
    | some i => if (s.core c).sealed then s else (s.setCore c { s.core c with arrivals := rest }).enter a c i
    | none => s

/-- A spilled context can go on: its core takes contexts, and its arrival buffer or a slot has room. -/
def State.canReturn (s : State) (a : Carried) : Bool :=
  let k := s.core a.dest
  match k.status with
  | .contained => false
  | .normal => !s.away a.thread.ctx a.dest && decide (k.arrivals.length < 4)
  | _ => (s.reinjection (coveOf a.dest)).isSome

/-- The first spilled context of a cove that can go on, with the others; earlier ones for the same core stay first, apart
from those that wait for a resume. -/
def State.pickSpill (s : State) : List Carried → List Carried → Option (Carried × List Carried)
  | _, [] => none
  | before, a :: rest =>
    if s.canReturn a && !before.any fun b => b.dest = a.dest && !s.away b.thread.ctx b.dest then some (a, before ++ rest)
    else s.pickSpill (before ++ [a]) rest

/-- A spilled context re-injected into its core's buffer or slot (R43). -/
def State.rejoin (s : State) (a : Carried) : State :=
  let c := a.dest
  let k := s.core c
  match (if k.arrivals.isEmpty then s.freeSlot a.thread.ctx c else none) with
  | some i => s.enter a c i
  | none => s.setCore c { k with arrivals := k.arrivals ++ [a] }

def State.unspill (s : State) (v : Nat) : State :=
  match s.pickSpill [] (s.cove v).spill with
  | none => s
  | some (a, rest) =>
    let s := s.setCove v { s.cove v with spill := rest }
    if (s.core a.dest).status = .normal then s.rejoin a else s.arrive a

/-- MIGRATION_ARRIVAL: of the packet `ev.n`; with the flag, from the arrival buffer of core `ev.n`; with x = 1, from the
spill area of cove `ev.m`. -/
def execMigrationArrival (s : State) : Result :=
  if s.ev.flag then .next (s.unbuffer s.ev.n).flush
  else if s.ev.x = 1 then .next (s.unspill s.ev.m).flush
  else
    onPacket s fun p =>
      match p.kind with
      | .migrate a => (s.dropPacket p.id).arrive a
      | _ => s

/-! ## Dispatch (R59, R60, R364) -/

/-- A slot of the core is eligible for a task (R59). -/
def State.eligible (s : State) (x c : Nat) (ordered : Bool) : Option Nat :=
  let k := s.core c
  if k.sealed || s.away x c || !k.arrivals.isEmpty || s.spilledFor c ||
    (ordered && k.spec.toList.all fun p => p.isSome) then none
  else s.freeSlot x c

/-- The core and slot for the task at the head of a cove's ready queue: its home, else round robin. -/
def State.placeFor (s : State) (v : Nat) (t : Task) : Option (Nat × Nat) :=
  let at_ (n : Nat) : Option (Nat × Nat) := (s.eligible t.ctx (coreOf v n) t.ordered).map fun i => (n, i)
  let home := if t.home = 0xFF then none else at_ t.home.toNat
  match home with
  | some p => some p
  | none => ((upFrom ((s.cove v).lastDispatch + 1) 63).map fun n => n % 63).findSome? at_

/-- The first free part of a core's speculative buffer taken for an ordered task (R68). -/
def Core.takePart (k : Core) (t : Task) : Option Nat × Core :=
  match (upFrom 0 4).find? fun i => ((k.spec[i]?).getD none).isNone with
  | some i => (some i, { k with spec := k.spec.setIfInBounds i (some { task := t, uid := 0 }) })
  | none => (none, k)

/-- A task placed in a slot: occupied from the choice on, running, its context on its way. -/
def State.dispatchTo (s : State) (v n i : Nat) (t : Task) : State :=
  let c := coreOf v n
  let (part, k) := if t.ordered then (s.core c).takePart t else (none, s.core c)
  let s := s.setCore c (k.setSlot i { k.slot i with occ := .awaiting t })
  let s := s.setCove v { s.cove v with lastDispatch := n }
  (s.markTask t c 3).send { id := 0, ctx := t.ctx, core := c, slot := i, uid := 0, kind := .dispatch c i t part }

/-- The context takes dispatches: its queue is open and it is not being pre-empted (R76, R349). -/
def State.dispatching (s : State) (x : Nat) : Bool :=
  match s.ctx? x with
  | some k => !k.torn && !k.preempting
  | none => false

/-- TASK_DISPATCH of cove `ev.n`: the first ready task whose context takes dispatches. -/
def execTaskDispatch (s : State) : Result :=
  let v := s.ev.n
  match takeFirst (fun (t : Task) => s.dispatching t.ctx) (s.cove v).ready with
  | none => .next s
  | some (t, rest) =>
    match s.placeFor v t with
    | some (n, i) => .next ((s.setCove v { s.cove v with ready := rest }).dispatchTo v n i t).flush
    | none => .next s

/-- The thread starts (R60): its uid also in its buffer part. -/
def State.startThread (s : State) (c i : Nat) (t : Task) (part : Option Nat) : State :=
  let uid := s.serial
  let s : State := { s with serial := s.serial + 1 }
  let thread : Thread := { newThread c i uid t with spec := part }
  let k := s.core c
  let k := match part with
    | some j => { k with spec := k.spec.setIfInBounds j (((k.spec[j]?).getD none).map fun (p : SpecPart) => { p with uid }) }
    | none => k
  (s.setCore c (k.queueReset t.ctx i)).setThread c i thread

/-- DISPATCH_ARRIVAL. -/
def execDispatchArrival (s : State) : Result :=
  onPacket s fun p =>
    match p.kind with
    | .dispatch c i t part =>
      if (s.slot c i).occ = .awaiting t then (s.dropPacket p.id).startThread c i t part else s.dropPacket p.id
    | _ => s

/-! ## Stealing (R61) -/

/-- The next granted cove after one in ring order, passing over the stealer. -/
def nextInRing (granted : List Nat) (after stealer : Nat) : Option Nat :=
  ((upFrom (ringCove after + 1) 1024).map fun i => ringCove (i % 1024)).find? fun v => granted.contains v && v != stealer

/-- One of the cove's worker cores has an eligible slot. DESIGN CHOICE (log entry 103): the slot is judged as for a plain task, before
the victim's head is known. -/
def State.hasRoom (s : State) (x v : Nat) : Bool := (upFrom 0 63).any fun n => (s.eligible x (coreOf v n) false).isSome

/-- The victim of a cove's next attempt: the one kept; where none is, the next granted cove. DESIGN CHOICE (log entry 116): one that another
context left and that is not granted counts as examined, and the next granted cove after it comes. -/
def Cove.nextVictim (me : Cove) (granted : List Nat) (v : Nat) : Option Nat :=
  match me.victim with
  | some w => if granted.contains w && w != v then some w else nextInRing granted w v
  | none => nextInRing granted v v

/-- STEAL_ATTEMPT of cove `ev.n`. -/
def execStealAttempt (s : State) : Result :=
  let v := s.ev.n
  let me := s.cove v
  match me.owner with
  | none => .next s
  | some x =>
    let granted := match s.ctx? x with
      | some k => k.record.coves
      | none => []
    match me.nextVictim granted v with
    | none => .next s
    | some w =>
      if (me.ready.any fun t => t.ctx = x) || !s.dispatching x || !s.hasRoom x v then .next s
      else
        match takeFirst (fun (t : Task) => t.ctx = x) (s.cove w).ready with
        | some (t, rest) =>
          if t.home = 0xFF then
            let s := s.setCove w { s.cove w with ready := rest }
            .next (s.setCove v { me with victim := some w, ready := insertBy Task.before t me.ready })
          else .next (s.setCove v { me with victim := nextInRing granted w v })
        | none => .next (s.setCove v { me with victim := nextInRing granted w v })

/-! ## Ordered tasks (R69, R70) -/

/-- The oldest task of the cove commits: one that has ended completes; one that runs becomes non-speculative. -/
def State.commitOldest (s : State) (c i : Nat) (p : SpecPart) : State :=
  if p.ended then
    (s.commitPart c i p).endTask p.task 4 0 c (coveOf c) (p.after ++ upFrom s.serial p.words.length)
  else
    match (s.core c).threads.find? fun (_, t) => t.uid = p.uid with
    | some (j, t) => (s.setThread c j { t with spec := none }).commitPart c i p
    | none => s

/-- ORDERED_COMMIT on core `ev.n`. -/
def execOrderedCommit (s : State) : Result :=
  let c := s.ev.n
  match s.oldestPart c with
  | some (i, p) => .next (s.commitOldest c i p).flush
  | none => .next s

end Sys2Proof.Machine
end

