-- ==== Sys2Proof/Machine/Images.lean ====
section
/-! DEFINITION. What a launch leaves on a core (R10, R77, R78, R341): identity words, constant window, program-area image;
and the answers of the mailbox and of the management interface (R339, R354). -/

namespace Sys2Proof.Machine

/-! ## The state of a core after a launch -/

/-- k0-k15 (R10, R77). -/
def identityWords (r : CtxRecord) (c : Nat) : List Nat :=
  [c, coveOf c, inCove c, xOf c, yOf c, dieOf c, c / 8, r.ctx, r.cls, r.tpc, 0, 0, 0, 0, 0, 0]

/-- The bytes of k0-k15, and of the `.const` image behind them. -/
def Ctx.window (k : Ctx) (c : Nat) : List Byte := (identityWords k.record c).flatMap (leBytes 8) ++ k.constImage.take 1920

/-- The bytes of local store that a launch leaves other than 0. -/
def Ctx.image (k : Ctx) (c : Nat) : Memory :=
  Memory.store (Memory.store [] 0 (k.window c)) 0x4800 (k.localImage.take (localSize - 0x4800))

/-- The words that a launch writes, those of `.space` among them: full; every other word is empty (R78; DEDUCED against R283, log
entry 89). -/
def Ctx.imageFull (k : Ctx) : Memory :=
  (upFrom 0 256 ++ wordsOf 0x4800 (min k.localImage.length (localSize - 0x4800))).map fun w => (w, 1)

/-- KMAPCFG as a launch sets it: its reserved bits read 0 (R31). -/
def Ctx.kmapcfg (k : Ctx) : Word := k.record.kmap &&& 0x807FF1FF

/-- A core in quarantine, which no launch before its release passes serves (R338). -/
def Core.isOut (k : Core) : Bool := k.status == .quarantined || k.status == .releasing

/-- A core as a launch of a context leaves it: nothing of a previous context survives; its standing stays, but that a spare
core serves again. -/
def Core.launched (old : Core) (k : Ctx) (c : Nat) : Core :=
  { mem := k.image c, full := k.imageFull, kmapcfg := k.kmapcfg, mcap := k.record.mcap
    owner := if old.isOut then old.owner else some k.record.ctx
    status := if old.status = .spare then .normal else old.status }

/-- Errors of a core's local store gone with its contents. -/
def State.scrubbed (s : State) (c : Nat) : State :=
  { s with localErrors := s.localErrors.filter fun (d, _, _) => d != c }

/-- The worker cores of coves. -/
def workers (coves : List Nat) : List Nat := coves.flatMap fun v => (upFrom 0 63).map fun n => coreOf v n

/-- R260 step 4: the core scrubbed and its local store rewritten as the launch of the context left it; map and counters
cleared. -/
def Core.returned (old : Core) (k : Ctx) (c : Nat) : Core :=
  { old with
    mem := k.image c, full := k.imageFull, kmapcfg := k.kmapcfg, kmap := Vector.replicate 64 {}
    counters := Vector.replicate 32 {}, owner := some k.record.ctx
    mx := { old.mx with routing := Vector.replicate 64 0, fills := [] } }

/-- The core scrubbed, with no context: zero and empty. -/
def Core.emptied (old : Core) : Core :=
  { old with
    mem := [], full := [], kmapcfg := 0, kmap := Vector.replicate 64 {}, counters := Vector.replicate 32 {}, owner := none
    mx := { old.mx with routing := Vector.replicate 64 0, fills := [] } }

/-! ## Answers -/

/-- The output of a command: its status and what follows it. -/
def State.output (s : State) (status : Nat) (rest : List Byte := []) : State :=
  { s with mbox := { s.mbox with out := leBytes 4 status ++ rest } }

/-- A status that the spec does not give. -/
def State.openStatus (s : State) : State :=
  let (w, s) := s.fresh
  s.output (bits w 0 32)

/-- A mailbox command whose input is so long (R339): none runs while another is in progress, or after a
thermal shutdown (R360); before boot is complete, and
with an input of the wrong length, status 1 (R342). -/
def mailbox (s : State) (length : Nat) (f : State → State) : Result :=
  if s.mbox.busy.isSome || !s.powered then .next s
  else if s.head.boot ≠ 2 ∨ s.ev.bytes.length ≠ length then .next (s.output 1)
  else .next (f s).flush

/-- A management command (R354): before boot is complete status 1. -/
def management (s : State) (f : State → State) : Result :=
  if s.head.boot ≠ 2 then .next (s.output 1) else .next (f s).flush

/-- The context that a command names. -/
def State.named (s : State) : Nat := leNat s.ev.bytes

/-- A mailbox command remains in progress (R339). -/
def State.hold (s : State) (opcode x : Nat) : State := { s with mbox := { s.mbox with busy := some (opcode, x) } }

/-- The command in progress returns. -/
def State.returns (s : State) (status : Nat) : State :=
  { s with mbox := { busy := none, out := leBytes 4 status } }

end Sys2Proof.Machine
end

