-- ==== Sys2Proof/Machine/Threads.lean ====
section
/-! DEFINITION. Moving and ending a thread (R160-R163, R65), gangs (R45, R47, R173), block signatures and checkpoints
(R189-R192). -/

namespace Sys2Proof.Machine

/-! ## Migration (R161) -/

/-- The thread of a slot parks to depart (R42). -/
def State.departFrom (s : State) (c i : Nat) (t : Thread) (form : MigrForm) (dest : Nat) : State :=
  s.setThread c i { t with park := .await 13 (.migrate form dest) }

/-- Why a thread does not migrate to a core. -/
def State.migrTrap (s : State) (c : Nat) (t : Thread) (dest : Nat) (operand : Word) : Option (Nat × Word) :=
  if dest ≠ c ∧ !s.reachable t.ctx dest then some (11, operand)
  else if t.gang.isSome then some (12, 0) else none

/-- A migration whose target core is known. -/
def State.migrateTo (s : State) (t : Thread) (form : MigrForm) (dest : Nat) (operand : Word) : Act :=
  match s.migrTrap s.curCore t dest operand with
  | some (cause, utval) => .trap cause utval
  | none => .go fun s' => s'.onCur fun u => s'.departFrom s'.curCore s'.curSlot u form dest

/-- The core-id forms. -/
def migrate (s : State) (rs1 : Reg) (form : MigrForm) : Result :=
  run s fun t =>
    let a := s.readg t [] rs1
    s.issue t [rs1] 0 true
      (if bits a 16 48 ≠ 0 then .trap 11 a else s.migrateTo t form (bits a 0 16) a)

def execMigrS (rs1 : Reg) (s : State) : Result := migrate s rs1 .short
def execMigrL (rs1 : Reg) (s : State) : Result := migrate s rs1 .long
def execMigrH (rs1 : Reg) (s : State) : Result := migrate s rs1 .hatbox

/-- `migr.a` to the home of an address; a translated address may miss the TLB. -/
def execMigrA (rs1 : Reg) (s : State) : Result :=
  run s fun t =>
    let a := s.readg t [] rs1
    s.issue t [rs1] 0 true
      (match s.reach t.ctx s.curCore a {} with
        | .bad => .trap 11 a
        | .miss => .go fun s' => s'.onCur fun u => s'.missing u a .migrA
        | .target (.local c _) => s.migrateTo t .hatbox c a
        | .target (.phys pa) =>
          match s.home pa with
          | some c => s.migrateTo t .hatbox c a
          | none => .trap 11 a)

/-- R162: an 8-byte load that first brings the thread to the word's core. -/
def execLdf (rd rs1 : Reg) (imm : BitVec 12) (s : State) : Result :=
  run s fun t =>
    let a := s.readg t [] rs1 + simm imm
    s.issue t [rs1] rd true
      (match s.accessTrap t.ctx s.curCore a 8 false with
        | some (cause, utval) => .trap cause utval
        | none =>
          match s.localAt t.ctx s.curCore a with
          | none => .trap 4 a
          | some (c, off) =>
            if c = s.curCore then .go fun s' => s'.onCur fun u => s'.loadOwn u off 8 (.g rd 8 false)
            else if t.gang.isSome then .trap 12 0
            else if (s.core c).sealed then .trap 19 a
            else .go fun s' => s'.onCur fun u => s'.departFrom s'.curCore s'.curSlot u .ldf c)

/-! ## Ending a thread -/

/-- The signature record of a block. -/
def State.sigRecord (s : State) (t : Thread) (n : Nat) : Option SigRecord := (s.sigRecords t.ctx t.pc)[n]?

/-- R191: what the checker finds at the end of a block. -/
def State.badBlock (s : State) (t : Thread) : Bool :=
  match t.checker.cur with
  | none => false
  | some n =>
    match s.sigRecord t n with
    | some r => t.checker.fold != r.expected
    | none => true

/-- `texit` and `tretry` wait for the commands of a gang that the thread leads, and disband it (R163). -/
def endAct (s : State) (t : Thread) (f : State → State) : Act :=
  if t.gang.isSome && s.gangBusy s.curCore t then .notReady 11
  else .go fun s' => f (if t.gang.isSome then s'.breakGang s'.curCore else s')

/-- R62 step 1, and what follows: a plain or non-speculative task is done; a speculative one keeps its buffer part and
awaits its commit (R70). -/
def State.exitThread (s : State) (c i : Nat) (t : Thread) : State :=
  if t.spec.isSome then
    let k := (s.core c).onPart t fun p => { p with ended := true, uid := s.serial, after := s.fenced t }
    (({ s with serial := s.serial + 1 } : State).setCore c k).leave c i
  else s.endThread c i t 4 0

def execTexit (s : State) : Result :=
  run s fun t => s.issue t [] 0 false (endAct s t fun s' =>
    if s'.checking t && (t.checker.pending || s'.badBlock t) then s'.silentError t.ctx s'.curCore
    else s'.exitThread s'.curCore s'.curSlot t)

/-- R65. -/
def execTretry (s : State) : Result :=
  run s fun t => s.issue t [] 0 false (endAct s t fun s' =>
    if s'.checking t && t.checker.pending then s'.silentError t.ctx s'.curCore
    else s'.endThread s'.curCore s'.curSlot t 2 0)

/-! ## Gangs -/

/-- R45: 2 when the caller may not form a gang of this size. -/
def State.gangIneligible (s : State) (c i : Nat) (t : Thread) (size : Word) : Bool :=
  let n := size.toNat
  let tpc := match s.ctx? t.ctx with
    | some k => k.record.tpc
    | none => 0
  !(n == 2 || n == 4 || n == 8) || i != 15 || inOctet c % n != 0 || t.gang.isSome || tpc != 16 ||
    (gangCores c n).any isService

/-- R45: some follower's slot 15 is not empty. -/
def State.gangTaken (s : State) (c n : Nat) : Bool :=
  ((gangCores c n).drop 1).any fun d => (s.slot d 15).occ != .empty || (s.core d).sealed

/-- The code that `gang` returns. -/
def State.gangCode (s : State) (c i : Nat) (t : Thread) (size : Word) : Nat :=
  if s.gangIneligible c i t size then 2 else if s.gangTaken c size.toNat then 1 else 0

/-- The followers' slots held and the leader marked. -/
def State.formGang (s : State) (c n : Nat) : State :=
  let s := ((gangCores c n).drop 1).foldl (fun s d => s.setSlot d 15 { s.slot d 15 with occ := .held c }) s
  s.onThread c 15 fun t => { t with gang := some n }

def execGang (rd rs1 : Reg) (s : State) : Result :=
  run s fun t =>
    let size := s.readg t [] rs1
    let code := s.gangCode s.curCore s.curSlot t size
    s.issue t [rs1] rd true (.go fun s' =>
      (if code = 0 then s'.formGang s'.curCore size.toNat else s').finish rd (BitVec.ofNat 64 code))

/-- R173: it parks the leader until every member has completed the gang's commands; by any other thread it does nothing. -/
def execUngang (s : State) : Result :=
  run s fun t => s.issue t [] 0 true
    (if t.gang.isNone then .go fun s' => s'.done
     else if s.gangBusy s.curCore t then .notReady 11
     else .go fun s' => (s'.breakGang s'.curCore).done)

/-! ## Block signatures (R191) -/

/-- A successor list that restricts the next block, and does not name it. -/
def SigRecord.forbids (r : SigRecord) (n : Nat) : Bool :=
  r.succ0 != 0xFFFFFFFF && r.succ1 != 0xFFFFFFFF && r.succ0.toNat != n && r.succ1.toNat != n

/-- The silent errors of `bsig n`. -/
def State.badSig (s : State) (t : Thread) (n : Nat) : Bool :=
  let forbidden := match t.checker.cur with
    | none => false
    | some c =>
      match s.sigRecord t c with
      | some r => t.checker.fold != r.expected || r.forbids n
      | none => true
  forbidden || decide ((s.sigRecords t.ctx t.pc).length ≤ n)

def execBsig (n : BitVec 21) (s : State) : Result :=
  run s fun t => s.issue t [] 0 false (.go fun s' =>
    if s'.checking t then
      if s'.badSig t n.toNat then s'.silentError t.ctx s'.curCore
      else s'.onThread s'.curCore s'.curSlot fun u =>
        { u with pc := u.pc + 4, park := .none, fetched := none, checker := { u.checker with fold := 0, cur := some n.toNat, pending := false } }
    else s'.done)

/-! ## Checkpoints (R192) -/

/-- The checkpoint table that applies at an address. -/
def State.ckptTable (s : State) (x : Nat) (pc : Word) : Option CkptTable := (s.kernelAt x pc).bind Kernel.ckpt

/-- Whether the thread takes its pre-emption at `ckpt n`. -/
def State.takesCkpt (s : State) (t : Thread) (n : Nat) : Bool :=
  t.preq && t.gang.isNone && t.spec.isNone &&
    match s.ckptTable t.ctx t.pc with
    | some q => decide (n < q.entries.length)
    | none => false

def execCkpt (n : BitVec 21) (s : State) : Result :=
  run s fun t => s.issue t [] 0 true (.go fun s' =>
    if s'.takesCkpt t n.toNat then s'.onCur fun u => s'.await u 15 (.checkpoint n.toNat) else s'.done)

end Sys2Proof.Machine
end

