-- ==== Sys2Proof/Machine/Preempt.lean ====
section
/-! DEFINITION. Pre-emption (R253-R256, R349): the save at a checkpoint, the whole-core fallback, the vacating of a core,
CTX_PREEMPT and CTX_RESUME. -/

namespace Sys2Proof.Machine

/-! ## What a save holds -/

/-- The words of a checkpoint range, for a thread of a slot (R299). -/
def CkptRange.words (r : CkptRange) (slot : Nat) : List Nat :=
  wordsOf ((if r.rel then areaOf slot else 0) + r.offset) r.length

/-- The words of an enabled ring. -/
def Ring.words (r : Ring) : List Nat := if r.en then wordsOf (r.base.toNat * 32) (8 * r.size) else []

def SlotQueues.ringWords (q : SlotQueues) : List Nat := q.rx.words ++ q.up.words

/-- The bytes and the full-empty bits of words, as cells. -/
def Core.bytesOf (k : Core) (ws : List Nat) : List Host.Cell := ws.flatMap fun w => cellsAt (8 * w) (k.mem.bytes (8 * w) 8)
def Core.fullOf (k : Core) (ws : List Nat) : List Host.Cell := ws.map fun w => (w, k.full.read w)

/-- Saved cells rewritten. -/
def Core.rewrite (k : Core) (bytes full : List Host.Cell) : Core := { k with mem := k.mem.cells bytes, full := k.full.cells full }

/-! ## At a checkpoint (R254) -/

/-- The ranges of entry n of the table that applies to a thread. -/
def State.ckptRanges (s : State) (t : Thread) (n : Nat) : List CkptRange :=
  match s.ckptTable t.ctx t.pc with
  | some q => (q.entries[n]?).getD []
  | none => []

/-- A thread saved with its ranges, apart from its slot's enabled rings; the slot becomes reserved. -/
def State.saveThread (s : State) (c i : Nat) (t : Thread) (ranges : List CkptRange) : State :=
  let k := s.core c
  let z := k.slot i
  let rings := z.q.ringWords
  let ws := (ranges.flatMap fun r => r.words i).filter fun w => !rings.contains w
  let v : SavedThread := { core := c, slot := i, thread := { t with preq := false, park := .none, hold := 0 },
                           bytes := k.bytesOf ws, full := k.fullOf ws }
  (s.setSlot c i { z with occ := .reserved t.ctx }).onCtx t.ctx fun x => { x with saved := x.saved ++ [v] }

/-- CHECKPOINT_SAVE of the thread of core `ev.n`, slot `ev.m`, once its stores are performed at device scope: its `ckpt`
retires and its state is saved. -/
def execCheckpointSave (s : State) : Result :=
  let c := s.ev.n
  let i := s.ev.m
  match s.thread? c i with
  | none => .next s
  | some t =>
    match t.waits with
    | some (.checkpoint n) =>
      if !s.clear (s.fenced t) then .next s
      else
        let ranges := s.ckptRanges t n
        let s := s.retire c i
        .next (match s.holder? c i t.uid with
          | some u => s.saveThread c i u ranges
          | none => s).flush
    | _ => .next s

/-! ## Vacating a core (R256) -/

/-- The context that is being pre-empted from a core. -/
def State.preempted? (s : State) (c : Nat) : Option (Nat × Ctx) :=
  match (s.cove (coveOf c)).owner with
  | none => none
  | some x =>
    match s.ctx? x with
    | some k => if k.preempting && !k.away c && !isService c && decide (c < 65536) then some (x, k) else none
    | none => none

/-- PREEMPT_FALLBACK of core `ev.n`: none of its threads issues again. -/
def execPreemptFallback (s : State) : Result :=
  let c := s.ev.n
  match s.preempted? c with
  | some _ => .next (s.setCore c { s.core c with frozen := true })
  | none => .next s

/-- The core's engines hold nothing. -/
def Core.enginesIdle (k : Core) : Bool :=
  k.vqueue.isEmpty && k.vflight.isEmpty && k.copyq.isEmpty && k.copying.isNone && k.mx.hiQueue.isEmpty &&
    k.mx.loQueue.isEmpty && k.mx.run.isNone

/-- Packets of the context in flight, apart from those that wait for its vacated cores (R20). -/
def State.inFlight (s : State) (x : Nat) : Bool := s.net.any fun p => p.ctx = x && p.kind.undone && !s.keeps p

/-- No thread waits for a translation or a page, or marks a range of words. -/
def Core.noMisses (k : Core) : Bool :=
  k.threads.all fun (_, t) => t.range.isNone &&
    match t.park with
    | .await 12 _ => false
    | _ => true

/-- Every thread is swapped out: the slots are empty or reserved. -/
def Core.swappedOut (k : Core) : Bool :=
  slotNumbers.all fun i =>
    match (k.slot i).occ with
    | .empty => true
    | .reserved _ => true
    | _ => false

/-- R256: the core can be vacated. -/
def State.canVacate (s : State) (x c : Nat) : Bool :=
  let q := s.core c
  q.enginesIdle && !s.inFlight x && q.noMisses && (q.frozen || q.swappedOut)

/-- The words that a vacating save holds: the core ranges of the tables, and the enabled rings of reserved slots. -/
def Core.vacatingWords (q : Core) (k : Ctx) : List Nat :=
  let tables := k.kernels.filterMap Kernel.ckpt
  let ranges := tables.flatMap fun t => t.core.flatMap fun r => r.words 0
  ranges ++ slotNumbers.flatMap fun i =>
    match (q.slot i).occ with
    | .reserved _ => (q.slot i).q.ringWords
    | _ => []

/-- What the save of a core without threads keeps besides words: slots, map, counters, routing and combine state, the
places of waiters, the buffers of tasks that await their commit. -/
def Core.kept (q : Core) : Core :=
  { slots := q.slots, kmapcfg := q.kmapcfg, kmap := q.kmap, counters := q.counters, syncers := q.syncers, spec := q.spec
    mx := { routing := q.mx.routing, fills := q.mx.fills } }

/-- Some kernel of the context has a checkpoint table. -/
def Ctx.hasTables (k : Ctx) : Bool := k.kernels.any fun q => q.ckpt.isSome

/-- The save of a core: whole after a fallback and without checkpoint tables. -/
def Core.save (q : Core) (k : Ctx) : SavedCore :=
  if !q.frozen && k.hasTables then
    let ws := q.vacatingWords k
    { whole := false, core := q.kept, bytes := q.bytesOf ws, full := q.fullOf ws }
  else
    let slots := eachOf q.slots fun v =>
      match v.occ with
      | .thread t => { v with occ := .thread { t with preq := false, hold := 0 } }
      | _ => v
    { whole := true, core := { q with slots, arrivals := [], frozen := false }, bytes := [], full := [] }

/-- The core left behind: no slot of the context, nothing that waits. DESIGN CHOICE (log entry 122): it has no capability, so that it
admits no command of a context that is away (R235). -/
def Core.vacated (q : Core) : Core :=
  { q with slots := Vector.replicate 16 {}, arrivals := [], syncers := [], spec := Vector.replicate 4 none, frozen := false, mcap := 0 }

/-- Every granted worker core is vacated. -/
def Ctx.allAway (k : Ctx) : Bool := (workers k.record.coves).all k.away

/-- A cove that its context has let go belongs to none; a retiring one is retired (R355). -/
def Cove.letGo (v : Cove) : Cove :=
  let v := { v with owner := none }
  if v.health.state = .retiring then { v with health := { v.health with state := .retired } } else v

/-- The context that holds a cove: until a teardown frees it or every core of a pre-empted context is vacated (R349). -/
def State.holder (s : State) (v : Nat) : Option Nat :=
  (s.cove v).owner.filter fun x =>
    match s.ctx? x with
    | some k => !(k.preempting && k.allAway)
    | none => false

/-- A cove is held by a context. -/
def State.held (s : State) (v : Nat) : Bool := (s.holder v).isSome

/-- CTX_PREEMPT returns once every granted core is vacated (R349). -/
def State.preemptDone (s : State) (x : Nat) : State :=
  match s.ctx? x with
  | none => s
  | some k =>
    if k.allAway then
      let s := k.record.coves.foldl (fun s v => s.setCove v (s.cove v).letGo) s
      if s.mbox.busy = some (0xC003, x) then s.returns 0 else s
    else s

/-- The core vacated. -/
def State.vacate (s : State) (x : Nat) (k : Ctx) (c : Nat) : State :=
  let q := s.core c
  let v := s.cove (coveOf c)
  let s := s.setCove (coveOf c) { v with spill := q.arrivals ++ v.spill }
  let s := s.setCtx x { k with savedCores := put c (q.save k) k.savedCores }
  (s.setCore c q.vacated).preemptDone x

/-- CORE_VACATE of core `ev.n`. -/
def execCoreVacate (s : State) : Result :=
  let c := s.ev.n
  match s.preempted? c with
  | some (x, k) => .next (if s.canVacate x c then (s.vacate x k c).flush else s)
  | none => .next s

/-! ## The commands (R349) -/

/-- Pre-emption requested of every thread of a context. -/
def State.requestAll (s : State) (x : Nat) : State :=
  (s.threadsOf x).foldl (fun s (c, i, _) => s.onThread c i fun t => { t with preq := true }) s

/-- CTX_PREEMPT of an open context that is not pre-empted already. -/
def State.preempt (s : State) (x : Nat) : State :=
  match s.ctx? x with
  | none => s.openStatus
  | some k =>
    if k.phase ≠ .open then s.openStatus
    else if k.preempting then s.output 0
    else (((s.setCtx x { k with preempting := true }).requestAll x).hold 0xC003 x).preemptDone x

/-- CTX_PREEMPT. -/
def execCtxPreempt (s : State) : Result := mailbox s 2 fun s => s.preempt s.named

/-- n free words from the counter on. -/
def freeWords (first n : Nat) : List Word := (upFrom first n).map Config.freeWord

/-- A free number below 2^32 or a free bit. -/
def freeHalf (k : Nat) : BitVec 32 := (Config.freeWord k).extractLsb' 0 32
def freeBit (k : Nat) : Bool := (Config.freeWord k).getLsbD 0

/-- Local store behind the constant window with free contents, and free full-empty bits. -/
def freeStore (k : Ctx) (c first : Nat) : Memory :=
  Memory.store (k.image c) 0x800 ((freeWords first 12032).flatMap fun w => leBytes 8 w.toNat)
def freeFull (k : Ctx) (first : Nat) : Memory :=
  (upFrom 256 12032).foldl (fun m w => m.write w (if freeBit (first + w) then 1 else 0)) k.imageFull

/-- A vector register, an accumulator and a plane with free contents. -/
def freeVector (first : Nat) : VReg := ofElems 64 ((freeWords first 4).map fun w => w.toNat)
def freeAcc (first : Nat) : Vector (BitVec 32) 256 := Vector.ofFn fun i => freeHalf (first + i.val)
def freePlane (first : Nat) : Plane :=
  { bytes := (freeWords first 64).flatMap fun w => leBytes 8 w.toNat
    tag := if freeBit (first + 64) then some (bits (Config.freeWord (first + 65)) 0 3) else none }

/-- The free values that one core takes. -/
def freeCount : Nat := 32768

/-- What a save does not hold is free after the resume (R254: vector registers, accumulators; local store that no range
names). -/
def Core.unsaved (q : Core) (k : Ctx) (c first : Nat) : Core :=
  { q with
    mem := freeStore k c first
    full := freeFull k (first + 12032)
    v := Vector.ofFn fun i => freeVector (first + 25000 + 4 * i.val)
    mx := { q.mx with
      acc := Vector.ofFn fun i => freeAcc (first + 26000 + 256 * i.val)
      hiActive := freePlane (first + 28000), hiShadow := freePlane (first + 28100)
      loActive := freePlane (first + 28200), loShadow := freePlane (first + 28300) } }

/-- A core as the resume leaves it, before its threads return; what the save has of the core, and what stays the core's
own: standing, translations, instruction buffer, stall and refusal counts. A core released from quarantine serves the resumed context
only if it is the one that the core left (R338). -/
def Core.resumed (live : Core) (k : Ctx) (c first : Nat) (v : SavedCore) : Core :=
  let q := if v.whole then v.core else (v.core.unsaved k c first).rewrite v.bytes v.full
  { q with
    status := if live.status = .spare ∧ live.owner = some k.record.ctx then .normal else live.status
    tlb := live.tlb, ibuf := live.ibuf, stall := live.stall, lastIssued := live.lastIssued
    mnakFaulted := live.mnakFaulted, mnakRefused := live.mnakRefused, mcap := k.record.mcap
    owner := if live.isOut || live.status == .spare then live.owner else some k.record.ctx }

/-- Every saved core restored. -/
def State.restoreCores (s : State) (k : Ctx) : State :=
  k.savedCores.foldl (fun s (c, v) =>
    { s.setCore c ((s.core c).resumed k c s.free v) with free := s.free + (if v.whole then 0 else freeCount) }) s

/-- A pre-empted thread back in its slot, its ranges rewritten. -/
def State.restoreThread (s : State) (v : SavedThread) : State :=
  let q := (s.core v.core).rewrite v.bytes v.full
  s.setCore v.core (q.setSlot v.slot { q.slot v.slot with occ := .thread v.thread })


/-- A cove that a resume needs is held by another context, or is retired (R349). -/
def State.coveTaken (s : State) (x v : Nat) : Bool :=
  decide ((s.cove v).health.state = .retired) || (decide ((s.cove v).owner ≠ some x) && s.held v)

/-- CTX_RESUME of a pre-empted context. DESIGN CHOICE (log entry 116): a cove's round robin and its steal victim stand as the last context
on it has left them (R59, R61). -/
def State.resume (s : State) (x : Nat) : State :=
  match s.ctx? x with
  | none => s.openStatus
  | some k =>
    if !k.preempting then s.openStatus
    else if k.record.coves.any (s.coveTaken x) then s.output 2
    else
      let s := k.record.coves.foldl (fun s v => s.setCove v { s.cove v with owner := some x }) s
      let s := k.saved.foldl State.restoreThread (s.restoreCores k)
      (s.setCtx x { k with preempting := false, saved := [], savedCores := [] }).output 0

/-- CTX_RESUME. -/
def execCtxResume (s : State) : Result := mailbox s 2 fun s => s.resume s.named

end Sys2Proof.Machine
end

