-- ==== Sys2Proof/Machine/Awake.lean ====
section
/-! DEFINITION. The slack-water detector (R257, R258) and the end of a core's self-test (R260, R338). -/

namespace Sys2Proof.Machine

/-! ## Slack water -/

/-- The matrix unit of a core holds only commands that wait on an incomplete `mrot`. -/
def Core.matrixStuck (k : Core) : Bool :=
  match k.mx.run with
  | some r => r.needTile || r.needPlane
  | none => false

/-- R257: what a thread is parked on keeps it asleep; a wait of an `mwait` only while every unit it waits for is stuck. -/
def State.sleeps (s : State) (c i : Nat) (t : Thread) : Option Nat :=
  match t.park with
  | .retry 4 => some 4
  | .retry 5 => if (s.core ((s.slot c i).q.dnTid.toNat / 16)).sealed then none else some 5
  | .retry 11 =>
    match decode t.iword with
    | .ok .mwait => if (memberCores c t).all fun d => (s.core d).matrixStuck then some 11 else none
    | _ => none
  | .await n (.message _) => some n
  | .await n (.kwait _ _) => some n
  | .await n (.kwaitU _) => some n
  | .await n (.counter _ _) => some n
  | .await n (.data _) => if n = 8 ∨ n = 10 then some n else none
  | _ => none

/-- A slot is empty or holds a thread that sleeps. -/
def State.slotAsleep (s : State) (c i : Nat) : Bool :=
  match (s.slot c i).occ with
  | .empty => true
  | .thread t => (s.sleeps c i t).isSome
  | _ => false

/-- The units of a core hold no work that can go on. -/
def Core.unitsAsleep (k : Core) : Bool :=
  k.vqueue.isEmpty && k.vflight.isEmpty && k.copyq.isEmpty && k.copying.isNone &&
    (k.matrixStuck || (k.mx.run.isNone && k.mx.hiQueue.isEmpty && k.mx.loQueue.isEmpty))

/-- A core is asleep: its slots, its units, no arrival that can enter, no task that can commit. -/
def State.coreAsleep (s : State) (x c : Nat) : Bool :=
  let k := s.core c
  slotNumbers.all (s.slotAsleep c) && k.unitsAsleep && (k.arrivals.isEmpty || (s.freeSlot x c).isNone) &&
    (s.oldestPart c).isNone

/-- A cove holds nothing of the context that can move: no ready task, no spilled context that can go on. -/
def State.coveAsleep (s : State) (x v : Nat) : Bool :=
  !((s.cove v).ready.any fun t => t.ctx = x) &&
  !(s.cove v).spill.any fun a => a.thread.ctx = x && (s.canReturn a || (s.core a.dest).status == .contained)

/-- The queue engine has no work of the context. -/
def Ctx.engineAsleep (k : Ctx) : Bool := decide (k.phase = .open) && k.shead == k.tail && !k.preempting

/-- R257: the detector fires for the context. -/
def State.slack (s : State) (x : Nat) : Bool :=
  match s.ctx? x with
  | none => false
  | some k =>
    k.stirred && k.engineAsleep && !(s.net.any fun p => p.ctx = x && p.kind.undone) &&
    k.record.coves.all (s.coveAsleep x) && (workers k.record.coves).all (s.coreAsleep x) && !(s.threadsOf x).isEmpty

/-- SLACK_WATER for context `ev.n`: ALLASLEEP for every parked thread, with its park counter. -/
def execSlackWater (s : State) : Result :=
  let x := s.ev.n
  if s.slack x then
    let told := (s.threadsOf x).map fun (c, i, t) => (c, i, s.sleeps c i t)
    let s := told.foldl (fun s (c, i, n) => s.raise c i fun p => { p with allAsleep := some (n.getD 0) }) s
    .next (s.onCtx x fun k => { k with stirred := false }).flush
  else .next s

/-! ## Self-tests -/

/-- The context whose cove the core is in. -/
def State.coveCtx (s : State) (c : Nat) : Option Ctx := (s.cove (coveOf c)).owner.bind s.ctx?

/-- The context that a released core left, if it still holds the core's cove (R338). -/
def State.leftCtx (s : State) (c : Nat) : Option Ctx :=
  if (s.core c).owner = (s.cove (coveOf c)).owner then s.coveCtx c else none

/-- The core as a self-test that passes leaves it: empty, as a launch of its context leaves it. -/
def State.passTest (s : State) (c : Nat) : State :=
  let q := s.core c
  let q := match s.coveCtx c with
    | some k => q.returned k c
    | none => q.emptied
  (s.scrubbed c).setCore c { q with status := .normal }

/-- A released core whose self-test passes returns to the context that it left, or serves none until a later launch or that
context's resume (R338; DEDUCED, log entry 87). -/
def State.passRelease (s : State) (c : Nat) : State :=
  if (s.leftCtx c).isSome then s.passTest c
  else (s.scrubbed c).setCore c { (s.core c).emptied with owner := (s.core c).owner, status := .spare }

/-- SELF_TEST_END of core `ev.n`, with the flag a pass: a contained core returns to its context (event 6) or is
quarantined (event 7); a released one returns, or stays quarantined (event 7). In a retired cove (R355), and after a thermal shutdown
(R360), no test runs. -/
def execSelfTestEnd (s : State) : Result :=
  let c := s.ev.n
  let x := ((s.cove (coveOf c)).owner).getD 0xFFFF
  if (s.cove (coveOf c)).health.state = .retired ∨ !s.powered then .next s
  else
  match (s.core c).status, s.ev.flag with
  | .contained, true => .next ((s.passTest c).logError x 0 6 3 c).flush
  | .releasing, true => .next (s.passRelease c).flush
  | .contained, false => .next ((s.setCore c { s.core c with status := .quarantined }).logError x 0 7 3 c).flush
  | .releasing, false => .next ((s.setCore c { s.core c with status := .quarantined }).logError x 0 7 3 c).flush
  | _, _ => .next s

end Sys2Proof.Machine
end

