-- ==== Sys2Proof/Machine/Registers.lean ====
section
/-! DEFINITION. The BAR0 registers and the notify page as the host sees them (R324, R328-R338, R342, R343): what a read
returns, and what each write does. -/

namespace Sys2Proof.Machine

/-! ## Reading -/

/-- Coves in service (R342, R355). -/
def State.inService (s : State) : Nat := 1024 - (s.coves.filter fun (_, v) => v.health.state = .retired).length

/-- MODINFO (R342). -/
def State.modinfo (s : State) : Word :=
  BitVec.ofNat 64 (0x7280 * 2 ^ 48 + Config.stepping.toNat * 2 ^ 44 + s.head.boot.toNat * 2 ^ 32 + s.inService * 2 ^ 16 + 1024)

/-- QMAP[c] (R338). -/
def State.qmap (s : State) (v : Nat) : Word :=
  let bit (n : Nat) : Nat :=
    match (s.core (coreOf v n)).status with
    | .quarantined | .releasing => 2 ^ n
    | _ => 0
  BitVec.ofNat 64 ((if (s.cove v).health.state = .retired then 2 ^ 63 else 0) + ((upFrom 0 63).map bit).foldl (· + ·) 0)

/-- CRT_STAT (R334). -/
def ClassRuns.stat (c : ClassRuns) : Word :=
  BitVec.ofNat 64 (c.stray.toNat * 2 ^ 32 + boolNat (c.nearBusy || c.farBusy) * 2 ^ 8 + c.status.toNat)

/-- INV_STAT (R332). -/
def InvUnit.stat (u : InvUnit) : Word :=
  BitVec.ofNat 64 (boolNat u.ovf * 2 ^ 33 + boolNat (!u.queue.isEmpty) * 2 ^ 32 + u.done.toNat)

/-- EBUD_VAL (R337). -/
def State.ebudVal (s : State) : Word :=
  match s.ctx? s.ebudSel.toNat with
  | some k => k.ebud.zeroExtend 64
  | none => 0

/-- A page-table format register (R328). -/
def PtFormat.register (f : PtFormat) (i : Nat) : Word :=
  match i with
  | 0 => f.ctl
  | 1 => f.fields
  | 2 => f.chkMask
  | _ => f.chkVal

/-- A read of so many bytes of BAR0: only one of 64 bits that is aligned is accepted; any other, write-only registers and
offsets not listed read 0 (R324). -/
def State.bar0 (s : State) (off width : Nat) : Word :=
  if width ≠ 8 ∨ off % 8 ≠ 0 then 0
  else if 0x500 ≤ off ∧ off < 0x580 then ((s.ptfmt[(off - 0x500) / 32]?).getD {}).register ((off - 0x500) / 8 % 4)
  else if 0x2000 ≤ off ∧ off < 0x4000 then s.qmap ((off - 0x2000) / 8)
  else
    match off with
    | 0x0 => s.modinfo
    | 0x100 => s.fu.base
    | 0x108 => BitVec.ofNat 64 (boolNat s.fu.tailPhase * 2 ^ 16 + s.fu.tailIdx)
    | 0x110 => s.fu.head.zeroExtend 64
    | 0x118 => s.fu.gen.zeroExtend 64
    | 0x210 => s.inv.stat
    | 0x300 => s.crt.sel
    | 0x308 => s.crt.lo
    | 0x310 => s.crt.hi
    | 0x320 => s.crt.stat
    | 0x400 => s.ebudSel
    | 0x408 => s.ebudVal
    | _ => 0

/-- The effect of a write of a register of BAR0: with the flag, which says that the access is narrower than 64 bits, it is ignored
(R324). -/
def fullWidth (s : State) (r : Result) : Result := if s.ev.flag then .next s else r

/-! ## The fault unit (R329-R331) -/

/-- Faults that await an answer. DESIGN CHOICE (log entry 114): those of the module fault unit. -/
def FaultUnit.outstanding (f : FaultUnit) : Bool :=
  f.entries.any (fun e => e.level = 2) || f.records.any fun r => !r.answered

/-- FBUF_BASE_WRITE of the value x. -/
def execFbufBaseWrite (s : State) : Result := fullWidth s <|
  let lg := bits s.ev.x 0 5
  if (lg ≠ 0 ∧ (lg < 6 ∨ 16 < lg)) ∨ s.fu.outstanding then .next s
  else .next ({ s with fu := { s.fu with base := s.ev.x &&& 0xFFFFFFFFFFFFF81F, tailPhase := true, tailIdx := 0 } } : State).flush

/-- FBUF_HEAD_WRITE of the value x: waiting records are written. -/
def execFbufHeadWrite (s : State) : Result := fullWidth s <|
  .next ({ s with fu := { s.fu with head := s.ev.x.extractLsb' 0 16 } } : State).flush

/-- A reply to an outstanding fault on its way down. -/
def State.sendReply (s : State) (r : FaultRecord) (resolved : Bool) : State :=
  s.send { id := 0, ctx := r.ctx, core := 0, slot := 0, uid := 0, kind := .faultReply r.page resolved }

/-- FGEN_WRITE of the value x: the next generation answers every fault of an older one as resolved. -/
def execFgenWrite (s : State) : Result := fullWidth s <|
  let gen := s.ev.x.extractLsb' 0 32
  if gen = s.fu.gen + 1 then
    let open_ := s.fu.records.filter fun r => !r.answered
    let records := (s.fu.records.filter fun r => !r.written).map fun (r : FaultRecord) => { r with answered := true }
    let s := open_.foldl (fun s r => s.sendReply r true) s
    .next ({ s with fu := { s.fu with gen, records } } : State).flush
  else .next s

/-- FREPLY to the tag in x: a tag that is not outstanding is ignored. -/
def freply (s : State) (resolved : Bool) : Result := fullWidth s <|
  let tag := s.ev.x.extractLsb' 0 32
  match s.fu.records.find? fun r => r.tag = tag && r.written with
  | none => .next s
  | some r =>
    let s := s.sendReply r resolved
    .next { s with fu := { s.fu with records := s.fu.records.filter fun q => q.tag != tag } }

def execFreplyResolved (s : State) : Result := freply s true
def execFreplyDenied (s : State) : Result := freply s false

/-! ## Invalidation (R332, R333) -/

/-- A page-scope command's size of page. -/
def pageLog (size : Nat) : Nat := 12 + 9 * size

/-- The packet carries an address that a command's translations may have given, or makes a host line stored to its cache's
own (R333). -/
def Kind.translated (k : Kind) : Bool :=
  match k with
  | .fetch _ _ => true
  | .load _ _ _ => true
  | .store (.phys _) _ _ => true
  | .commit w => w.target.core?.isNone
  | .atomic (.phys _) _ _ => true
  | .spawn _ _ _ => true
  | .dec _ (some _) _ => true
  | .taskWait _ _ => true
  | .group (.phys _) _ _ => true
  | .claim (.phys _) _ => true
  | .ownership _ => true
  | _ => false

/-- Speculative tasks' parts of the buffer, those that a pre-emption has saved included. -/
def State.specParts (s : State) : List SpecPart :=
  (s.cores.flatMap fun q => q.2.spec.toList.filterMap fun p => p) ++
    s.ctxs.flatMap fun q => q.2.savedCores.flatMap fun v => v.2.core.spec.toList.filterMap fun p => p

/-- The part holds a store whose translation the command affects. -/
def SpecPart.affected (p : SpecPart) (q : InvCommand) : Bool :=
  p.words.any fun w => w.target.core?.isNone && q.hits p.task.ctx w.va.toNat 8

/-- A core's threads without the fetched words that a command affects. -/
def Core.unfetched (k : Core) (q : InvCommand) : Core :=
  { k with slots := eachOf k.slots fun v =>
      match v.occ with
      | .thread t => { v with occ := .thread { t with fetched := t.fetched.filter fun w => !q.hits t.ctx w.1.toNat 4 } }
      | _ => v }

/-- Every translation, instruction line and fetched word affected purged, the words of threads that a pre-emption has saved included. -/
def State.purge (s : State) (q : InvCommand) : State :=
  let keep (l : Leaf) : Bool := !q.hits l.ctx l.va (2 ^ l.lg)
  { s with
    cores := s.cores.map fun (e : Nat × Core) =>
      (e.1, { e.2.unfetched q with tlb := e.2.tlb.filter keep, ibuf := e.2.ibuf.filter (fun l => !q.hits l.ctx l.va 64) })
    ctxs := s.ctxs.map fun (e : Nat × Ctx) =>
      (e.1, { e.2 with savedCores := e.2.savedCores.map fun v => (v.1, { v.2 with core := v.2.core.unfetched q }) })
    coves := s.coves.map fun (e : Nat × Cove) => (e.1, { e.2 with cache := e.2.cache.filter keep }) }

/-- A command written: lost when 16 are outstanding; else it purges, and waits for the accesses already translated. -/
def State.invalidate (s : State) (q : InvCommand) : State :=
  if 16 ≤ s.inv.queue.length then { s with inv := { s.inv with ovf := true } }
  else
    let s := s.purge q
    let before := (s.net.filter fun p => p.kind.translated && (q.scope = 2 || p.ctx = q.ctx)).map fun p => p.id
    let holders := (s.specParts.filter fun p => p.affected q).map fun p => p.task.tcb.toNat
    { s with inv := { s.inv with queue := s.inv.queue ++ [(q, before, holders)] } }

/-- INV_PAGES with the value x of INV_CMD, from the page of INV_ADDR. -/
def execInvPages (s : State) : Result := fullWidth s <|
  let size := bits s.ev.x 30 2
  if size = 3 then .next s
  else
    let page := 2 ^ pageLog size
    .next (s.invalidate { scope := 0, ctx := bits s.ev.x 0 16, va := s.inv.addr.toNat / page * page,
                          bytes := bits s.ev.x 32 16 * page })

/-- INV_CONTEXT with the value x of INV_CMD. -/
def execInvContext (s : State) : Result := fullWidth s <| .next (s.invalidate { scope := 1, ctx := bits s.ev.x 0 16, va := 0, bytes := 0 })

/-- INV_ALL. -/
def execInvAll (s : State) : Result := fullWidth s <| .next (s.invalidate { scope := 2, ctx := 0, va := 0, bytes := 0 })

/-- R333: the accesses are performed; a store to host memory is in its host-line cache. -/
def State.performedAll (s : State) (ids : List Nat) : Bool :=
  !s.net.any fun p => ids.contains p.id &&
    match p.kind with
    | .snoop _ _ => false
    | _ => true

/-- R333: the stores that speculative tasks had buffered before the command are discarded, or on their way: the words of their commits
are then among the command's accesses. -/
def State.settledAll (s : State) (q : InvCommand) (tcbs : List Nat) : Bool :=
  !s.specParts.any fun p => tcbs.contains p.task.tcb.toNat && p.affected q

/-- INVALIDATION_COMPLETE of the oldest command: what accesses that were in flight have brought in since is purged too. -/
def execInvalidationComplete (s : State) : Result :=
  match s.inv.queue with
  | [] => .next s
  | (q, ids, tcbs) :: rest =>
    if s.performedAll ids && s.settledAll q tcbs then
      let s := s.purge q
      .next { s with inv := { s.inv with queue := rest, done := s.inv.done + 1 }, msix := s.msix ++ [1] }
    else .next s

/-! ## Class-run tables (R334, R335) -/

def ClassRuns.isFar (c : ClassRuns) : Bool := c.sel.getLsbD 63
def ClassRuns.index (c : ClassRuns) : Nat := bits c.sel 0 12
def ClassRuns.busy (c : ClassRuns) : Bool := c.nearBusy || c.farBusy
def ClassRuns.staging (c : ClassRuns) : List Run := if c.isFar then c.farStage else c.nearStage

/-- A run of a table set, in order of indices; a run of zeros is not listed. -/
def setRun (r : Run) (rs : List Run) : List Run :=
  let others := rs.filter fun q => q.index != r.index
  if r.lo = 0 ∧ r.hi = 0 then others else insertBy (fun a b => decide (a.index < b.index)) r others

/-- An index that the selected table has. -/
def ClassRuns.indexed (c : ClassRuns) : Bool := !c.isFar || decide (c.index < 1024)

/-- CRT_STAGE_WRITE. -/
def execCrtStageWrite (s : State) : Result := fullWidth s <|
  let c := s.crt
  if c.busy || !c.indexed then .next s
  else
    let rs := setRun { index := c.index, lo := c.lo, hi := c.hi } c.staging
    .next { s with crt := if c.isFar then { c with farStage := rs } else { c with nearStage := rs } }

/-- CRT_STAGE_READ. -/
def execCrtStageRead (s : State) : Result := fullWidth s <|
  let c := s.crt
  if c.busy || !c.indexed then .next s
  else
    match c.staging.find? fun r => r.index = c.index with
    | some r => .next { s with crt := { c with lo := r.lo, hi := r.hi } }
    | none => .next { s with crt := { c with lo := 0, hi := 0 } }

/-- Raw units of 64 KiB that a bay takes in a class. -/
def unitsPerBay (cls : Nat) : Nat := if cls = 0 then 36 else if cls = 1 then 33 else 32

/-- The raw units of a place. -/
def placeUnits (far : Bool) : Nat := if far then 12582912 else 1048576
def places (far : Bool) : Nat := if far then 8 else 16

def Run.units (r : Run) : Nat := r.count * unitsPerBay r.cls

/-- Two ranges have no element in common. -/
def apart (a n b m : Nat) : Bool := decide (a + n ≤ b) || decide (b + m ≤ a) || n == 0 || m == 0

/-- Every two elements of a list pass a test. -/
def pairwise {α : Type} (p : α → α → Bool) : List α → Bool
  | [] => true
  | a :: rest => rest.all (p a) && pairwise p rest

/-- The raw unit of a bay in a run. -/
def Run.rawAt (r : Run) (bay : Nat) : Nat := r.raw + (bay - r.first) * unitsPerBay r.cls

/-- The class, place and raw address of a bay; `none` for a hole. -/
def placeOf (rs : List Run) (bay : Nat) : Option (Nat × Nat × Nat) :=
  (runOf rs bay).map fun r => (r.cls, r.place, r.rawAt bay)

/-- Numbers in rising order, each once. -/
def sorted : List Nat → List Nat
  | [] => []
  | a :: rest =>
    let s := sorted rest
    if s.contains a then s else insertBy (fun x y => decide (x < y)) a s

/-- The ranges between neighbours of a rising list. -/
def gaps : List Nat → List (Nat × Nat)
  | a :: b :: rest => (a, b - a) :: gaps (b :: rest)
  | _ => []

/-- The ranges of bays on which both tables are uniform. -/
def pieces (a b : List Run) : List (Nat × Nat) :=
  gaps (sorted ((a ++ b).flatMap fun r => if r.valid then [r.first, r.first + r.count] else []))

/-- The ranges of bays whose class, place or raw address a new table changes. -/
def changed (old new : List Run) : List (Nat × Nat) :=
  (pieces old new).filter fun (first, _) => placeOf old first ≠ placeOf new first

/-- The bay is quiesced in a table. -/
def quiescedAt (rs : List Run) (bay : Nat) : Bool :=
  match runOf rs bay with
  | some r => r.quiesced
  | none => true

/-- The status of a commit (R335): 0 when every check passes. -/
def commitStatus (far : Bool) (old new : List Run) : Nat :=
  let live := new.filter Run.valid
  if !live.all fun r => decide (1 ≤ r.count) && decide (r.cls ≤ 2) && decide (r.place < places far) then 1
  else if !pairwise (fun a b => apart a.first a.count b.first b.count) live then 2
  else if !pairwise (fun a b => a.place != b.place || apart a.raw a.units b.raw b.units) live ||
      !live.all fun r => decide (r.raw + r.units ≤ placeUnits far) then 3
  else if !(changed old new).all fun (first, _) => quiescedAt old first then 4
  else 0

def ClassRuns.current (c : ClassRuns) (far : Bool) : List Run := if far then c.far else c.near
def ClassRuns.staged (c : ClassRuns) (far : Bool) : List Run := if far then c.farStage else c.nearStage

/-- The physical ranges of the bays that a table's staging changes. DESIGN CHOICE (log entry 101): no check refuses a run of bays
that the decoder's range does not reach; its addresses are those behind the range. -/
def State.changedBytes (s : State) (far : Bool) : List (Nat × Nat) :=
  match if far then s.hdmFar else s.hdmNear with
  | some base => (changed (s.crt.current far) (s.crt.staged far)).map fun (first, n) => (base + first * 2 ^ 21, n * 2 ^ 21)
  | none => []

def inRanges (rs : List (Nat × Nat)) (a : Nat) : Bool := rs.any fun (b, n) => decide (b ≤ a) && decide (a < b + n)

/-- CRT_COMMIT of the selected table: a failing check sets its status; else the commit is in progress, and every host copy
of a changed bay is recalled. -/
def execCrtCommit (s : State) : Result := fullWidth s <|
  let c := s.crt
  let far := c.isFar
  if c.busy then .next s
  else
    let status := commitStatus far (c.current far) (c.staged far)
    if status ≠ 0 then .next { s with crt := { c with status := BitVec.ofNat 8 status } }
    else
      let ranges := s.changedBytes far
      let s := { s with crt := if far then { c with farBusy := true } else { c with nearBusy := true } }
      .next ((s.hostCopies.filter fun (l, _) => inRanges ranges (64 * l)).foldl (fun s (l, _) => s.snoopFor l false) s)

/-- A committed table in place of the old one. -/
def ClassRuns.install (c : ClassRuns) (far : Bool) : ClassRuns :=
  if far then { c with far := c.farStage, farBusy := false, status := 0 }
  else { c with near := c.nearStage, nearBusy := false, status := 0 }

/-- CRT_COMMIT_DONE of the near table, or with the flag of the far one, once the host holds no changed line. -/
def execCrtCommitDone (s : State) : Result :=
  let far := s.ev.flag
  if !(if far then s.crt.farBusy else s.crt.nearBusy) then .next s
  else
    let ranges := s.changedBytes far
    if s.hostCopies.any fun (l, _) => inRanges ranges (64 * l) then .next s
    else
      .next { s with
        phys := ranges.foldl (fun m (b, n) => m.clear b n) s.phys
        errors := s.errors.filter fun (u, _) => !inRanges ranges (64 * u)
        crt := s.crt.install far
        msix := s.msix ++ [2] }

/-! ## Budgets, quarantine, the other registers -/

/-- EBUD_VAL_WRITE of the value x for the selected context (R337). -/
def execEbudValWrite (s : State) : Result := fullWidth s <|
  .next (s.onCtx s.ebudSel.toNat fun k => { k with ebud := s.ev.x.extractLsb' 0 32 })

/-- The release of a quarantined core of a cove in service: its self-test starts (R338), unless a thermal shutdown has stopped all work
(R360). -/
def State.releaseCore (s : State) (v n : Nat) : State :=
  let c := coreOf v n
  if (s.cove v).health.state = .retired ∨ !s.powered then s
  else if (s.core c).status = .quarantined then s.setCore c { s.core c with status := .releasing } else s

/-- QMAP_RELEASE: x written to QMAP[ev.n]. -/
def execQmapRelease (s : State) : Result := fullWidth s <|
  .next (((upFrom 0 63).filter fun n => s.ev.x.getLsbD n).foldl (fun s n => s.releaseCore s.ev.n n) s)

/-- A page-table format register written; ignored while a context uses the format (R328). -/
def State.writeFormat (s : State) (f i : Nat) (v : Word) : State :=
  if s.ctxs.any fun (_, k) => k.record.ptfmt = f then s
  else
    let old := (s.ptfmt[f]?).getD {}
    let new := match i with
      | 0 => { old with ctl := v &&& 0xFFFF07 }
      | 1 => { old with fields := v &&& 0xFFFFFFFFFFFFFF }
      | 2 => { old with chkMask := v }
      | _ => { old with chkVal := v }
    { s with ptfmt := s.ptfmt.setIfInBounds f new }

/-- A BAR0 register without a behaviour of its own written; read-only ones and offsets not listed ignore it. -/
def State.writeRegister (s : State) (off : Nat) (v : Word) : State :=
  if off % 8 ≠ 0 then s
  else if 0x500 ≤ off ∧ off < 0x580 then s.writeFormat ((off - 0x500) / 32) ((off - 0x500) / 8 % 4) v
  else
    match off with
    | 0x208 => { s with inv := { s.inv with addr := v } }
    | 0x210 => { s with inv := { s.inv with ovf := s.inv.ovf && !v.getLsbD 33 } }
    | 0x300 => { s with crt := { s.crt with sel := v &&& 0x8000000000000FFF } }
    | 0x308 => { s with crt := { s.crt with lo := v } }
    | 0x310 => { s with crt := { s.crt with hi := v &&& 0x3030F00FFFFFF } }
    | 0x320 => { s with crt := { s.crt with stray := s.crt.stray &&& ~~~v.extractLsb' 32 32 } }
    | 0x400 => { s with ebudSel := v &&& 0xFFFF }
    | _ => s

/-- REGISTER_WRITE of the value x at BAR0 offset `ev.n`, ignored with the flag, which says that the access is narrower than 64
bits (R324); with m = 1 or 2 the host programs HDM decoder 0 or 1 with the base
`ev.n`, with m = 3 the range [ev.n, ev.n + x) of another module's memory (R323, R326), with m = 4 the base `ev.n` of BAR2 (R343). -/
def execRegisterWrite (s : State) : Result :=
  match s.ev.m with
  | 0 => fullWidth s <| .next (s.writeRegister s.ev.n s.ev.x)
  | 1 => .next { s with hdmNear := some s.ev.n }
  | 2 => .next { s with hdmFar := some s.ev.n }
  | 4 => .next { s with bar2 := some s.ev.n }
  | _ => .next { s with peers := s.peers ++ [(s.ev.n, s.ev.x.toNat)] }

end Sys2Proof.Machine
end

