-- ==== Sys2Proof/Machine/Shake.lean ====
section
/-! DEFINITION. SHAKE256 with a 64-byte output, the hash of images (R350, R351). Its permutation of 25 lanes is computed from the
standard's own rules: rotation amounts by the walk over the lanes, round constants by the shift register. -/

namespace Sys2Proof.Machine

/-- The lane in column x and row y of a state written row by row. -/
def lane (st : List Word) (x y : Nat) : Word := (st[y % 5 * 5 + x % 5]?).getD 0

/-- A state from a rule for the lane in column x and row y. -/
def lanes (f : Nat → Nat → Word) : List Word := (upFrom 0 25).map fun k => f (k % 5) (k / 5)

/-- How far the lane at (x, y) is rotated: it is the t-th on the walk from (1, 0) that goes from (u, v) to (v, 2u + 3v). -/
def spin (x y : Nat) : Nat → Nat → Nat × Nat → Nat
  | 0, _, _ => 0
  | steps + 1, t, (u, v) =>
    if u = x ∧ v = y then (t + 1) * (t + 2) / 2 % 64 else spin x y steps (t + 1) (v, (2 * u + 3 * v) % 5)

/-- The shift register of eight bits after one step: the bit that leaves it at the top returns at places 0, 4, 5 and 6. -/
def shifted (r : Nat) : Nat := if r < 128 then 2 * r else (2 * r - 256) ^^^ 0x71

/-- The constant of a round read off the register, whose bit j stands at place 2^j - 1, and the register after it. -/
def roundConstant (r : Nat) : Nat → Nat → Word × Nat
  | 0, _ => (0, r)
  | n + 1, j =>
    let (w, r') := roundConstant (shifted r) n (j + 1)
    (w ||| (BitVec.ofNat 64 (r % 2) <<< (2 ^ j - 1)), r')

/-- One round: columns mixed, lanes rotated and moved, rows mixed, the constant added to the first lane. -/
def permuteRound (st : List Word) (rc : Word) : List Word :=
  let parity (x : Nat) : Word := (upFrom 0 5).foldl (fun w y => w ^^^ lane st x y) 0
  let mixed (x y : Nat) : Word := lane st x y ^^^ parity (x + 4) ^^^ (parity (x + 1)).rotateLeft 1
  let columns := lanes mixed
  let moved := lanes fun x y =>
    let u := (x + 3 * y) % 5
    (lane columns u x).rotateLeft (spin u x 24 0 (1, 0))
  lanes fun x y =>
    let row := lane moved x y ^^^ (lane moved (x + 2) y &&& ~~~lane moved (x + 1) y)
    if x = 0 ∧ y = 0 then row ^^^ rc else row

/-- Rounds one after another, with the register that gives their constants. -/
def permute : Nat → Nat → List Word → List Word
  | 0, _, st => st
  | n + 1, r, st =>
    let (rc, r') := roundConstant r 7 0
    permute n r' (permuteRound st rc)

/-- A block of 136 bytes added to the first 17 lanes, and the 24 rounds. -/
def absorb (st : List Word) (block : List Byte) : List Word :=
  permute 24 1 (lanes fun x y => lane st x y ^^^ BitVec.ofNat 64 (leNat ((block.drop (8 * (5 * y + x))).take 8)))

/-- The message in whole blocks, then its last block with the bits that end it. -/
def absorbAll (st : List Word) (m : List Byte) : Nat → List Word
  | 0 =>
    let last : List Byte := m ++ [0x1F] ++ List.replicate (135 - m.length) 0
    absorb st (last.take 135 ++ (last.drop 135).map fun b => b ||| 0x80)
  | n + 1 => absorbAll (absorb st (m.take 136)) (m.drop 136) n

/-- SHAKE256 with an output of 64 bytes. -/
def shake256 (m : List Byte) : List Byte :=
  ((absorbAll (lanes fun _ _ => 0) m (m.length / 136)).take 8).flatMap fun w => leBytes 8 w.toNat

end Sys2Proof.Machine
end

