-- ==== Sys2Proof/Machine/Boot.lean ====
section
/-! DEFINITION. Reset and boot (R350, R351), attestation (R352) and firmware updates (R353). -/

namespace Sys2Proof.Machine

/-! ## Packages (R353) -/

/-- n bytes of a package from an offset, as a number. -/
def packNum (bs : List Byte) (off n : Nat) : Nat := leNat ((bs.drop off).take n)

def packKind (bs : List Byte) : Nat := packNum bs 0 2
def packSecurity (bs : List Byte) : Nat := packNum bs 4 4
def packVersion (bs : List Byte) : Nat := packNum bs 8 8
def packLength (bs : List Byte) : Nat := packNum bs 16 8
def packImage (bs : List Byte) : List Byte := (bs.drop 128).take (packLength bs)

/-- The signature behind the image. -/
def packSignature (bs : List Byte) : List Byte := bs.drop (130 + packLength bs)

/-- The lengths that the package states are those of its parts. -/
def packLengths (bs : List Byte) : Bool :=
  decide (130 + packLength bs ≤ bs.length) && decide (packLength bs ≤ 2 ^ 26) &&
    decide ((packSignature bs).length = packNum bs (128 + packLength bs) 2)

/-- The first check that a package fails, as a status of FW_COMMIT; a kind that is unknown has no stored minimum. -/
def packStatus (bs : List Byte) (minimum : Nat → Nat) : Nat :=
  if !packLengths bs then 7
  else if !Config.updateVerify (bs.take (128 + packLength bs)) (packSignature bs) then 6
  else if shake256 (packImage bs) ≠ (bs.drop 24).take 64 then 7
  else if packKind bs = 0 ∨ 4 < packKind bs then 9
  else if packSecurity bs < minimum (packKind bs) then 8
  else if packNum bs 2 2 ≠ 0 ∨ packNum bs 88 40 ≠ 0 then 9
  else 0

/-- The image stored for a kind: at manufacture, or by an update. -/
def Headland.image (h : Headland) (kind : Nat) : Image :=
  (find? kind h.images).getD { package := Config.storedPackage kind, minSecurity := Config.minSecurity kind }

/-! ## The measurement log (R351) -/

/-- Bytes 0 to 79 of a record; the other 16 are 0. -/
def measurement (index kind : Nat) (failed : Bool) (package : List Byte) : List Byte :=
  leBytes 4 index ++ leBytes 2 kind ++ leBytes 2 (boolNat failed) ++ leBytes 8 (packVersion package) ++
    shake256 (packImage package)

/-- A record in the log, and the accumulator. -/
def Headland.measure (h : Headland) (kind : Nat) (failed : Bool) (package : List Byte) : Headland :=
  let r := measurement h.log.length kind failed package
  { h with log := h.log ++ [r ++ List.replicate 16 0], accum := shake256 (h.accum ++ r) }

/-- The stored image of a kind checked, measured and started; a new one raises its minimum (R353). The answer is false if
the check fails. -/
def Headland.start (h : Headland) (kind : Nat) : Bool × Headland :=
  let i := h.image kind
  if packStatus i.package (fun k => (h.image k).minSecurity) = 0 ∧ packKind i.package = kind then
    let i' : Image := if i.fresh then { i with minSecurity := packSecurity i.package, fresh := false } else i
    (true, { h.measure kind false i.package with images := put kind i' h.images })
  else (false, h.measure kind true i.package)

/-- The images started in order; a failure stops the boot. -/
def Headland.bootAll (h : Headland) : List Nat → Headland
  | [] => { h with boot := 2 }
  | kind :: rest =>
    match h.start kind with
    | (true, h) => h.bootAll rest
    | (false, h) => { h with boot := 3 }

/-! ## Reset (R350) -/

/-- The runs that the headland commits at boot (R334): each place's bays at raw 0, in class F. -/
def bootRuns (places stride count : Nat) : List Run :=
  (upFrom 0 places).map fun p =>
    { index := p, lo := BitVec.ofNat 64 (count * 2 ^ 32 + stride * p), hi := BitVec.ofNat 64 (2 ^ 48 + p * 2 ^ 32) }

def bootTables : ClassRuns :=
  let near := bootRuns 16 32768 29127
  let far := bootRuns 8 393216 349525
  { near, far, nearStage := near, farStage := far }

/-- What a reset leaves before the ROM runs: the reset state, with memory, the stored images and the coves' health. -/
def State.cold (s : State) : State :=
  { State.reset with
    agenda := s.agenda, tick := s.tick, free := s.free, serial := s.serial, ev := s.ev
    phys := s.phys, errors := s.errors
    coves := s.coves.map fun (e : Nat × Cove) => (e.1, { health := e.2.health })
    head := { images := s.head.images } }

/-- MODULE_RESET; after a thermal shutdown only with the flag, a power cycle (R360). -/
def execModuleReset (s : State) : Result :=
  if !s.powered && !s.ev.flag then .next s
  else
    let s := s.cold
    let head := s.head.bootAll [1, 2, 3, 4]
    .next { s with head, crt := if head.boot = 2 then bootTables else {} }

/-! ## Attestation (R352) -/

/-- A command that the mailbox answers while boot has not failed, and with the flag the management interface, in every boot
state (R339, R350; DEDUCED, log entry 91). -/
def anyTime (s : State) (length : Nat) (f : State → State) : Result :=
  if !s.ev.flag && (s.mbox.busy.isSome || s.head.boot == 3) then .next s
  else if s.ev.bytes.length ≠ length then .next (s.output 1)
  else .next (f s)

/-- The report over a nonce, without its signature. -/
def State.report_ (s : State) (nonce : List Byte) : List Byte :=
  leBytes 4 1 ++ leBytes 4 s.head.log.length ++ leBytes 8 s.modinfo.toNat ++ nonce ++ s.head.accum ++ s.head.log.flatten

/-- ATTEST. -/
def execAttest (s : State) : Result :=
  anyTime s 32 fun s =>
    let body := s.report_ s.ev.bytes
    let signature := (Config.identitySign body s.free).take 2048
    ({ s with free := s.free + 1 } : State).output 0 (body ++ leBytes 2 signature.length ++ signature)

/-- GET_CERTS. -/
def execGetCerts (s : State) : Result :=
  anyTime s 0 fun s =>
    s.output 0 ((upFrom 0 3).flatMap fun i =>
      let c := Config.certificate i
      leBytes 2 c.length ++ c)

/-! ## Updates (R353) -/

/-- FW_STAGE: a piece of up to 4 KiB at offset `ev.n`. -/
def execFwStage (s : State) : Result :=
  if s.mbox.busy.isSome || !s.powered then .next s
  else if s.head.boot ≠ 2 ∨ 4096 < s.ev.bytes.length then .next (s.output 1)
  else
    let h := s.head
    .next (({ s with head := { h with
      staged := Memory.store h.staged s.ev.n s.ev.bytes
      stagedLen := max h.stagedLen (s.ev.n + s.ev.bytes.length) } } : State).output 0)

/-- The staged package. DESIGN CHOICE (log entry 119): a byte that no piece has brought is 0. -/
def Headland.stagedPackage (h : Headland) : List Byte := Memory.bytes h.staged 0 h.stagedLen

/-- FW_COMMIT: an accepted package becomes its kind's stored image, for the next reset. DESIGN CHOICE (log entry 119): the staging area is
empty after it, whatever the status. -/
def execFwCommit (s : State) : Result :=
  mailbox s 0 fun s =>
    let h := s.head
    let bs := h.stagedPackage
    let kind := packKind bs
    let status := packStatus bs fun k => (h.image k).minSecurity
    let h := { h with staged := [], stagedLen := 0 }
    let h := if status = 0 then
        { h with images := put kind { package := bs, minSecurity := (h.image kind).minSecurity, fresh := true } h.images }
      else h
    ({ s with head := h } : State).output status

end Sys2Proof.Machine
end

