-- ==== Sys2Proof/Machine/Integer.lean ====
section
/-! DEFINITION. Integer arithmetic, multiply and divide (R138, R139). -/

namespace Sys2Proof.Machine

/-- The low 32 bits. -/
def low32 (x : Word) : BitVec 32 := x.extractLsb' 0 32

/-- A 64-bit 0 or 1. -/
def bool64 (b : Bool) : Word := if b then 1 else 0

/-- The upper immediate, sign-extended (R138). -/
def upper (imm : BitVec 20) : Word := ((imm ++ (0 : BitVec 12)) : BitVec 32).signExtend 64

/-! ## Immediates and upper immediates -/

def execLui (rd : Reg) (imm : BitVec 20) (s : State) : Result := compute s rd [] fun _ => upper imm
def execAuipc (rd : Reg) (imm : BitVec 20) (s : State) : Result := compute s rd [] fun t => t.pc + upper imm
def execAddi (rd rs1 : Reg) (imm : BitVec 12) (s : State) : Result := compute1 s rd rs1 fun a => a + simm imm
def execSlti (rd rs1 : Reg) (imm : BitVec 12) (s : State) : Result := compute1 s rd rs1 fun a => bool64 (a.slt (simm imm))
def execSltiu (rd rs1 : Reg) (imm : BitVec 12) (s : State) : Result := compute1 s rd rs1 fun a => bool64 (a.ult (simm imm))
def execXori (rd rs1 : Reg) (imm : BitVec 12) (s : State) : Result := compute1 s rd rs1 fun a => a ^^^ simm imm
def execOri (rd rs1 : Reg) (imm : BitVec 12) (s : State) : Result := compute1 s rd rs1 fun a => a ||| simm imm
def execAndi (rd rs1 : Reg) (imm : BitVec 12) (s : State) : Result := compute1 s rd rs1 fun a => a &&& simm imm
def execSlli (rd rs1 : Reg) (sh : BitVec 6) (s : State) : Result := compute1 s rd rs1 fun a => a <<< sh.toNat
def execSrli (rd rs1 : Reg) (sh : BitVec 6) (s : State) : Result := compute1 s rd rs1 fun a => a >>> sh.toNat
def execSrai (rd rs1 : Reg) (sh : BitVec 6) (s : State) : Result := compute1 s rd rs1 fun a => a.sshiftRight sh.toNat
def execAddiw (rd rs1 : Reg) (imm : BitVec 12) (s : State) : Result :=
  compute1 s rd rs1 fun a => w32 (low32 (a + simm imm))
def execSlliw (rd rs1 : Reg) (sh : BitVec 5) (s : State) : Result := compute1 s rd rs1 fun a => w32 (low32 a <<< sh.toNat)
def execSrliw (rd rs1 : Reg) (sh : BitVec 5) (s : State) : Result := compute1 s rd rs1 fun a => w32 (low32 a >>> sh.toNat)
def execSraiw (rd rs1 : Reg) (sh : BitVec 5) (s : State) : Result :=
  compute1 s rd rs1 fun a => w32 ((low32 a).sshiftRight sh.toNat)

/-! ## Register forms -/

def execAdd (rd rs1 rs2 : Reg) (s : State) : Result := compute2 s rd rs1 rs2 fun a b => a + b
def execSub (rd rs1 rs2 : Reg) (s : State) : Result := compute2 s rd rs1 rs2 fun a b => a - b
def execSll (rd rs1 rs2 : Reg) (s : State) : Result := compute2 s rd rs1 rs2 fun a b => a <<< bits b 0 6
def execSlt (rd rs1 rs2 : Reg) (s : State) : Result := compute2 s rd rs1 rs2 fun a b => bool64 (a.slt b)
def execSltu (rd rs1 rs2 : Reg) (s : State) : Result := compute2 s rd rs1 rs2 fun a b => bool64 (a.ult b)
def execXor (rd rs1 rs2 : Reg) (s : State) : Result := compute2 s rd rs1 rs2 fun a b => a ^^^ b
def execSrl (rd rs1 rs2 : Reg) (s : State) : Result := compute2 s rd rs1 rs2 fun a b => a >>> bits b 0 6
def execSra (rd rs1 rs2 : Reg) (s : State) : Result := compute2 s rd rs1 rs2 fun a b => a.sshiftRight (bits b 0 6)
def execOr (rd rs1 rs2 : Reg) (s : State) : Result := compute2 s rd rs1 rs2 fun a b => a ||| b
def execAnd (rd rs1 rs2 : Reg) (s : State) : Result := compute2 s rd rs1 rs2 fun a b => a &&& b
def execAddw (rd rs1 rs2 : Reg) (s : State) : Result := compute2 s rd rs1 rs2 fun a b => w32 (low32 (a + b))
def execSubw (rd rs1 rs2 : Reg) (s : State) : Result := compute2 s rd rs1 rs2 fun a b => w32 (low32 (a - b))
def execSllw (rd rs1 rs2 : Reg) (s : State) : Result := compute2 s rd rs1 rs2 fun a b => w32 (low32 a <<< bits b 0 5)
def execSrlw (rd rs1 rs2 : Reg) (s : State) : Result := compute2 s rd rs1 rs2 fun a b => w32 (low32 a >>> bits b 0 5)
def execSraw (rd rs1 rs2 : Reg) (s : State) : Result :=
  compute2 s rd rs1 rs2 fun a b => w32 ((low32 a).sshiftRight (bits b 0 5))

/-! ## Multiply (R139) -/

/-- Bits [127:64] of a product of 128-bit operands. -/
def highProduct (a b : BitVec 128) : Word := (a * b).extractLsb' 64 64

def execMul (rd rs1 rs2 : Reg) (s : State) : Result := compute2 s rd rs1 rs2 fun a b => a * b
def execMulh (rd rs1 rs2 : Reg) (s : State) : Result :=
  compute2 s rd rs1 rs2 fun a b => highProduct (a.signExtend 128) (b.signExtend 128)
def execMulhsu (rd rs1 rs2 : Reg) (s : State) : Result :=
  compute2 s rd rs1 rs2 fun a b => highProduct (a.signExtend 128) (b.zeroExtend 128)
def execMulhu (rd rs1 rs2 : Reg) (s : State) : Result :=
  compute2 s rd rs1 rs2 fun a b => highProduct (a.zeroExtend 128) (b.zeroExtend 128)
def execMulw (rd rs1 rs2 : Reg) (s : State) : Result := compute2 s rd rs1 rs2 fun a b => w32 (low32 (a * b))

/-! ## Divide (R139): truncation toward zero, the remainder with the dividend's sign; a divisor of 0 gives all ones and
the dividend; the one overflow gives the dividend and 0. -/

def divS {w : Nat} (a b : BitVec w) : BitVec w := if b = 0 then BitVec.allOnes w else a.sdiv b
def divU {w : Nat} (a b : BitVec w) : BitVec w := if b = 0 then BitVec.allOnes w else a / b
def remS {w : Nat} (a b : BitVec w) : BitVec w := if b = 0 then a else a.srem b
def remU {w : Nat} (a b : BitVec w) : BitVec w := if b = 0 then a else a % b

def execDiv (rd rs1 rs2 : Reg) (s : State) : Result := compute2 s rd rs1 rs2 divS
def execDivu (rd rs1 rs2 : Reg) (s : State) : Result := compute2 s rd rs1 rs2 divU
def execRem (rd rs1 rs2 : Reg) (s : State) : Result := compute2 s rd rs1 rs2 remS
def execRemu (rd rs1 rs2 : Reg) (s : State) : Result := compute2 s rd rs1 rs2 remU
def execDivw (rd rs1 rs2 : Reg) (s : State) : Result := compute2 s rd rs1 rs2 fun a b => w32 (divS (low32 a) (low32 b))
def execDivuw (rd rs1 rs2 : Reg) (s : State) : Result := compute2 s rd rs1 rs2 fun a b => w32 (divU (low32 a) (low32 b))
def execRemw (rd rs1 rs2 : Reg) (s : State) : Result := compute2 s rd rs1 rs2 fun a b => w32 (remS (low32 a) (low32 b))
def execRemuw (rd rs1 rs2 : Reg) (s : State) : Result := compute2 s rd rs1 rs2 fun a b => w32 (remU (low32 a) (low32 b))

end Sys2Proof.Machine
end

