-- ==== Sys2Proof/Machine/Control.lean ====
section
/-! DEFINITION. Jumps and branches (R140), the predicate word (R142), constant-window loads (R143), ECALL and EBREAK
(R157), `tret` (R158), and what takes an instruction's place: an ILLEGAL word (R134), a fetch fault (R141), an
asynchronous cause (R249). -/

namespace Sys2Proof.Machine

/-! ## Jumps and branches (R140) -/

def execJal (rd : Reg) (imm : BitVec 20) (s : State) : Result :=
  run s fun t => s.issue t [] rd false (.go fun s' =>
    (s'.writeg s'.curCore s'.curSlot rd (t.pc + 4)).goTo (t.pc + offset imm))

/-- The target of JALR, computed before rd is written. -/
def jalrTarget (a : Word) (imm : BitVec 12) : Word := (a + simm imm) &&& ~~~1

def execJalr (rd rs1 : Reg) (imm : BitVec 12) (s : State) : Result :=
  run s fun t =>
    let target := jalrTarget (s.readg t [] rs1) imm
    s.issue t [rs1] rd false
      (if target.getLsbD 1 then .trap 3 target
       else .go fun s' => (s'.writeg s'.curCore s'.curSlot rd (t.pc + 4)).goTo target)

/-- A branch on two g registers. -/
def branch (s : State) (rs1 rs2 : Reg) (imm : BitVec 12) (cond : Word → Word → Bool) : Result :=
  run s fun t =>
    let taken := cond (s.readg t [] rs1) (s.readg t [rs1] rs2)
    s.issue t [rs1, rs2] 0 false (.go fun s' => s'.goTo (if taken then t.pc + offset imm else t.pc + 4))

def condEq (a b : Word) : Bool := a == b
def condNe (a b : Word) : Bool := a != b
def condLt (a b : Word) : Bool := a.slt b
def condGe (a b : Word) : Bool := !a.slt b
def condLtu (a b : Word) : Bool := a.ult b
def condGeu (a b : Word) : Bool := !a.ult b

def execBeq (rs1 rs2 : Reg) (imm : BitVec 12) (s : State) : Result := branch s rs1 rs2 imm condEq
def execBne (rs1 rs2 : Reg) (imm : BitVec 12) (s : State) : Result := branch s rs1 rs2 imm condNe
def execBlt (rs1 rs2 : Reg) (imm : BitVec 12) (s : State) : Result := branch s rs1 rs2 imm condLt
def execBge (rs1 rs2 : Reg) (imm : BitVec 12) (s : State) : Result := branch s rs1 rs2 imm condGe
def execBltu (rs1 rs2 : Reg) (imm : BitVec 12) (s : State) : Result := branch s rs1 rs2 imm condLtu
def execBgeu (rs1 rs2 : Reg) (imm : BitVec 12) (s : State) : Result := branch s rs1 rs2 imm condGeu

/-! ## The predicate word (R142) -/

/-- `pcmp`: a predicate bit from two g registers; p0 ignores the write but the operands are read. -/
def pcmp (s : State) (rd rs1 rs2 : Reg) (cond : Word → Word → Bool) : Result :=
  run s fun t =>
    let b := cond (s.readg t [] rs1) (s.readg t [rs1] rs2)
    s.issue t [rs1, rs2] 0 false (.go fun s' => s'.finishWith fun u => u.setP rd b)

def execPcmpEq (rd rs1 rs2 : Reg) (s : State) : Result := pcmp s rd rs1 rs2 condEq
def execPcmpNe (rd rs1 rs2 : Reg) (s : State) : Result := pcmp s rd rs1 rs2 condNe
def execPcmpLt (rd rs1 rs2 : Reg) (s : State) : Result := pcmp s rd rs1 rs2 condLt
def execPcmpGe (rd rs1 rs2 : Reg) (s : State) : Result := pcmp s rd rs1 rs2 condGe
def execPcmpLtu (rd rs1 rs2 : Reg) (s : State) : Result := pcmp s rd rs1 rs2 condLtu
def execPcmpGeu (rd rs1 rs2 : Reg) (s : State) : Result := pcmp s rd rs1 rs2 condGeu

/-- A predicate bit from two predicate bits. -/
def plogic (s : State) (rd rs1 rs2 : Reg) (op : Bool → Bool → Bool) : Result :=
  run s fun t => s.issue t [] 0 false (.go fun s' => s'.finishWith fun u => u.setP rd (op (t.pbit rs1) (t.pbit rs2)))

def execPand (rd rs1 rs2 : Reg) (s : State) : Result := plogic s rd rs1 rs2 fun a b => a && b
def execPor (rd rs1 rs2 : Reg) (s : State) : Result := plogic s rd rs1 rs2 fun a b => a || b
def execPxor (rd rs1 rs2 : Reg) (s : State) : Result := plogic s rd rs1 rs2 fun a b => a != b
def execPandn (rd rs1 rs2 : Reg) (s : State) : Result := plogic s rd rs1 rs2 fun a b => a && !b

/-- P as read whole: bit 0 is always 1. -/
def Thread.predicates (t : Thread) : Word := (t.p ||| 1).zeroExtend 64

def execPmov (rd : Reg) (s : State) : Result := compute s rd [] fun t => t.predicates

def execPwr (rs1 : Reg) (s : State) : Result :=
  run s fun t =>
    let v := low32 (s.readg t [] rs1)
    s.issue t [rs1] 0 false (.go fun s' => s'.finishWith fun u => { u with p := v ||| 1 })

def execCsel (rd rs1 rs2 : Reg) (p : BitVec 5) (s : State) : Result :=
  compute s rd [rs1, rs2] fun t => if t.pbit p then s.readg t [] rs1 else s.readg t [rs1] rs2

/-- `bp` and `bnp`. -/
def predBranch (s : State) (p : BitVec 5) (imm : BitVec 12) (want : Bool) : Result :=
  run s fun t => s.issue t [] 0 false (.go fun s' =>
    s'.goTo (if t.pbit p = want then t.pc + offset imm else t.pc + 4))

def execBp (p : BitVec 5) (imm : BitVec 12) (s : State) : Result := predBranch s p imm true
def execBnp (p : BitVec 5) (imm : BitVec 12) (s : State) : Result := predBranch s p imm false

/-! ## Constant-window loads (R143) -/

def execLdk (rd : Reg) (n : BitVec 8) (s : State) : Result :=
  run s fun t => s.issue t [] rd false (.go fun s' => s'.readLocal t.ctx (8 * n.toNat) 8 fun w s'' => s''.finish rd w)

def execFldk (rd : Reg) (n : BitVec 8) (s : State) : Result :=
  run s fun t => s.issue t [] 0 false (.go fun s' =>
    s'.readLocal t.ctx (8 * n.toNat) 8 fun w s'' => s''.finishWith fun u => u.setF rd (low32 w))

/-! ## Traps and returns -/

def execEcall (s : State) : Result := run s fun t => s.issue t [] 0 true (.trap 7 0)
def execEbreak (s : State) : Result := run s fun t => s.issue t [] 0 true (.trap 8 0)
def execTret (s : State) : Result :=
  run s fun t => s.issue t [] 0 true (.go fun s' => s'.trapReturn s'.curCore s'.curSlot)

/-- R134: UTVAL receives the word. Nothing is read or popped. -/
def execIllegalWord (s : State) : Result := run s fun t => s.trap 1 (t.iword.zeroExtend 64)

/-- R141: UEPC and UTVAL receive the PC. -/
def execFetchFault (s : State) : Result :=
  run s fun t => s.trapAt s.curCore s.curSlot { cause := 4, utval := t.pc, fetch := true }

/-- R249: the first pending asynchronous cause taken in place of the thread's next issue. -/
def execAsyncTrap (s : State) : Result :=
  run s fun t => if t.handler then s else s.takeAsync s.curCore s.curSlot

end Sys2Proof.Machine
end

