-- ==== Sys2Proof/Machine/Copies.lean ====
section
/-! DEFINITION. The copy engine (R185-R188, R218): a command starts, words are written in any order, the last write gives
the signal, a copy fails. -/

namespace Sys2Proof.Machine

/-! ## Failing (R188) -/

/-- The copy in execution stops; its thread takes COPY_FAULT, one that is swapped out once it is back; if the thread has left, the
context is killed. -/
def State.failCopy (s : State) (c : Nat) (q : CopyCmd) (addr : Word) : State :=
  let s := s.setCore c { s.core c with copying := none }
  let note (p : Pending) : Pending := { p with copyFault := some (p.copyFault.getD addr) }
  match s.holder? q.core q.slot q.uid with
  | some _ => s.raise q.core q.slot note
  | none =>
    if s.swapped q.core q.slot q.uid then s.onOwner q.core q.slot q.uid fun t => { t with pend := note t.pend }
    else s.kill q.ctx 23 0xFFFF

/-! ## Starting -/

/-- A gather's block lies in canonical translated memory (R218). -/
def State.blockSound (s : State) (c : Nat) (q : CopyCmd) : Bool :=
  q.gather.isNone || (s.window q.ctx c q.src == .translated && (s.rangeTrap q.ctx c q.src q.len).isNone)

/-- COPY_START: the engine of core `ev.n` starts the next command of its queue. -/
def execCopyStart (s : State) : Result :=
  let c := s.ev.n
  let k := s.core c
  match k.copying, k.copyq with
  | none, q :: rest =>
    let s := s.setCore c { k with copyq := rest, copying := some { cmd := q, todo := if q.len = 0 then [] else [(0, q.len / 8)] } }
    .next (if s.blockSound c q then s else (s.failCopy c q q.src)).flush
  | _, _ => .next s

/-! ## Words to be written -/

/-- The number of words from a word on that a list of ranges still holds. -/
def wordsFrom (i : Nat) : List (Nat × Nat) → Nat
  | [] => 0
  | (a, n) :: rest => if a ≤ i ∧ i < a + n then a + n - i else wordsFrom i rest

/-- A range of words taken out of a list of ranges. -/
def takeWords (i k : Nat) : List (Nat × Nat) → List (Nat × Nat)
  | [] => []
  | (a, n) :: rest =>
    if a ≤ i ∧ i < a + n then
      (if a < i then [(a, i - a)] else []) ++ (if i + k < a + n then [(i + k, a + n - (i + k))] else []) ++ rest
    else (a, n) :: takeWords i k rest

/-- The words that one write moves: from the word asked for, or the first that is left, at most so many, within one
64-byte unit of the source. -/
def CopyRun.pick (r : CopyRun) (want many : Nat) : Nat × Nat :=
  let i := if wordsFrom want r.todo = 0 then ((r.todo.head?).map fun q => q.1).getD 0 else want
  let unit := 8 - (r.cmd.src.toNat / 8 + i) % 8
  (i, min (min (max many 1) unit) (wordsFrom i r.todo))

/-- No word of the source unit that holds word i has been read yet: its check counts now (R187). -/
def CopyRun.untouched (r : CopyRun) (i : Nat) : Bool :=
  let place := (r.cmd.src.toNat / 8 + i) % 8
  let first := i - min place i
  let last := min (i + (8 - place)) (r.cmd.len / 8)
  (upFrom first (last - first)).all fun j => wordsFrom j r.todo != 0

/-! ## Moving words -/

/-- Where an address of a copy leads; `none`: a page fault. The engine's misses are served as a thread's (R185). -/
def State.copyTarget (s : State) (x c : Nat) (a : Word) (write : Bool) : Option Target × State :=
  match s.window x c a with
  | .store d off => (some (.local d off), s)
  | _ =>
    match s.tlb? c x a { write } with
    | some pa => (some (.phys pa), s)
    | none =>
      match s.serve c x a { write } with
      | (some pa, s) => (some (.phys pa), s)
      | (none, s) => (none, s)

/-- A read of physical memory finds poison, without a charge. -/
def State.badPhys (s : State) (pa n : Nat) : Bool :=
  s.isStray pa ||
    match s.errorAt pa n, s.classAt pa with
    | none, _ => false
    | some _, 1 => true
    | some .uncorrectable, 2 => false
    | some .uncorrectable, _ => true
    | some .correctable, _ => false

/-- Words of a core's local store checked one by one for a unit (R85): the places of those that are poison. -/
def State.checkWords (s : State) (x unit c : Nat) : List Nat → Nat → List Nat × State
  | [], _ => ([], s)
  | w :: rest, i =>
    match s.checkLocal x unit c (8 * w) 8 9 with
    | (.ok, s) => s.checkWords x unit c rest (i + 1)
    | (_, s) =>
      let (bad, s) := s.checkWords x unit c rest (i + 1)
      (i :: bad, s)

/-- Parts of memory, one in each unit, checked for a copy: those that carry poison. An error counts where `count` says so. -/
def State.checkParts (s : State) (x c pa : Nat) (va : Word) (count : Bool) : List (Nat × Nat) → List (Nat × Nat) × State
  | [] => ([], s)
  | (o, m) :: rest =>
    let (bad, s) : Bool × State :=
      if count then
        match s.checkPhys x c (pa + o) m (va + BitVec.ofNat 64 o) 9 with
        | (check, s) => (check != .ok, s)
      else (s.badPhys (pa + o) m, s)
    let (parts, s) := s.checkParts x c pa va count rest
    (if bad then (o, m) :: parts else parts, s)

/-- The words, by their places in a range, that meet some of its parts. -/
def wordsMeeting (n : Nat) (parts : List (Nat × Nat)) : List Nat :=
  (upFrom 0 (n / 8)).filter fun i => parts.any fun (o, m) => decide (o < 8 * i + 8) && decide (8 * i < o + m)

/-- The source's error check, unit by unit (R187): the words, by their places, that carry poison. -/
def State.checkSource (s : State) (x c : Nat) (t : Target) (n : Nat) (va : Word) (count : Bool) : List Nat × State :=
  match t with
  | .local d off => s.checkWords x c d (wordsOf off n) 0
  | .phys pa =>
    let (parts, s) := s.checkParts x c pa va count (unitParts pa n)
    (wordsMeeting n parts, s)

/-- The full-empty bits of words written by a `copy.fe` or a gather set (R186); none after teardown (R348). -/
def State.signalFull (s : State) (q : CopyCmd) (d off n : Nat) : State :=
  let fill := if s.alive q.ctx then s.fillWords d (wordsOf off n) else s
  match q.signal with
  | .full => fill
  | .fullCounter _ _ => fill
  | _ => s

/-- Bytes of a copy written to memory: unit by unit, each with its own check (R85). -/
def State.writeUnits (s : State) (x c pa : Nat) (bs : List Byte) (va : Word) : State :=
  if (s.notify? pa).isSome then s.storePhys x c pa bs va 10
  else
    (unitParts pa bs.length).foldl
      (fun s (o, m) => s.storePhys x c (pa + o) ((bs.drop o).take m) (va + BitVec.ofNat 64 o) 10) s

/-- The words written at their destination, with the poison that some of them carry, and what each line of the destination leaves
for system scope (R325). -/
def State.writeWords (s : State) (c : Nat) (q : CopyCmd) (t : Target) (bs : List Byte) (bad : List Nat) (va : Word) : State :=
  match t with
  | .local d off =>
    let s := s.storeRange q.ctx d off bs 10
    (bad.foldl (fun s i => s.poisonLocal d (off + 8 * i) 8) s).signalFull q d off bs.length
  | .phys pa =>
    let s := s.writeUnits q.ctx c pa bs va
    let s := if s.isStray pa || (s.notify? pa).isSome then s else bad.foldl (fun s i => s.poisonPhys (pa + 8 * i) 8) s
    (unitsOf pa bs.length).foldl (fun s u => s.leave_ q.ctx c (64 * u)) s

/-- The add of one write to the copy's counter (R186); none after teardown (R76). -/
def State.signalWrite (s : State) (c : Nat) (q : CopyCmd) (n : Nat) : State :=
  let add (core idx : Nat) : State :=
    if s.alive q.ctx then
      s.send { id := 0, ctx := q.ctx, core := c, slot := q.slot, uid := 0, kind := .counter core idx n }
    else s
  match q.signal with
  | .counter core idx => add core idx
  | .fullCounter core idx => add core idx
  | _ => s

/-- A core that the copy touches: sealed (the copy fails), or one from which the context stays vacated (it waits). -/
def State.copySealed (s : State) (t : Target) : Bool :=
  match t with
  | .local d _ => (s.core d).sealed
  | .phys _ => false

def State.copyAway (s : State) (x : Nat) (t : Target) : Bool :=
  match t with
  | .local d _ => s.away x d
  | .phys _ => false

/-- The engine waits for a page (R185, R252). -/
def State.copyFaults (s : State) (c : Nat) (r : CopyRun) (va : Word) (kind : BitVec 4) : State :=
  (s.setCore c { s.core c with copying := some { r with fault := some va } }).sendFault r.cmd.ctx c va kind

/-- The first of some words that carry poison whose destination is of class N (R187). -/
def State.lostWord (s : State) (dst : Target) (bad : List Nat) : Option Nat :=
  match dst with
  | .phys pa => bad.find? fun j => s.classAt (pa + 8 * j) == 2
  | .local _ _ => none

/-- Words moved, both addresses translated. DESIGN CHOICE (log entry 97): where poison meets a class N destination, UTVAL names the
source address of the first word that carries it. -/
def State.moveWords (s : State) (c : Nat) (r : CopyRun) (i k : Nat) (src dst : Target) : State :=
  let q := r.cmd
  let sa := q.src + BitVec.ofNat 64 (8 * i)
  let da := q.dst + BitVec.ofNat 64 (8 * i)
  if s.copySealed src then s.failCopy c q sa
  else if s.copySealed dst then s.failCopy c q da
  else if s.copyAway q.ctx src || s.copyAway q.ctx dst then s
  else
    let bs := s.engineBytes q.uid q.issued src (8 * k)
    let (bad, s) := s.checkSource q.ctx c src (8 * k) sa (r.untouched i)
    if (s.core c).copying.isNone then s
    else
      match s.lostWord dst bad with
      | some j => s.failCopy c q (sa + BitVec.ofNat 64 (8 * j))
      | none =>
        let s := s.setCore c { s.core c with copying := some { r with todo := takeWords i k r.todo, fault := none } }
        (s.writeWords c q dst bs bad da).signalWrite c q (8 * k)

/-- How many words from word i on lie in one page of the destination. -/
def pageWords (dst : Word) (i k : Nat) : Nat := min k (512 - (dst.toNat / 8 + i) % 512)

/-- COPY_WRITE on core `ev.n`: at most `ev.m` words from word `ev.x` of the copy. DESIGN CHOICE (log entry 80): a block whose source
is not a multiple of 8 is copied by words from there on; one that crosses the end of a page has its last bytes read from those that
lie physically behind. -/
def execCopyWrite (s : State) : Result :=
  let c := s.ev.n
  match (s.core c).copying with
  | none => .next s
  | some r =>
    if r.fault.isSome || r.todo.isEmpty then .next s
    else
      let q := r.cmd
      let (i, many) := r.pick s.ev.x.toNat s.ev.m
      let k := pageWords q.dst i many
      let sa := q.src + BitVec.ofNat 64 (8 * i)
      let da := q.dst + BitVec.ofNat 64 (8 * i)
      match s.copyTarget q.ctx c sa false with
      | (none, s) => .next (s.copyFaults c r sa 9).flush
      | (some src, s) =>
        match s.copyTarget q.ctx c da true with
        | (none, s) => .next (s.copyFaults c r da 10).flush
        | (some dst, s) =>
          .next ((match src with
            | .phys pa => s.withLines (unitsOf pa (8 * k)) fun s => s.moveWords c r i k src dst
            | .local _ _ => s.moveWords c r i k src dst)).flush

/-- COPY_COMPLETE on core `ev.n`: `copy.tk` decrements its TCB once the last write is performed (R186). -/
def execCopyComplete (s : State) : Result :=
  let c := s.ev.n
  match (s.core c).copying with
  | none => .next s
  | some r =>
    if !r.todo.isEmpty then .next s
    else
      let q := r.cmd
      let s := s.setCore c { s.core c with copying := none }
      .next (match q.signal with
        | .task tcb =>
          if s.alive q.ctx then
            s.send { id := 0, ctx := q.ctx, core := q.core, slot := q.slot, uid := 0, kind := .dec tcb none q.cove }
          else s
        | _ => s).flush

end Sys2Proof.Machine
end

