-- ==== Sys2Proof/Machine/TaskEvents.lean ====
section
/-! DEFINITION. What homes do for tasks, groups and nests: spawns (R54), decrements (R55, R56), `twait` (R63), group
operations (R171), claims (R67), adds to counters (R66), and the end of a task (R62). -/

namespace Sys2Proof.Machine

/-! ## Spawns, decrements, waits -/

/-- A spawn at the TCB's home (R54, R363). -/
def State.spawnHome (s : State) (p : Packet) (va : Word) (pa cove : Nat) : State :=
  match s.checkPhys p.ctx p.core pa 64 va with
  | (.mismatch, s) => s.replyTo p (.trap 19 va)
  | (.poison, s) => s.replyTo p .poison
  | (.ok, s) =>
    let s := s.healPhys pa 64
    let t := s.tcbTask p.ctx va pa
    let status := s.tcbStatus pa
    if !s.awaits p then s
    else if status ≠ 0 ∧ status ≠ 4 then s.replyTo p (.trap 13 va)
    else if s.tcbInvalid t then s.replyTo p (.trap 14 va)
    else
      let (v, s) := s.spawnAt t pa cove
      (s.leave_ p.ctx p.core pa).replyTo p (.value (BitVec.ofNat 64 v))

/-- TCB_SPAWN_AT_HOME. -/
def execTcbSpawnAtHome (s : State) : Result :=
  onPacket s fun p =>
    match p.kind with
    | .spawn va pa cove => s.withOwned pa fun s => s.spawnHome p va pa cove
    | _ => s

/-- A decrement from a counter's trigger, a copy or a successor list finds its TCB by the part's own translation; a page
fault is serviced, and the decrement waits (R252, R330). -/
def State.placeDec (s : State) (p : Packet) (va : Word) (cove : Nat) : State :=
  match s.own p.ctx va false with
  | (some pa, s) =>
    if s.isPeer pa then s.dropPacket p.id
    else s.withOwned pa fun s => ((s.dropPacket p.id).decrement p.ctx p.core va pa cove).leave_ p.ctx p.core pa
  | (none, s) =>
    if !s.alive p.ctx then s.dropPacket p.id
    else s.partFault p.ctx cove va

/-- PRED_DECREMENT (R56). -/
def execPredDecrement (s : State) : Result :=
  onPacket s fun p =>
    match p.kind with
    | .dec va (some pa) cove =>
      s.withOwned pa fun s =>
        ((s.decrement p.ctx p.core va pa cove Access.dec.kind).announce p.core p.broadcast (.phys (pa + 48)) 8).settlePacket p (.phys pa)
    | .dec va none cove => s.placeDec p va cove
    | _ => s

/-- TWAIT_AT_HOME (R63): the thread's place at the home, and the reply at once if the task has ended. -/
def execTwaitAtHome (s : State) : Result :=
  onPacket s fun p =>
    match p.kind with
    | .taskWait va pa =>
      (match s.checkPhys p.ctx p.core pa 64 va with
        | (.mismatch, s) => s.replyTo p (.trap 19 va)
        | (.poison, s) => s.replyTo p .poison
        | (.ok, s) =>
          if s.awaits p then
            let w : HomeWaiter := { target := .phys pa, va, ctx := p.ctx, core := p.core, slot := p.slot, uid := p.uid }
            { (s.healPhys pa 64).dropPacket p.id with taskWaits := s.taskWaits ++ [w] }
          else s)
    | _ => s

/-! ## Objects at a home -/

/-- The check of an object's data for a thread that awaits a reply: nothing wrong, or the reply (R85, R260). -/
def State.objectCheck (s : State) (p : Packet) (t : Target) (n : Nat) (va : Word) : Option Reply × State :=
  match t with
  | .local c off =>
    if (s.core c).sealed then (some (.trap 19 va), s)
    else
      (match s.checkLocal p.ctx p.core c off n 3 with
        | (.ok, s) => (none, s.healLocal c (wordsOf off n))
        | (_, s) => (some .poison, s))
  | .phys pa =>
    match s.checkPhys p.ctx p.core pa n va 3 with
    | (.ok, s) => (none, s.healPhys pa n)
    | (.mismatch, s) => (some (.trap 19 va), s)
    | (.poison, s) => (some .poison, s)

/-- n bytes at a target as a number. -/
def State.readAt (s : State) (t : Target) (n : Nat) : Nat :=
  match t with
  | .local c off => (s.localLoad c off n).toNat
  | .phys pa => (s.phys.load pa n).toNat

def State.writeAt (s : State) (t : Target) (n v : Nat) : State :=
  match t with
  | .local c off => (s.setCore c ((s.core c).store off n (BitVec.ofNat 64 v))).amend t (leBytes n v)
  | .phys pa => ({ s with phys := s.phys.save pa n (BitVec.ofNat 64 v) } : State).amend t (leBytes n v)

/-- A request at an object's home: it waits until the host line is owned (R92). -/
def State.atHome (s : State) (t : Target) (f : State → State) : State :=
  match t with
  | .local _ _ => f s
  | .phys pa => s.withOwned pa f

/-- The completion check of a group (R171): the phase ends, and every parked caller is answered. -/
def State.checkGroup (s : State) (t : Target) : State :=
  let members := s.readAt t 4
  if 0 < members ∧ members ≤ s.readAt (t.plus 4) 4 then
    let s := (s.writeAt (t.plus 4) 4 0).writeAt (t.plus 8) 8 (s.readAt (t.plus 8) 8 + 1)
    let mine := s.barriers.filter fun w => w.target = t
    mine.foldl (fun s w =>
      s.send { id := 0, ctx := w.ctx, core := w.core, slot := w.slot, uid := w.uid, kind := .reply (.value 0) })
      { s with barriers := s.barriers.filter fun w => !decide (w.target = t) }
  else s

/-- A group operation on an object whose data is sound. -/
def State.groupHome (s : State) (p : Packet) (t : Target) (op : GroupOp) (va : Word) : State :=
  let members := s.readAt t 4
  match op with
  | .join =>
    if members = 0xFFFFFFFF then s.replyTo p (.trap 15 va)
    else (s.writeAt t 4 (members + 1)).replyTo p (.value 0)
  | .leave =>
    if members = 0 then s.replyTo p (.trap 15 va)
    else ((s.writeAt t 4 (members - 1)).replyTo p (.value 0)).checkGroup t
  | .bar =>
    let s := (s.writeAt (t.plus 4) 4 (s.readAt (t.plus 4) 4 + 1)).dropPacket p.id
    let w : HomeWaiter := { target := t, ctx := p.ctx, core := p.core, slot := p.slot, uid := p.uid }
    ({ s with barriers := s.barriers ++ [w] } : State).checkGroup t

/-- What a part's write at a target leaves for system scope. -/
def State.leaveAt (s : State) (p : Packet) (t : Target) : State :=
  match t with
  | .local _ _ => s
  | .phys pa => s.leave_ p.ctx p.core pa

/-- GROUP_OP_AT_HOME. -/
def execGroupOpAtHome (s : State) : Result :=
  onPacket s fun p =>
    match p.kind with
    | .group t op va =>
      s.atHome t fun s =>
        (match s.objectCheck p t 16 va with
          | (some r, s) => s.replyTo p r
          | (none, s) => if s.awaits p then (s.groupHome p t op va).leaveAt p t else s)
    | _ => s

/-- The size of the next chunk of a nest (R67). -/
def chunk (left par : Nat) : Nat := min left (max 1 ((left + 2 * par - 1) / (2 * par)))

/-- A claim on a descriptor whose data is sound (R67). -/
def State.claimHome (s : State) (p : Packet) (t : Target) (va : Word) : State :=
  let next := s.readAt t 8
  let total := s.readAt (t.plus 8) 8
  let nx := s.readAt (t.plus 16) 4
  let ny := s.readAt (t.plus 20) 4
  let par := s.readAt (t.plus 28) 4
  if nx = 0 ∨ 2 ^ 24 ≤ nx ∨ ny = 0 ∨ 2 ^ 24 ≤ ny ∨ par = 0 ∨ 2 ^ 40 ≤ total then s.replyTo p (.trap 2 va)
  else
    let c := chunk (total - next) par
    let field (n i : Nat) : Word := BitVec.ofNat 64 (n * 2 ^ 40) ||| BitVec.ofNat 64 i
    (s.writeAt t 8 (next + c)).replyTo p (.claim (field nx next) (field ny (next + c)) (BitVec.ofNat 64 c))

/-- ITCLAIM_AT_HOME. -/
def execItclaimAtHome (s : State) : Result :=
  onPacket s fun p =>
    match p.kind with
    | .claim t va =>
      s.atHome t fun s =>
        (match s.objectCheck p t 32 va with
          | (some r, s) => s.replyTo p r
          | (none, s) => if s.awaits p then (s.claimHome p t va).leaveAt p t else s)
    | _ => s

/-- COUNTER_ADD (R66); an add to a sealed core, or to one of a cove that is powered off, is discarded (R260, R355). -/
def execCounterAdd (s : State) : Result :=
  onPacket s fun p =>
    match p.kind with
    | .counter core idx amount =>
      if (s.core core).sealed || s.coveOff core then s.dropPacket p.id
      else (s.dropPacket p.id).addCounter core idx amount
    | _ => s

/-! ## The end of a task (R62) -/

/-- Words of a context's translated memory read by the part, each checked (R363); `none`: unreadable. -/
def State.listWords (s : State) (x unit : Nat) : List Word → Option (List Word) × State
  | [] => (some [], s)
  | va :: rest =>
    match s.own x va false with
    | (none, s) => (none, s)
    | (some pa, s) =>
      match s.checkPhys x unit pa 8 va 9 with
      | (.ok, s) =>
        (match s.listWords x unit rest with
          | (some ws, s) => (some (s.phys.load pa 8 :: ws), s)
          | (none, s) => (none, s))
      | (_, s) => (none, s)

/-- The successors of a task (R51); `none`: the list is unreadable, misaligned or too long. -/
def State.successors (s : State) (t : Task) (unit : Nat) : Option (List Word) × State :=
  if t.succ = 0 then (some [], s)
  else if t.succ.toNat % 8 ≠ 0 ∨ s.window t.ctx unit t.succ ≠ .translated then (none, s)
  else
    match s.listWords t.ctx unit [t.succ] with
    | (some [n], s) =>
      if 1024 < n.toNat then (none, s)
      else s.listWords t.ctx unit ((upFrom 1 n.toNat).map fun i => t.succ + BitVec.ofNat 64 (8 * i))
    | (_, s) => (none, s)

/-- The completion record of a task with REPORT (R62, R346). -/
def State.report (s : State) (p : Packet) (t : Task) (status cause unit : Nat) : State :=
  if t.report then s.record t.ctx { tcb := t.tcb, status, cause, unit, kind := 0, after := p.after } else s

/-- The successors of a task that is done decremented in list order, and then its record (R55, R62). An address that names no TCB
(R54) is passed over; one whose page is absent, or whose host line is not owned yet, holds up what follows it in the list (R82, R252).
A task whose `texit` issued before a termination releases its successors too (R348); DESIGN CHOICE (log entry 44): one whose page is
absent then is passed over. -/
def State.release (s : State) (p : Packet) (t : Task) (unit cove : Nat) : List Word → State
  | [] => (s.dropPacket p.id).report p t 4 0 unit
  | va :: rest =>
    if (s.tcbTrap t.ctx unit va).isSome then s.release p t unit cove rest
    else
      let waits (s : State) : State := s.turnPacket p.id (.releases t (va :: rest) unit cove)
      match s.own t.ctx va false with
      | (none, s) => if s.alive t.ctx then (waits s).partFault t.ctx cove va else s.release p t unit cove rest
      | (some pa, s) =>
        if s.isPeer pa then s.release p t unit cove rest
        else if s.region pa = .host ∧ !s.owned.contains (pa / 64) then (waits s).ownFor (pa / 64)
        else ((s.decrement t.ctx unit va pa cove).leave_ t.ctx unit pa).release p t unit cove rest

/-- The cause that a context's aborted tasks carry (R348). -/
def State.endCause (s : State) (x : Nat) : Nat :=
  match s.ctx? x with
  | some k => k.cause.toNat
  | none => 29

/-- The end of a task that executed `texit`: its list read, its status, and what follows the change. Where its TCB cannot be read,
nothing is released and nobody is told (R363). -/
def State.endDone (s : State) (p : Packet) (t : Task) (unit cove : Nat) : State :=
  match s.successors t unit with
  | (none, s) =>
    (match s.changeStatus t unit 5 with
      | (true, s) => (s.dropPacket p.id).report p t 5 14 unit
      | (false, s) => s.dropPacket p.id)
  | (some vs, s) =>
    match s.changeStatus t unit 4 with
    | (true, s) => s.release p t unit cove vs
    | (false, s) => s.dropPacket p.id

/-- A task ends, or goes back to ready (R62, R64, R65). DESIGN CHOICE (log entry 120): one whose way back to ready a termination overtakes
ends as aborted, with a record (R348). -/
def State.endAtHome (s : State) (p : Packet) (t : Task) (status cause unit cove : Nat) : State :=
  if status = 4 then s.endDone p t unit cove
  else
    let s := s.dropPacket p.id
    if status = 2 then
      (if s.alive t.ctx then (s.markTask t unit 2).enqueue cove t
       else (s.markTask t unit 6).report p t 6 (s.endCause t.ctx) unit)
    else (s.markTask t unit status).report p t status cause unit

/-- The successor list of a task that is done is read once the host has given up its lines (R325). -/
def State.withList (s : State) (t : Task) (status : Nat) (f : State → State) : State :=
  if status ≠ 4 ∨ t.succ = 0 then f s
  else
    s.withBytes t.ctx t.succ 8 fun s =>
      match s.own t.ctx t.succ false with
      | (some pa, _) => s.withBytes t.ctx t.succ (8 + 8 * min 1024 (s.phys.load pa 8).toNat) f
      | (none, _) => f s

/-- The first address that the part needs for the end of a task and cannot translate: of its TCB, or of the list of a task that
is done. After teardown nothing is waited for. -/
def State.endLacks (s : State) (t : Task) (status : Nat) : Option Word :=
  if !s.alive t.ctx then none
  else if (s.own t.ctx t.tcb false).1.isNone then some t.tcb
  else if status = 4 then s.listLacks t else none

/-- TASK_COMPLETION. While a page of its TCB or list is absent, the end waits for the driver (R252); a release that was held up goes
on. -/
def execTaskCompletion (s : State) : Result :=
  onPacket s fun p =>
    match p.kind with
    | .ended t status cause unit cove =>
      (match s.endLacks t status with
        | some va => s.partFault t.ctx cove va
        | none => s.withList t status fun s => s.endAtHome p t status cause unit cove)
    | .releases t vs unit cove => s.release p t unit cove vs
    | _ => s

end Sys2Proof.Machine
end

