-- ==== Sys2Proof/Machine/FaultEvents.lean ====
section
/-! DEFINITION. Translation misses and page faults: the fill (R251), the combining tree (R330), the replies (R252, R331). -/

namespace Sys2Proof.Machine

/-! ## The fill (R251) -/

/-- The entries that a request completing after a fill must follow. -/
def State.entries (s : State) (c pa n : Nat) : List Nat := (s.overlapping c (.phys pa) n).map fun p => p.id

/-- A load of a speculative thread that its own buffered bytes cover, else a request (R69, R146), behind the commits under way
(R70). DESIGN CHOICE (log entry 77): a load that missed the TLB is not supplied by the store buffer after the fill; it goes to its
home behind the entries that it overlaps. -/
def State.fillLoad (s : State) (c i : Nat) (t : Thread) (pa n : Nat) (dest : Dest) (va : Word) : State :=
  let ws := s.specWords c t
  if (specBytes ws (.phys pa) n).all Option.isSome then s.loaded c i dest (overlay ws (.phys pa) n 0)
  else s.requestLoad c i t (.phys pa) n dest va (s.entries c pa n ++ s.commitsBefore c t (.phys pa) n)

def State.fillStore (s : State) (c i : Nat) (t : Thread) (pa n : Nat) (v va : Word) : State :=
  if t.spec.isSome then (s.bufferStore c t (.phys pa) n v va).retire c i
  else (s.enterBuffer c i t (.phys pa) n va (.store (.phys pa) n v)).retire c i

/-- `migr.a` with its address translated (R161). -/
def State.fillMigr (s : State) (c i : Nat) (t : Thread) (pa : Nat) (va : Word) : State :=
  match s.home pa with
  | none => s.trapAt c i { cause := 11, utval := va }
  | some d =>
    match s.migrTrap c t d va with
    | some (cause, utval) => s.trapAt c i { cause, utval }
    | none => s.departFrom c i t .hatbox d

/-- The parked access completes without reissuing (R145); what peer memory does not serve raises ADDRESS (R326). DESIGN CHOICE: an atomic
that overlaps entries of the store buffer then goes to its home behind them (log entry 77); the queue words that an instruction read at
issue stay consumed where this ADDRESS is found after it (R136, log entry 118). -/
def State.complete (s : State) (c i : Nat) (t : Thread) (acc : Access) (va : Word) (pa : Nat) : State :=
  let onOwn (f : State) : State := if s.isPeer pa then s.trapAt c i { cause := 4, utval := va } else f
  match acc with
  | .fetch =>
    (s.setThread c i { t with park := .await 2 (.fetchData va) }).send
      { id := 0, ctx := t.ctx, core := c, slot := i, uid := t.uid, kind := .fetch va pa }
  | .load n dest => s.fillLoad c i t pa n dest va
  | .store n v => s.fillStore c i t pa n v va
  | .atomic a => onOwn (s.sendAtomic c i t (.phys pa) a va (s.entries c pa a.n))
  | .migrA => s.fillMigr c i t pa va
  | .spawn rd => onOwn (s.askSpawn c i t rd va pa)
  | .dec => onOwn (s.sendDec c i t va pa)
  | .wait rd => onOwn (s.askWait c i t rd va pa)
  | .group op => onOwn (s.askGroup c i t op va (.phys pa))
  | .claim rd => onOwn (s.askClaim c i t rd va (.phys pa))
  | .trigger n => onOwn ((s.armTrigger c t n va).retire c i)

/-- The access of a packet's thread waits for room in the store buffer, or for an earlier store that it will overlap, one whose page
the driver has still to answer included (R146). -/
def State.entryWaits (s : State) (p : Packet) (t : Thread) (acc : Access) (va : Word) : Bool :=
  match acc.entry t with
  | none => false
  | some (k, n) =>
    s.bufferBusy p.core ||
      match (s.serve p.core t.ctx va acc.need).1 with
      | some pa => s.net.any fun q => q.core = p.core && decide (q.id < p.id) && s.missOver (.phys (pa + k)) n q
      | none => false

/-- A page that is absent or forbids the access becomes a fault: the thread stays parked and its task is held (R252). Its miss keeps
its place among those of its core until the reply (R146). -/
def State.pageFault (s : State) (c i : Nat) (t : Thread) (acc : Access) (va : Word) : State :=
  ((s.setThread c i { t with park := .await 12 (.fault acc va) }).markTask t.task c 7).sendFault t.ctx c va acc.kind

/-- The answer of the cove service core to a thread's miss. -/
def State.fillFor (s : State) (p : Packet) (t : Thread) (acc : Access) (va : Word) : State :=
  match s.serve p.core t.ctx va acc.need with
  | (some pa, s) => (s.dropPacket p.id).complete p.core p.slot t acc va pa
  | (none, s) => s.pageFault p.core p.slot t acc va

/-- TLB_FILL; an access that needs a store-buffer entry completes once one is free, in issue order among those that overlap. -/
def execTlbFill (s : State) : Result :=
  onPacket s fun p =>
    match p.kind with
    | .tlbMiss va acc =>
      (match s.waiter? p with
        | some (t, .translate _ _) =>
          if s.entryWaits p t acc va then s else s.fillFor p t acc va
        | some (_, .fault _ _) => s
        | _ => s.dropPacket p.id)
    | _ => s

/-! ## The combining tree (R330) -/

def FaultEntry.matches_ (e : FaultEntry) (level node x page : Nat) : Bool :=
  e.level == level && e.node == node && e.ctx == x && e.page == page

/-- The number of entries of a table. -/
def levelSize : Nat → Nat
  | 0 => 64
  | 1 => 256
  | _ => 4096

def FaultUnit.entry? (f : FaultUnit) (level node x page : Nat) : Option FaultEntry :=
  f.entries.find? fun e => e.matches_ level node x page

/-- A port added to an entry. -/
def FaultUnit.addPort (f : FaultUnit) (level node x page port : Nat) : FaultUnit :=
  { f with entries := f.entries.map fun e =>
      if e.matches_ level node x page then { e with ports := if e.ports.contains port then e.ports else e.ports ++ [port] } else e }

def FaultUnit.full (f : FaultUnit) (level node : Nat) : Bool :=
  decide (levelSize level ≤ (f.entries.filter fun e => e.level = level && e.node = node).length)

/-- The child port through which a message of a core reaches a level, and the node there. -/
def portAt (level unit : Nat) : Nat :=
  match level with
  | 0 => unit
  | 1 => coveOf unit
  | _ => dieOf unit

def nodeAt (level unit : Nat) : Nat :=
  match level with
  | 0 => coveOf unit
  | 1 => dieOf unit
  | _ => 0

/-! ## The replies (R252, R331) -/

/-- A thread's parked access answered: its miss is translated afresh, or denied and gone. On a denial with h = 0 a pending asynchronous cause
goes first, and the access is withdrawn with no effect (R249). -/
def State.answerThread (s : State) (c i : Nat) (t : Thread) (acc : Access) (va : Word) (resolved : Bool) : State :=
  let s := s.markTask t.task c 3
  if resolved then s.setThread c i { t with park := .await 12 (.translate acc va) }
  else
    let s := s.withdraw t.uid
    if t.pend.first.isSome && !t.handler then s.setThread c i { t with park := .none }
    else s.trapAt c i { cause := 20, utval := va, fetch := acc == .fetch }

/-- The threads of a core parked on the page answered. -/
def State.answerCore (s : State) (x page c : Nat) (resolved : Bool) : State :=
  slotNumbers.foldl (fun s i =>
    match s.thread? c i with
    | some t =>
      match t.waits with
      | some (.fault acc va) =>
        if t.ctx = x ∧ pageOf va = page then s.answerThread c i t acc va resolved else s
      | _ => s
    | none => s) s

/-- The copy engine of a core answered: it goes on, or its copy fails (R188). -/
def State.answerEngine (s : State) (x page c : Nat) (resolved : Bool) : State :=
  match (s.core c).copying with
  | some r =>
    match r.fault with
    | some va =>
      if r.cmd.ctx = x ∧ pageOf va = page then
        (if resolved then s.setCore c { s.core c with copying := some { r with fault := none } } else s.failCopy c r.cmd va)
      else s
    | none => s
  | none => s

/-- What a denied page makes of a packet of the part that waits for it: a decrement is lost; the end of a task whose TCB it
holds is told to nobody, as for a TCB that cannot be read (R363); a task whose list it holds is faulted (R62); of a list of
successors its first is passed over. -/
def State.denied (s : State) (page cove : Nat) (p : Packet) : Option Packet :=
  match p.kind with
  | .dec va none v => if v = cove ∧ pageOf va = page then none else some p
  | .ended t status _ unit v =>
    if v ≠ cove then some p
    else
      match s.endLacks t status with
      | some va =>
        if pageOf va ≠ page then some p
        else if va = t.tcb then none else some { p with kind := .ended t 5 14 unit v }
      | none => some p
  | .releases t (va :: rest) unit v =>
    if v = cove ∧ pageOf va = page then some { p with kind := .releases t rest unit v } else some p
  | _ => some p

/-- The packets of the part that wait for a denied page. -/
def State.denyPart (s : State) (x page cove : Nat) : State :=
  { s with net := s.net.filterMap fun p => if p.ctx = x then s.denied page cove p else some p }

/-- A launch whose page is denied returns NOMAP (R341). -/
def State.denyLoad (s : State) (x : Nat) : State :=
  match s.ctx? x with
  | some k =>
    if k.phase = .loading then
      { s with ctxs := drop x s.ctxs, mbox := { busy := none, out := leBytes 4 4 } }
    else s
  | none => s

/-- An entry freed. -/
def State.freeEntry (s : State) (level node x page : Nat) : State :=
  { s with fu := { s.fu with entries := s.fu.entries.filter fun e => !e.matches_ level node x page } }

/-- A reply at a cove: its entry freed, its waiting cores answered. -/
def State.answerCove (s : State) (x page v : Nat) (resolved : Bool) : State :=
  match s.fu.entry? 0 v x page with
  | none => s
  | some e =>
    let s := s.freeEntry 0 v x page
    let s := e.ports.foldl (fun s c => (s.answerCore x page c resolved).answerEngine x page c resolved) s
    if resolved then s else (s.denyPart x page v).denyLoad x

/-- A reply at a die. -/
def State.answerDie (s : State) (x page d : Nat) (resolved : Bool) : State :=
  match s.fu.entry? 1 d x page with
  | none => s
  | some e => e.ports.foldl (fun s v => s.answerCove x page v resolved) (s.freeEntry 1 d x page)

/-! ## The climb -/

/-- A tag that is not 0. -/
def nextTagOf (t : BitVec 32) : BitVec 32 := if t + 1 = 0 then 1 else t + 1

/-- One request more in the record of a page, while the record is not written. -/
def countIn (x page : Nat) (rs : List FaultRecord) : List FaultRecord :=
  rs.map fun r => if r.ctx = x && r.page = page && !r.written && !r.answered then { r with n := r.n + 1 } else r

/-- A new key at the module fault unit: one record (R329, R330). -/
def State.newRecord (s : State) (x page : Nat) (kind : BitVec 4) (unit : Nat) : State :=
  let f := s.fu
  let r : FaultRecord := { ctx := x, page, kind, unit, tag := f.nextTag, gen := f.gen, n := 1, written := false }
  ({ s with fu := { f with records := f.records ++ [r], nextTag := nextTagOf f.nextTag } } : State).flushFaults

/-- A message at a level: merged, held back by a full table, or recorded and sent on; a stale one is answered at once as
resolved (R331). -/
def State.climb (s : State) (p : Packet) (level page : Nat) (kind : BitVec 4) (unit gen : Nat) : State :=
  let node := nodeAt level unit
  let port := portAt level unit
  if level = 2 ∧ gen ≠ s.fu.gen.toNat then (s.dropPacket p.id).answerDie p.ctx page port true
  else
  match s.fu.entry? level node p.ctx page with
  | some _ =>
    let fu := s.fu.addPort level node p.ctx page port
    let fu := if level = 2 then { fu with records := countIn p.ctx page fu.records } else fu
    ({ s with fu } : State).dropPacket p.id
  | none =>
    if s.fu.full level node then s
    else
      let e : FaultEntry := { level, node, ctx := p.ctx, page, ports := [port] }
      let s : State := { s with fu := { s.fu with entries := s.fu.entries ++ [e] } }
      if level < 2 then s.turnPacket p.id (.fault (level + 1) (nodeAt (level + 1) unit) page kind unit gen)
      else (s.dropPacket p.id).newRecord p.ctx page kind unit

/-- FAULT_MESSAGE. -/
def execFaultMessage (s : State) : Result :=
  onPacket s fun p =>
    match p.kind with
    | .fault level _ page kind unit gen => s.climb p level page kind unit gen
    | _ => s


/-- FAULT_REPLY: the reply travels down the recorded ports and frees the entries. -/
def execFaultReply (s : State) : Result :=
  onPacket s fun p =>
    match p.kind with
    | .faultReply page resolved =>
      let s := s.dropPacket p.id
      (match s.fu.entry? 2 0 p.ctx page with
        | none => s
        | some e => e.ports.foldl (fun s d => s.answerDie p.ctx page d resolved) (s.freeEntry 2 0 p.ctx page))
    | _ => s

end Sys2Proof.Machine
end

