-- ==== Sys2Proof/Machine/Fleet.lean ====
section
/-! DEFINITION. What the operator of a fleet sees (R354-R360): ageing, budget histories, stall samples, power, and the
management commands. -/

namespace Sys2Proof.Machine

/-! ## Ageing (R355) -/

def Ageing.code (a : Ageing) : Nat :=
  match a with
  | .nominal => 0
  | .raised => 1
  | .slowed => 2
  | .retiring => 3
  | .retired => 4

/-- At most one step for a measurement of m picoseconds. -/
def Health.age (h : Health) (m : Int) (held : Bool) : Health :=
  match h.state with
  | .nominal => if m < 40 then { h with state := .raised, steps := 1 } else h
  | .raised =>
    if m < 40 then (if h.steps < 3 then { h with steps := h.steps + 1 } else { h with state := .slowed }) else h
  | .slowed => if m < 20 then { h with state := if held then .retiring else .retired } else h
  | .retiring => if held then h else { h with state := .retired }
  | .retired => h

/-- MARGIN_MEASUREMENT of cove `ev.n`: the margin is `ev.int`; with the flag a canary path failed outright (R356). DEDUCED (log entry
117): a retired cove is measured too. -/
def execMarginMeasurement (s : State) : Result :=
  let v := s.cove s.ev.n
  if 1024 ≤ s.ev.n then .next s
  else
    let h := v.health.age s.ev.int (s.held s.ev.n)
    .next (s.setCove s.ev.n { v with health := { h with
      margin := BitVec.ofInt 16 s.ev.int
      fails := if s.ev.flag then v.health.fails + 1 else v.health.fails
      time := Config.moduleTime s.tick } })

/-! ## Telemetry (R358, R359) -/

/-- BUDGET_INTERVAL of context `ev.n`: the last 144 are kept. -/
def execBudgetInterval (s : State) : Result :=
  .next (s.onCtx s.ev.n fun k =>
    let all := k.history ++ [k.ebud]
    { k with history := all.drop (all.length - 144) })

/-- The increase of a core's counter since the interval's start. -/
def State.stallIncrease (s : State) (c i : Nat) : Word :=
  let now := ((s.core c).stall[i]?).getD 0
  let base := ((find? c s.head.sampleBase).bind fun v => v[i]?).getD 0
  (now - base).zeroExtend 64

/-- The sums of a cove over its worker cores. -/
def State.stallSums (s : State) (v : Nat) : Vector Word 16 :=
  Vector.ofFn fun i => (upFrom 0 63).foldl (fun n j => n + s.stallIncrease (coreOf v j) i.val) 0

/-- The coves of the cores that the state lists, each once. -/
def State.listedCoves (s : State) : List Nat := distinct (s.cores.map fun (c, _) => coveOf c)

/-- The cycles of a cove in the interval that runs: its clock is that of every core of it. DESIGN CHOICE (log entry 71): where the
moves have given its cores different numbers of cycles, the largest. -/
def State.coveCycles (s : State) (v : Nat) : Nat :=
  (s.head.cycles.filter fun (c, _) => coveOf c = v).foldl (fun n (_, m) => max n m) 0

/-- STALL_SAMPLE: the sample of the second that ends, and the start of the next. -/
def execStallSample (s : State) : Result :=
  .next { s with
    head := { s.head with
      sampleTime := Config.moduleTime s.tick
      sampleCycles := s.listedCoves.map fun v => (v, s.coveCycles v)
      cycles := []
      sample := s.listedCoves.map fun v => (v, s.stallSums v)
      sampleCleared := s.head.cleared
      sampleBase := s.cores.map fun (c, k) => (c, k.stall)
      cleared := [] } }

/-! ## Power (R360) -/

/-- A throttle step of 125 MHz down to 1.5 GHz; the answer says whether one was taken. -/
def Headland.throttle (h : Headland) : Bool × Headland :=
  if h.ceiling ≤ 1500 then (false, h) else (true, { h with ceiling := h.ceiling - 125 })

/-- POWER_THROTTLE at a 1 ms average power of `ev.n` watts, above the cap. -/
def execPowerThrottle (s : State) : Result :=
  if s.ev.n ≤ s.head.cap then .next s
  else
    let (stepped, h) := s.head.throttle
    .next { s with head := if stepped then { h with powerEvents := h.powerEvents + 1 } else h }

/-- THERMAL_THROTTLE at a junction of `ev.int` tenths of a degree, 95 °C or more. -/
def execThermalThrottle (s : State) : Result :=
  if s.ev.int < 950 then .next s
  else
    let (stepped, h) := s.head.throttle
    .next { s with head := if stepped then { h with thermalEvents := h.thermalEvents + 1 } else h }

/-- CLOCK_RAISE after 100 ms at no more than `ev.n` watts, below 90 % of the cap. -/
def execClockRaise (s : State) : Result :=
  if 9 * s.head.cap ≤ 10 * s.ev.n then .next s
  else .next { s with head := { s.head with ceiling := min 2250 (s.head.ceiling + 125) } }

/-- A context whose teardown was in progress ends with a kind-3 record all the same (R360). -/
def Ctx.endsKilled (k : Ctx) (cause : Nat) : Ctx :=
  match k.phase with
  | .closing 2 _ unit => { k with phase := .closing 3 cause unit, killed := true, cause := BitVec.ofNat 8 cause }
  | _ => k

/-- A context killed by the shutdown, with an open cause of R245; a launch that has not loaded leaves nothing. -/
def State.shutContext (s : State) (x : Nat) : State :=
  match s.ctx? x with
  | none => s
  | some k =>
    if k.phase = .loading then { s with ctxs := drop x s.ctxs, mbox := { s.mbox with busy := none } }
    else
      let (w, s) := s.fresh
      (s.kill x (bits w 0 8 % 30) 0xFFFF).onCtx x fun k => k.endsKilled (bits w 0 8 % 30)

/-- THERMAL_SHUTDOWN at a junction of `ev.int` tenths of a degree, 105 °C or more: engines stop, remote commands on their way are lost, every context is
killed, no core issues again. -/
def execThermalShutdown (s : State) : Result :=
  if s.ev.int < 1050 then .next s
  else
    let s := (s.ctxs.map fun (x, _) => x).foldl State.shutContext s
    .next { s with
      powered := false
      net := s.net.filter fun p => !p.kind.isCommand
      cores := s.cores.map fun (e : Nat × Core) => (e.1, e.2.stopEngines) }

/-! ## Management commands (R354) -/

/-- A cove number within its limits. -/
def forCove (s : State) (f : Nat → State) : Result :=
  management s fun s' => if s'.ev.n < 1024 then f s'.ev.n else s'.output 1

/-- The health record of a cove (R356). -/
def State.healthRecord (s : State) (v : Nat) : List Byte :=
  let k := s.cove v
  let h := k.health
  let holder := match s.holder v with
    | some x => 2 ^ 16 + x
    | none => 0
  leBytes 2 v ++ leBytes 1 h.state.code ++ leBytes 1 h.steps ++ leBytes 2 h.margin.toNat ++
    leBytes 2 (Config.margin0 v).toNat ++ leBytes 4 h.fails.toNat ++ leBytes 4 0 ++ leBytes 8 h.time.toNat ++ leBytes 8 holder

/-- GET_HEALTH of cove `ev.n`. -/
def execGetHealth (s : State) : Result := forCove s fun v => s.output 0 (s.healthRecord v)

/-- GET_QMAP. -/
def execGetQmap (s : State) : Result :=
  management s fun s => s.output 0 ((upFrom 0 1024).flatMap fun v => leBytes 8 (s.qmap v).toNat)

/-- A budget history (R358). -/
def historyBytes (x : Nat) (live : Bool) (initial final : BitVec 32) (events : Vector (BitVec 32) 8)
    (history : List (BitVec 32)) : List Byte :=
  leBytes 2 x ++ leBytes 1 (boolNat live) ++ leBytes 1 history.length ++ leBytes 4 initial.toNat ++ leBytes 4 final.toNat ++
    leBytes 4 0 ++ (events.toList.flatMap fun n => leBytes 4 n.toNat) ++ history.flatMap fun n => leBytes 4 n.toNat

/-- GET_BUDGET of context `ev.n`: the live one, else the most recent that ended. -/
def execGetBudget (s : State) : Result :=
  management s fun s =>
    let x := s.ev.n
    match s.live? x with
    | some k => s.output 0 (historyBytes x true k.record.budget k.ebud k.events k.history)
    | none =>
      match s.head.ended.find? fun e => e.ctx = x with
      | some e => s.output 0 (historyBytes x false e.initial e.final e.events e.history)
      | none => s.output 1

/-- GET_CLASSMAP: `ev.n` 0 near, 1 far. -/
def execGetClassmap (s : State) : Result :=
  management s fun s =>
    if 1 < s.ev.n then s.output 1
    else
      let runs := (s.crt.current (s.ev.n = 1)).filter Run.valid
      s.output 0 (leBytes 4 runs.length ++ runs.flatMap fun r => leBytes 8 r.lo.toNat ++ leBytes 8 r.hi.toNat)

/-- GET_STALL of cove `ev.n`. -/
def execGetStall (s : State) : Result :=
  forCove s fun v =>
    let h := s.head
    let sums := (find? v h.sample).getD (Vector.replicate 16 0)
    s.output 0 (leBytes 2 v ++ leBytes 2 0 ++ leBytes 4 (boolNat (h.sampleCleared.contains v)) ++ leBytes 8 h.sampleTime.toNat ++
      leBytes 8 ((find? v h.sampleCycles).getD 0) ++ sums.toList.flatMap fun n => leBytes 8 n.toNat)

/-- GET_POWER. -/
def execGetPower (s : State) : Result :=
  management s fun s =>
    let h := s.head
    s.output 0 (leBytes 4 (Config.powerWatts s.tick).toNat ++ leBytes 4 h.cap ++ leBytes 2 (Config.inletTenths s.tick).toNat ++
      leBytes 2 (Config.junctionTenths s.tick).toNat ++ leBytes 2 h.ceiling ++ leBytes 2 0 ++ leBytes 4 h.powerEvents.toNat ++
      leBytes 4 h.thermalEvents.toNat ++ leBytes 8 (Config.moduleTime s.tick).toNat)

/-- SET_CAP of `ev.n` watts. -/
def execSetCap (s : State) : Result :=
  management s fun s =>
    if 4000 ≤ s.ev.n ∧ s.ev.n ≤ 9600 then ({ s with head := { s.head with cap := s.ev.n } } : State).output 0 else s.output 1

/-- RELEASE of core `ev.m` of cove `ev.n`. -/
def execRelease (s : State) : Result :=
  management s fun s => if s.ev.n < 1024 ∧ s.ev.m ≤ 62 then (s.releaseCore s.ev.n s.ev.m).output 0 else s.output 1

end Sys2Proof.Machine
end

