-- ==== Sys2Proof/Machine/FpScalar.lean ====
section
/-! DEFINITION. The FP32 scalar instructions (R155, R156); loads and stores of f registers stand with the others. -/

namespace Sys2Proof.Machine

/-- The ILLEGAL trap of a word whose rounding mode is illegal at issue (R109). -/
def illegalMode (t : Thread) : Act := .trap 1 (t.iword.zeroExtend 64)

/-- An instruction that rounds into an f register; in stochastic mode it draws once (R110). -/
def fpRound (s : State) (rd : Reg) (rm : BitVec 3) (f : Thread → Rounding → Exact) : Result :=
  run s fun t => s.issue t [] 0 false
    (match t.modeOf rm.toNat with
      | none => illegalMode t
      | some mode => .go fun s' => s'.finishWith fun u =>
          let (r, u') := u.rounding mode
          let (c, fl) := fp32.finish r (f t r)
          (u'.raiseFlags fl).setF rd (BitVec.ofNat 32 c))

/-- The value of an f register. -/
def Thread.fval (t : Thread) (r : Reg) : FVal := fp32Val (t.getF r)

def execFaddS (rd rs1 rs2 : Reg) (rm : BitVec 3) (s : State) : Result :=
  fpRound s rd rm fun t r => addExact r.mode (t.fval rs1) (t.fval rs2)
def execFsubS (rd rs1 rs2 : Reg) (rm : BitVec 3) (s : State) : Result :=
  fpRound s rd rm fun t r => addExact r.mode (t.fval rs1) (t.fval rs2).neg
def execFmulS (rd rs1 rs2 : Reg) (rm : BitVec 3) (s : State) : Result :=
  fpRound s rd rm fun t _ => mulExact (t.fval rs1) (t.fval rs2)
def execFdivS (rd rs1 rs2 : Reg) (rm : BitVec 3) (s : State) : Result :=
  fpRound s rd rm fun t _ => divExact (t.fval rs1) (t.fval rs2)
def execFsqrtS (rd rs1 : Reg) (rm : BitVec 3) (s : State) : Result :=
  fpRound s rd rm fun t _ => sqrtExact (t.fval rs1)

def execFmaddS (rd rs1 rs2 rs3 : Reg) (rm : BitVec 3) (s : State) : Result :=
  fpRound s rd rm fun t r => fmaExact r.mode (t.fval rs1) (t.fval rs2) (t.fval rs3)
def execFmsubS (rd rs1 rs2 rs3 : Reg) (rm : BitVec 3) (s : State) : Result :=
  fpRound s rd rm fun t r => fmaExact r.mode (t.fval rs1) (t.fval rs2) (t.fval rs3).neg
def execFnmsubS (rd rs1 rs2 rs3 : Reg) (rm : BitVec 3) (s : State) : Result :=
  fpRound s rd rm fun t r => fmaExact r.mode (t.fval rs1).neg (t.fval rs2) (t.fval rs3)
def execFnmaddS (rd rs1 rs2 rs3 : Reg) (rm : BitVec 3) (s : State) : Result :=
  fpRound s rd rm fun t r => fmaExact r.mode (t.fval rs1).neg (t.fval rs2) (t.fval rs3).neg

/-- An instruction that does not round: its result and flags. -/
def fpPlain (s : State) (rd : Reg) (f : BitVec 32 → BitVec 32 → BitVec 32 × Flags) (rs1 rs2 : Reg) : Result :=
  run s fun t => s.issue t [] 0 false (.go fun s' => s'.finishWith fun u =>
    let (v, fl) := f (t.getF rs1) (t.getF rs2)
    (u.raiseFlags fl).setF rd v)

/-- Bits [30:0] of a value with a sign. -/
def withSign (x : BitVec 32) (neg : Bool) : BitVec 32 := if neg then x ||| 0x80000000 else x &&& 0x7FFFFFFF

def execFsgnjS (rd rs1 rs2 : Reg) (s : State) : Result := fpPlain s rd (fun a b => (withSign a b.msb, 0)) rs1 rs2
def execFsgnjnS (rd rs1 rs2 : Reg) (s : State) : Result := fpPlain s rd (fun a b => (withSign a !b.msb, 0)) rs1 rs2
def execFsgnjxS (rd rs1 rs2 : Reg) (s : State) : Result :=
  fpPlain s rd (fun a b => (withSign a (a.msb != b.msb), 0)) rs1 rs2

/-- minimumNumber and maximumNumber. -/
def fpMinMax (max : Bool) (a b : BitVec 32) : BitVec 32 × Flags :=
  let (c, fl) := fp32.minMax max a.toNat b.toNat
  (BitVec.ofNat 32 c, fl)

def execFminS (rd rs1 rs2 : Reg) (s : State) : Result := fpPlain s rd (fpMinMax false) rs1 rs2
def execFmaxS (rd rs1 rs2 : Reg) (s : State) : Result := fpPlain s rd (fpMinMax true) rs1 rs2

/-! ## Results in g registers -/

/-- A g result with flags. -/
def State.finishFlags (s : State) (rd : Reg) (v : Word) (fl : Flags) : State :=
  (s.onThread s.curCore s.curSlot fun u => u.raiseFlags fl).finish rd v

/-- A conversion to an integer between two bounds (R113), of w bits, sign-extended. -/
def fpToInt (s : State) (rd rs1 : Reg) (rm : BitVec 3) (w : Nat) (lo hi : Int) : Result :=
  run s fun t => s.issue t [] rd false
    (match t.modeOf rm.toNat with
      | none => illegalMode t
      | some mode =>
        let (r, u) := t.rounding mode
        let (k, fl) := toInt r lo hi (t.fval rs1)
        let v : Word := if w = 32 then w32 (BitVec.ofInt 32 k) else BitVec.ofInt 64 k
        .go fun s' => (s'.onThread s'.curCore s'.curSlot fun x => { x with srseed := u.srseed }).finishFlags rd v fl)

def execFcvtWS (rd rs1 : Reg) (rm : BitVec 3) (s : State) : Result := fpToInt s rd rs1 rm 32 (-(2 ^ 31)) (2 ^ 31 - 1)
def execFcvtWuS (rd rs1 : Reg) (rm : BitVec 3) (s : State) : Result := fpToInt s rd rs1 rm 32 0 (2 ^ 32 - 1)
def execFcvtLS (rd rs1 : Reg) (rm : BitVec 3) (s : State) : Result := fpToInt s rd rs1 rm 64 (-(2 ^ 63)) (2 ^ 63 - 1)
def execFcvtLuS (rd rs1 : Reg) (rm : BitVec 3) (s : State) : Result := fpToInt s rd rs1 rm 64 0 (2 ^ 64 - 1)

/-- A conversion of an integer read from a g register. -/
def fpOfInt (s : State) (rd rs1 : Reg) (rm : BitVec 3) (f : Word → Int) : Result :=
  run s fun t =>
    let x := f (s.readg t [] rs1)
    s.issue t [rs1] 0 false
      (match t.modeOf rm.toNat with
        | none => illegalMode t
        | some mode => .go fun s' => s'.finishWith fun u =>
            let (r, u') := u.rounding mode
            let (c, fl) := fp32.encode r (ofInt x)
            (u'.raiseFlags fl).setF rd (BitVec.ofNat 32 c))

def execFcvtSW (rd rs1 : Reg) (rm : BitVec 3) (s : State) : Result := fpOfInt s rd rs1 rm fun a => (low32 a).toInt
def execFcvtSWu (rd rs1 : Reg) (rm : BitVec 3) (s : State) : Result := fpOfInt s rd rs1 rm fun a => ((low32 a).toNat : Int)
def execFcvtSL (rd rs1 : Reg) (rm : BitVec 3) (s : State) : Result := fpOfInt s rd rs1 rm fun a => a.toInt
def execFcvtSLu (rd rs1 : Reg) (rm : BitVec 3) (s : State) : Result := fpOfInt s rd rs1 rm fun a => (a.toNat : Int)

def execFmvXW (rd rs1 : Reg) (s : State) : Result := compute s rd [] fun t => w32 (t.getF rs1)

def execFmvWX (rd rs1 : Reg) (s : State) : Result :=
  run s fun t =>
    let v := low32 (s.readg t [] rs1)
    s.issue t [rs1] 0 false (.go fun s' => s'.finishWith fun u => u.setF rd v)

/-- A comparison of two f registers. -/
def fpCompare (s : State) (rd rs1 rs2 : Reg) (op : Nat) : Result :=
  run s fun t =>
    let (b, fl) := fp32.compare op (t.getF rs1).toNat (t.getF rs2).toNat
    s.issue t [] rd false (.go fun s' => s'.finishFlags rd (bool64 b) fl)

def execFeqS (rd rs1 rs2 : Reg) (s : State) : Result := fpCompare s rd rs1 rs2 0
def execFltS (rd rs1 rs2 : Reg) (s : State) : Result := fpCompare s rd rs1 rs2 1
def execFleS (rd rs1 rs2 : Reg) (s : State) : Result := fpCompare s rd rs1 rs2 2

def execFclassS (rd rs1 : Reg) (s : State) : Result :=
  compute s rd [] fun t => BitVec.ofNat 64 (classify (t.getF rs1).toNat)

end Sys2Proof.Machine
end

