-- ==== Sys2Proof/Machine/Object.lean ====
section
/-! DEFINITION. The ELF object of a launch (R295, R299, R312, R316, R318-R320): its sections, its symbols and relocations, its
kernels with their tables, and where each part is placed (R341). -/

namespace Sys2Proof.Machine

/-! ## Bytes -/

/-- An n-byte number at an offset of bytes. -/
def numAt (bs : List Byte) (off n : Nat) : Nat := leNat ((bs.drop off).take n)

/-- The bytes of a string at an offset, up to its 0. -/
def stringAt (bs : List Byte) (off : Nat) : List Byte := (bs.drop off).takeWhile fun b => b != 0

/-- The bytes of a name. -/
def nameBytes (s : String) : List Byte := s.toList.map fun c => BitVec.ofNat 8 c.toNat

/-- Bytes with some of them replaced. -/
def splice (bs : List Byte) (off : Nat) (new : List Byte) : List Byte :=
  bs.take off ++ new ++ bs.drop (off + new.length)

/-- A number rounded up to a multiple. -/
def roundUp (a n : Nat) : Nat := (a + n - 1) / n * n

/-! ## Sections (R312, R318) -/

structure Section where
  name : List Byte
  type : Nat
  flags : Nat
  addr : Nat
  link : Nat
  info : Nat
  align : Nat
  bytes : List Byte
  deriving DecidableEq, Repr

/-- R318: ELF64, little-endian, ET_REL, the machine of Dexpex. -/
def goodHeader (o : List Byte) : Bool :=
  decide (64 ≤ o.length) && numAt o 0 4 == 0x464C457F && numAt o 4 1 == 2 && numAt o 5 1 == 1 && numAt o 16 2 == 1 &&
    numAt o 18 2 == 0x5D17 && numAt o 58 2 == 64

/-- The header of section i: name offset, and the section without its name; `none`: it lies outside the object. -/
def sectionAt (o : List Byte) (i : Nat) : Option (Nat × Section) :=
  let at_ := numAt o 40 8 + 64 * i
  let off := numAt o (at_ + 24) 8
  let size := numAt o (at_ + 32) 8
  if o.length < at_ + 64 ∨ (numAt o (at_ + 4) 4 ≠ 0 ∧ o.length < off + size) then none
  else
    some (numAt o at_ 4,
      { name := [], type := numAt o (at_ + 4) 4, flags := numAt o (at_ + 8) 8, addr := numAt o (at_ + 16) 8,
        link := numAt o (at_ + 40) 4, info := numAt o (at_ + 44) 4, align := numAt o (at_ + 48) 8,
        bytes := (o.drop off).take size })

/-- Every element mapped; `none` if one fails. -/
def mapAll {α β : Type} (f : α → Option β) : List α → Option (List β)
  | [] => some []
  | a :: rest =>
    match f a with
    | none => none
    | some b => (mapAll f rest).map fun bs => b :: bs

/-- The sections of an object, named. -/
def sections (o : List Byte) : Option (List Section) :=
  match mapAll (sectionAt o) (upFrom 0 (numAt o 60 2)) with
  | none => none
  | some hs =>
    let names := match hs[numAt o 62 2]? with
      | some (_, z) => z.bytes
      | none => []
    some (hs.map fun (n, z) => { z with name := stringAt names n })

def textName : List Byte := nameBytes ".text"
def dataName : List Byte := nameBytes ".data"
def localName : List Byte := nameBytes ".dex.local"
def constName : List Byte := nameBytes ".dex.const"
def sigPrefix : List Byte := nameBytes ".sig."
def ckptPrefix : List Byte := nameBytes ".ckpt."
def kernName : List Byte := nameBytes ".dex.kern"
def strtabName : List Byte := nameBytes ".strtab"

/-- The flags, address and alignment that R312 gives a section. -/
def sectionForm (name : List Byte) : Option (Nat × Nat × Nat) :=
  if name = textName then some (6, 0, 64)
  else if name = dataName then some (3, 0, 64)
  else if name = localName then some (0, 0x4800, 8)
  else if name = constName then some (0, 0x80, 8)
  else if name.take 5 = sigPrefix then some (2, 0, 16)
  else if name.take 6 = ckptPrefix then some (2, 0, 16)
  else none

def Section.sound (z : Section) : Bool :=
  match sectionForm z.name with
  | some (f, a, n) => z.flags == f && z.addr == a && z.align == n
  | none => true

def sectionNamed (zs : List Section) (name : List Byte) : Option Section := zs.find? fun z => z.name = name
def bytesNamed (zs : List Section) (name : List Byte) : List Byte := ((sectionNamed zs name).map Section.bytes).getD []

/-- R316, R68: the images fit local store. -/
def imagesFit (zs : List Section) (ordered : Bool) : Bool :=
  decide ((bytesNamed zs localName).length ≤ (if ordered then 0x17000 else localSize) - 0x4800) &&
    decide ((bytesNamed zs constName).length ≤ 1920)

/-! ## Tables -/

/-- A signature table (R295). -/
def parseSig (bs : List Byte) : Option (List SigRecord) :=
  let n := numAt bs 0 4
  if bs.length < 16 ∨ 2 ^ 21 < n ∨ numAt bs 4 4 ≠ 1 ∨ numAt bs 8 8 ≠ 0 ∨ bs.length ≠ 16 + 16 * n then none
  else
    mapAll (fun i =>
      let w (k : Nat) : BitVec 32 := BitVec.ofNat 32 (numAt bs (16 + 16 * i + 4 * k) 4)
      if (w 3).toNat < 8 then some { expected := w 0, succ0 := w 1, succ1 := w 2, flags := w 3 } else none) (upFrom 0 n)

/-- A range of a checkpoint table within its limits (R299). -/
def parseRange (ordered core : Bool) (v : Nat) : Option CkptRange :=
  let length := v / 2 ^ 32
  let rel := v / 2 ^ 31 % 2 = 1
  let offset := v % 2 ^ 17
  let last := offset + length
  if length % 8 ≠ 0 ∨ offset % 8 ≠ 0 ∨ v / 2 ^ 17 % 2 ^ 14 ≠ 0 then none
  else if rel then (if core ∨ 0x400 < last then none else some { length, rel := true, offset })
  else if offset < 0x800 ∨ (if ordered then 0x17000 else localSize) < last then none
  else some { length, rel := false, offset }

def parseRanges (bs : List Byte) (ordered core : Bool) (off n : Nat) : Option (List CkptRange) :=
  mapAll (fun i => parseRange ordered core (numAt bs (off + 8 * i) 8)) (upFrom 0 n)

/-- Entry n of a checkpoint table (R299). -/
def parseEntry (bs : List Byte) (ordered : Bool) (n : Nat) : Option (List CkptRange) :=
  let at_ := 80 + 64 * n
  let rcount := numAt bs at_ 4
  if 7 < rcount ∨ numAt bs (at_ + 4) 4 ≠ 0 then none else parseRanges bs ordered false (at_ + 8) rcount

/-- A checkpoint table (R299). DESIGN CHOICE (log entry 104): bytes behind the entries that its header counts make it ill-formed. -/
def parseCkpt (bs : List Byte) (ordered : Bool) : Option CkptTable :=
  let n := numAt bs 0 4
  let h := numAt bs 4 4
  if bs.length < 80 ∨ 8 < h ∨ numAt bs 8 8 ≠ 0 ∨ bs.length ≠ 80 + 64 * n then none
  else
    match parseRanges bs ordered true 16 h, mapAll (parseEntry bs ordered) (upFrom 0 n) with
    | some core, some entries => some { core, entries }
    | _, _ => none

/-! ## Placing (R341) -/

/-- A kernel record of the object: its name and the tables it has (R318). -/
structure KernelRow where
  name : List Byte
  sig : Bool
  ckpt : Bool
  deriving DecidableEq, Repr

def kernelRows (zs : List Section) : List KernelRow :=
  let bs := bytesNamed zs kernName
  let names := bytesNamed zs strtabName
  (upFrom 0 (bs.length / 32)).map fun i =>
    let f := numAt bs (32 * i + 4) 4
    { name := stringAt names (numAt bs (32 * i) 4), sig := decide (f % 2 = 1), ckpt := decide (f / 2 % 2 = 1) }

/-- Every kernel record keeps to R318, and the tables it names are there. DESIGN CHOICE (log entry 111): a launch refuses one that does
not; an object without the section has no kernels, and a table section that no record names is passed over. -/
def rowsSound (zs : List Section) : Bool :=
  let bs := bytesNamed zs kernName
  bs.length % 32 == 0 && (upFrom 0 (bs.length / 32)).all (fun i => decide (numAt bs (32 * i + 4) 4 < 4)) &&
    (kernelRows zs).all fun r =>
      (!r.sig || (sectionNamed zs (sigPrefix ++ r.name)).isSome) && (!r.ckpt || (sectionNamed zs (ckptPrefix ++ r.name)).isSome)

/-- The table sections of the kernels behind `.text`, with their addresses, and the address of each kernel record. -/
def placeTables (zs : List Section) : Nat → List KernelRow → List (List Byte × Nat) × List Nat
  | _, [] => ([], [])
  | cursor, r :: rest =>
    let put_ (on : Bool) (name : List Byte) (cursor : Nat) : List (List Byte × Nat) × Nat :=
      if on then ([(name, roundUp cursor 16)], roundUp cursor 16 + (bytesNamed zs name).length) else ([], cursor)
    let (a, cursor) := put_ r.sig (sigPrefix ++ r.name) cursor
    let (b, cursor) := put_ r.ckpt (ckptPrefix ++ r.name) cursor
    let at_ := roundUp cursor 16
    let (ts, ks) := placeTables zs (at_ + 32) rest
    (a ++ b ++ ts, at_ :: ks)

/-- The address at which a section is loaded. -/
def baseOf (r : CtxRecord) (tables : List (List Byte × Nat)) (z : Section) : Nat :=
  if z.name = textName then r.textVa.toNat
  else if z.name = dataName then r.dataVa.toNat
  else
    match tables.find? fun t => t.1 = z.name with
    | some (_, a) => a
    | none => z.addr

/-! ## Relocations (R319, R320) -/

structure Rela where
  off : Nat
  type : Nat
  sym : Nat
  addend : Word
  deriving DecidableEq, Repr

def relasOf (z : Section) : List Rela :=
  (upFrom 0 (z.bytes.length / 24)).map fun i =>
    let info := numAt z.bytes (24 * i + 8) 8
    { off := numAt z.bytes (24 * i) 8, type := info % 2 ^ 32, sym := info / 2 ^ 32
      addend := BitVec.ofNat 64 (numAt z.bytes (24 * i + 16) 8) }

/-- The loaded address of a symbol; `none` if it is not defined. -/
def symbolAt (zs : List Section) (base : Section → Nat) (symtab : List Byte) (i : Nat) : Option Word :=
  if symtab.length < 24 * i + 24 then none
  else
    let shndx := numAt symtab (24 * i + 6) 2
    let value := numAt symtab (24 * i + 8) 8
    if shndx = 0 then none
    else if shndx = 0xFFF1 then some (BitVec.ofNat 64 value)
    else (zs[shndx]?).map fun z => BitVec.ofNat 64 (base z + value)

/-- The immediate field of a word of bytes replaced. -/
def putImm (bs : List Byte) (off : Nat) (mask imm : BitVec 32) : List Byte :=
  let w : BitVec 32 := BitVec.ofNat 32 (numAt bs off 4)
  splice bs off (leBytes 4 ((w &&& ~~~mask) ||| imm).toNat)

/-- A multiple of 4 within so many bytes either way. -/
def reaches (v : Word) (limit : Int) : Bool := decide (v.toNat % 4 = 0) && decide (-limit ≤ v.toInt) && decide (v.toInt < limit)

def putB (bs : List Byte) (off : Nat) (v : Word) : Option (List Byte) :=
  if reaches v 4096 then some (putImm bs off (encB 0xFFF 0 0 0 0) (encB (v.extractLsb' 1 12) 0 0 0 0)) else none
def putJ (bs : List Byte) (off : Nat) (v : Word) : Option (List Byte) :=
  if reaches v 1048576 then some (putImm bs off (encJ 0xFFFFF 0 0) (encJ (v.extractLsb' 1 20) 0 0)) else none
def putU (bs : List Byte) (off : Nat) (v : Word) : Option (List Byte) :=
  some (putImm bs off (encU 0xFFFFF 0 0) (encU ((v + 0x800).extractLsb' 12 20) 0 0))
def putI (bs : List Byte) (off : Nat) (v : Word) : Option (List Byte) :=
  some (putImm bs off (encI 0xFFF 0 0 0 0) (encI (v.extractLsb' 0 12) 0 0 0 0))
def putS (bs : List Byte) (off : Nat) (v : Word) : Option (List Byte) :=
  some (putImm bs off (encS 0xFFF 0 0 0 0) (encS (v.extractLsb' 0 12) 0 0 0 0))

/-- What `%pclo` writes: the distance that the `%pchi` at the address named covers (R309); one that the pair cannot cover does not
fit, and refuses the launch (R320). -/
def pairedDistance (rs : List Rela) (symbol : Nat → Option Word) (base : Nat) (auipc : Word) : Option Word :=
  match rs.find? fun r => r.type = 8 ∧ BitVec.ofNat 64 (base + r.off) = auipc with
  | some r => ((symbol r.sym).map fun v => v + r.addend - auipc).filter fun d => d + 0x800 == ((d + 0x800).extractLsb' 0 32).signExtend 64
  | none => none

/-- One relocation applied to the bytes of a section; `none`: it fails. DESIGN CHOICE (log entry 110): the `auipc` that types 9 and 10
pair with stands at S + A. -/
def relocate (absolute : Bool) (rs : List Rela) (symbol : Nat → Option Word) (base : Nat) (bs : List Byte) (r : Rela) :
    Option (List Byte) :=
  match symbol r.sym with
  | none => none
  | some sv =>
    let v := sv + r.addend
    let p := BitVec.ofNat 64 (base + r.off)
    if bs.length < r.off + (if r.type = 1 then 8 else 4) ∨ (absolute ∧ r.type ≠ 1 ∧ r.type ≠ 2) then none
    else
      match r.type with
      | 1 => some (splice bs r.off (leBytes 8 v.toNat))
      | 2 => if v.toNat < 2 ^ 32 ∨ 2 ^ 64 - 2 ^ 31 ≤ v.toNat then some (splice bs r.off (leBytes 4 v.toNat)) else none
      | 3 => putB bs r.off (v - p)
      | 4 => putJ bs r.off (v - p)
      | 5 => putU bs r.off v
      | 6 => putI bs r.off v
      | 7 => putS bs r.off v
      | 8 => putU bs r.off (v - p)
      | 9 => (pairedDistance rs symbol base v).bind (putI bs r.off)
      | 10 => (pairedDistance rs symbol base v).bind (putS bs r.off)
      | _ => none

/-- Steps done one after another, until one fails. -/
def foldAll {α β : Type} (f : β → α → Option β) : β → List α → Option β
  | b, [] => some b
  | b, a :: rest =>
    match f b a with
    | none => none
    | some b' => foldAll f b' rest

/-- The sections with every relocation applied. -/
def relocateAll (zs : List Section) (base : Section → Nat) : Option (List Section) :=
  foldAll (fun done z =>
    if z.type ≠ 4 then some done
    else
      match done[z.info]? with
      | none => none
      | some t =>
        let rs := relasOf z
        let symtab := ((zs[z.link]?).map Section.bytes).getD []
        let absolute := t.name = localName ∨ t.name = constName
        (foldAll (relocate absolute rs (symbolAt zs base symtab) (base t)) t.bytes rs).map fun bytes =>
          done.set z.info { t with bytes }) zs zs

/-! ## The object as it is loaded -/

structure Loaded where
  /-- What is written at virtual addresses. -/
  stores : List (Word × List Byte)
  kernels : List Kernel
  localImage : List Byte
  constImage : List Byte
  deriving DecidableEq, Repr

/-- A kernel of the relocated object. DESIGN CHOICE (log entry 105): its tables stay as the launch has read them. -/
def kernelOf (zs : List Section) (ordered : Bool) (row : KernelRow) (i : Nat) : Option Kernel :=
  let bs := bytesNamed zs kernName
  let w (k : Nat) : Word := BitVec.ofNat 64 (numAt bs (32 * i + 8 * k) 8)
  let sig := if row.sig then (parseSig (bytesNamed zs (sigPrefix ++ row.name))).map some else some none
  let ckpt := if row.ckpt then (parseCkpt (bytesNamed zs (ckptPrefix ++ row.name)) ordered).map some else some none
  match sig, ckpt with
  | some sig, some ckpt => some { entry := w 1, start := w 2, length := w 3, sig, ckpt }
  | _, _ => none

/-- The bytes of an object read as a launch reads them; `none`: BADIMAGE (R341). -/
def loadObject (r : CtxRecord) (o : List Byte) : Option Loaded :=
  let ordered := r.flags.getLsbD 0
  if !goodHeader o then none
  else
    match sections o with
    | none => none
    | some zs =>
      if !zs.all Section.sound || !imagesFit zs ordered || !rowsSound zs then none
      else
        let rows := kernelRows zs
        let (tables, records) := placeTables zs (r.textVa.toNat + (bytesNamed zs textName).length) rows
        match relocateAll zs (baseOf r tables) with
        | none => none
        | some zs =>
          match mapAll (fun (q : KernelRow × Nat) => kernelOf zs ordered q.1 q.2) (rows.zip (upFrom 0 rows.length)) with
          | none => none
          | some kernels =>
            let kern := bytesNamed zs kernName
            let at_ (a : Nat) (bs : List Byte) : Word × List Byte := (BitVec.ofNat 64 a, bs)
            some {
              stores := at_ r.textVa.toNat (bytesNamed zs textName) :: at_ r.dataVa.toNat (bytesNamed zs dataName) ::
                tables.map (fun t => at_ t.2 (bytesNamed zs t.1)) ++
                (records.zip (upFrom 0 rows.length)).map fun q => at_ q.1 ((kern.drop (32 * q.2)).take 32)
              kernels
              localImage := bytesNamed zs localName
              constImage := bytesNamed zs constName }

end Sys2Proof.Machine
end

