-- ==== Sys2Proof/Machine/Launch.lean ====
section
/-! DEFINITION. CTX_LAUNCH (R340, R341): the context record, the loader, and the end of the launch. -/

namespace Sys2Proof.Machine

/-! ## The context record (R340) -/

/-- The coves of the record's bitmap. -/
def grantedCoves (bs : List Byte) : List Nat := (upFrom 0 1024).filter fun v => numAt bs (128 + v / 8) 1 / 2 ^ (v % 8) % 2 = 1

/-- The fields of 256 bytes. -/
def recordOf (bs : List Byte) : CtxRecord :=
  let w (off : Nat) : Word := BitVec.ofNat 64 (numAt bs off 8)
  let h (off : Nat) : BitVec 32 := BitVec.ofNat 32 (numAt bs off 4)
  { ptRoot := numAt bs 0 8, ctx := numAt bs 8 2, ptfmt := numAt bs 10 1, flags := BitVec.ofNat 8 (numAt bs 11 1)
    cls := numAt bs 12 1, tpc := numAt bs 13 1, mcap := h 16, budget := h 20, obj := w 24, objLen := w 32, textVa := w 40
    dataVa := w 48, workVa := w 56, workLen := w 64, kmap := w 72, sqBase := w 80, cqBase := w 88
    sqLg := numAt bs 96 1, cqLg := numAt bs 97 1, coves := grantedCoves bs }

/-- The reserved bytes of a record are 0. -/
def reservedClear (bs : List Byte) : Bool := numAt bs 14 2 == 0 && numAt bs 98 30 == 0

/-- The limits of R340, apart from what depends on the module's state. -/
def CtxRecord.sound (r : CtxRecord) : Bool :=
  decide (r.ptRoot % 4096 = 0) && decide (r.ctx ≤ 1023) && decide (r.ptfmt ≤ 3) && r.flags.extractLsb' 3 5 == 0 &&
    decide (r.cls ≤ 2) && decide (1 ≤ r.tpc) && decide (r.tpc ≤ 16) && r.budget != 0 &&
    decide (r.textVa.toNat % 64 = 0) && decide (r.dataVa.toNat % 64 = 0) && decide (r.workVa.toNat % 2 ^ 21 = 0) &&
    decide (2 ^ 23 * r.coves.length ≤ r.workLen.toNat) && decide (r.sqBase.toNat % 64 = 0) &&
    decide (r.cqBase.toNat % 64 = 0) && decide (4 ≤ r.sqLg) && decide (r.sqLg ≤ 16) && decide (4 ≤ r.cqLg) &&
    decide (r.cqLg ≤ 16) && !r.coves.isEmpty && goodKmap (r.flags.getLsbD 0) r.kmap

/-- R341 status 1: the record, its page-table format and its key map. -/
def State.recordSound (s : State) (bs : List Byte) : Bool :=
  let r := recordOf bs
  reservedClear bs && r.sound && ((s.ptfmt[r.ptfmt]?).getD {}).isValid

/-- R341 status 2, R355: a granted cove is retiring, retired, or held by a context that is not pre-empted. -/
def State.launchBusy (s : State) (r : CtxRecord) : Bool :=
  r.coves.any fun v => s.held v || (s.cove v).health.state == .retiring || (s.cove v).health.state == .retired

/-! ## Reading and writing the context's memory -/

/-- n bytes at a virtual address, page by page, or the address that is not translated. A stray page ends them, as poison would
(R323): the object is then not well formed. -/
def State.readVirt (s : State) (x : Nat) (va : Word) (n : Nat) : Nat → Except Word (List Byte) × State
  | 0 => (.ok [], s)
  | fuel + 1 =>
    if n = 0 then (.ok [], s)
    else
      let k := min n (4096 - va.toNat % 4096)
      match s.own x va false with
      | (none, s) => (.error va, s)
      | (some pa, s) =>
        if s.isStray pa then (.ok [], s.strayed)
        else
          match s.readVirt x (va + BitVec.ofNat 64 k) (n - k) fuel with
          | (.ok rest, s) => (.ok (s.phys.bytes pa k ++ rest), s)
          | (.error e, s) => (.error e, s)

/-- A list of places written, or the first address that is not translated. -/
def State.writeAll (s : State) (x : Nat) : List (Word × List Byte) → Option Word × State
  | [] => (none, s)
  | (va, bs) :: rest =>
    match s.writeVirt x va bs (bs.length / 64 + 2) with
    | (some e, s) => (some e, s)
    | (none, s) => s.writeAll x rest

/-! ## Launching -/

/-- The context id is in use, other than by the launch itself. -/
def State.idUsed (s : State) (r : CtxRecord) : Bool :=
  match s.ctx? r.ctx with
  | some k => k.phase != .loading
  | none => false

/-- A launch ends with a status other than 0: nothing of the context is left. -/
def State.launchFails (s : State) (r : CtxRecord) (status : Nat) : State :=
  let s := if s.idUsed r then s else { s with ctxs := drop r.ctx s.ctxs }
  s.returns status

/-- A page that the loader needs is absent: its fault is recorded like an engine's, and the launch waits (R341); for an id in
use, or an address that no page can translate (R22, R327), NOMAP. -/
def State.launchWaits (s : State) (r : CtxRecord) (va : Word) (kind : BitVec 4) : State :=
  if s.idUsed r || (s.setCtx r.ctx { record := r, phase := .loading }).window r.ctx 0 va != .translated then s.launchFails r 4
  else
    let cove := r.coves.headD 0
    let s := (s.setCtx r.ctx { record := r, phase := .loading }).hold 0xC001 r.ctx
    if s.faulting r.ctx cove (pageOf va) then s else s.sendFault r.ctx (coreOf cove 63) va kind

/-- Steps 1 to 3 of R341: the coves claimed, the object placed. -/
def State.placed (s : State) (r : CtxRecord) (o : Loaded) : State :=
  let s := r.coves.foldl (fun s v =>
    s.setCove v { s.cove v with owner := some r.ctx, lastDispatch := 62, victim := none }) s
  let s := s.setCtx r.ctx { record := r, kernels := o.kernels, localImage := o.localImage, constImage := o.constImage,
                            phase := .launching, ebud := r.budget, ignored := (s.pageAt r.ctx).ignored }
  let s : State := { s with pages := drop r.ctx s.pages }
  s.hold 0xC001 r.ctx

/-- A state in which the loader has worked, with what the context id named before. -/
def State.restoreId (s t : State) (x : Nat) : State :=
  match s.ctx? x with
  | some k => t.setCtx x k
  | none => { t with ctxs := drop x t.ctxs }

/-- The object, read as far as its pages are there; the walks use the record's table. What the loader's reads and walks have left in
memory, and the stray ones counted, stays where the launch fails or waits (R323, R327). -/
def State.loadContext (s : State) (r : CtxRecord) : State :=
  let inside := s.setCtx r.ctx { record := r, phase := .loading }
  match if s.idUsed r then none else inside.heldLine r.ctx r.obj r.objLen.toNat with
  | some l => (inside.hold 0xC001 r.ctx).snoopFor l true
  | none =>
  match inside.readVirt r.ctx r.obj r.objLen.toNat (r.objLen.toNat / 4096 + 2) with
  | (.error va, read) => (s.restoreId read r.ctx).launchWaits r va 9
  | (.ok bytes, read) =>
    match if bytes.length < r.objLen.toNat then none else loadObject r bytes with
    | none => (s.restoreId read r.ctx).launchFails r 3
    | some o =>
      match read.writeAll r.ctx o.stores with
      | (some va, written) => (s.restoreId (if s.idUsed r then read else written) r.ctx).launchWaits r va 10
      | (none, written) => if s.idUsed r then (s.restoreId read r.ctx).launchFails r 5 else written.placed r o

/-- The launch of a sound record. -/
def State.launch (s : State) (r : CtxRecord) : State := if s.launchBusy r then s.launchFails r 2 else s.loadContext r

/-- CTX_LAUNCH: the context record is the input. -/
def execCtxLaunch (s : State) : Result :=
  mailbox s 256 fun s => if s.recordSound s.ev.bytes then s.launch (recordOf s.ev.bytes) else s.output 1

/-- Steps 4 to 6 of R341. -/
def State.opened (s : State) (x : Nat) (k : Ctx) : State :=
  let s := (workers k.record.coves).foldl (fun s c => (s.scrubbed c).setCore c ((s.core c).launched k c)) s
  let s := s.setCtx x { k with phase := .open }
  let s : State := { s with head := { s.head with
    cleared := k.record.coves ++ s.head.cleared
    sampleBase := s.head.sampleBase.filter fun (c, _) => !k.record.coves.contains (coveOf c) } }
  s.returns 0

/-- LAUNCH_COMPLETION of context `ev.n`; a launch that waits for a page tries again. -/
def execLaunchCompletion (s : State) : Result :=
  match s.ctx? s.ev.n with
  | some k =>
    (match k.phase with
      | .launching => .next (s.opened s.ev.n k).flush
      | .loading => .next (s.launch k.record).flush
      | _ => .next s)
  | none => .next s

end Sys2Proof.Machine
end

