-- ==== Sys2Proof/Machine/MatrixValues.lean ====
section
/-! DEFINITION. What a matrix operation computes from the bytes, planes, accumulators and counters that it reads
(R227-R244), apart from the unit's queues and checks. Format codes are those of R132; 7 is E2M1X. -/

namespace Sys2Proof.Machine

/-- Bytes per element of a format. -/
def byteWidth (fmt : Nat) : Nat := widthOf fmt / 8

/-- The value of an element of a format in a list of bytes. -/
def elementAt (fmt : Nat) (bytes : List Byte) (i : Nat) : FVal :=
  let b := byteWidth fmt
  let x := leNat ((bytes.drop (i * b)).take b)
  if fmt = 5 then ofInt (signedOf 8 x) else (fmtOf fmt).decode x

/-! ## Planes and rows (R227, R228) -/

/-- The bytes of a plane. -/
def planeSize (fmt : Nat) : Nat := if fmt = 7 then 288 else 256 * byteWidth fmt

/-- K (R220). -/
def depthOf (fmt : Nat) : Nat := if fmt = 7 then 32 else 16

/-- w(k, n). -/
def weight (fmt : Nat) (bytes : List Byte) (k n : Nat) : FVal :=
  if fmt = 7 then blockElement ((bytes.drop (18 * n)).take 18) k else elementAt fmt bytes (16 * k + n)

/-- The bytes of a row of A for a plane format. -/
def rowBytes (fa fw : Nat) : Nat := if fa = 7 then 18 else depthOf fw * byteWidth fa

/-- The alignment of A. -/
def rowAlign (fa : Nat) : Nat := if fa = 7 then 1 else 16

/-- The elements of a row of A. -/
def rowElements (fa fw : Nat) (row : List Byte) : List FVal :=
  (upFrom 0 (depthOf fw)).map fun k => if fa = 7 then blockElement row k else elementAt fa row k

/-! ## Multiplies (R229) -/

/-- The exact sum of products: a NaN, an infinity, or a finite value. -/
def dotExact (ts : List (FVal × FVal)) : FVal :=
  ts.foldl (fun d (a, w) => (addExact 0 d (mulExact a w).v).v) (.fin false 0 0)

/-- A product of a term and the scale is a zero of negative sign. -/
def negativeZeroTerm (s : FVal) (t : FVal × FVal) : Bool :=
  (t.1.isZero || t.2.isZero || s.isZero) && ((t.1.sign != t.2.sign) != s.sign)

/-- acc + d × s with one rounding, and the sign of a zero as R229 states. -/
def mmaFloat (acc s : BitVec 32) (ts : List (FVal × FVal)) : BitVec 32 :=
  let a := fp32Val acc
  let f := fp32Val s
  let r := addExact 0 a (mulExact (dotExact ts) f).v
  match r.v with
  | .nan _ => BitVec.ofNat 32 fp32.canon
  | .inf n => if n then 0xFF800000 else 0x7F800000
  | v =>
    if v.isZero then (if acc = 0x80000000 ∧ ts.all (negativeZeroTerm f) then 0x80000000 else 0)
    else BitVec.ofNat 32 (fp32.encode .rne v).1

/-- The integer form, modulo 2^32. -/
def mmaInt (acc : BitVec 32) (ts : List (FVal × FVal)) : BitVec 32 :=
  acc + BitVec.ofInt 32 (dotExact ts).dy.floor

/-- Row i of the accumulator after a multiply by a row of A. -/
def mmaRow (fa fw : Nat) (s : BitVec 32) (plane row : List Byte) (acc : Vector (BitVec 32) 256) (i : Nat) :
    Vector (BitVec 32) 256 :=
  let a := rowElements fa fw row
  (upFrom 0 16).foldl (fun v n =>
    let ts := a.zip ((upFrom 0 (depthOf fw)).map fun k => weight fw plane k n)
    let old := (acc[16 * i + n]?).getD 0
    v.setIfInBounds (16 * i + n) (if fw = 5 then mmaInt old ts else mmaFloat old s ts)) acc

/-- The accumulator after a multiply. -/
def mmaAll (fa fw : Nat) (s : BitVec 32) (plane src : List Byte) (rows : Nat) (acc : Vector (BitVec 32) 256) :
    Vector (BitVec 32) 256 :=
  let n := rowBytes fa fw
  (upFrom 0 rows).foldl (fun v i => mmaRow fa fw s plane ((src.drop (i * n)).take n) v i) acc

/-! ## Reading out (R233) -/

/-- An `mrd` with one of these formats reads rm (R222). -/
def mrdRounds (fmt : Nat) : Bool := decide (1 ≤ fmt) && decide (fmt ≤ 4)

/-- One element read out. -/
def readElement (fmt : Nat) (rd : Rounding) (x : BitVec 32) : Nat × Flags :=
  if fmt = 0 ∨ fmt = 6 then (x.toNat, 0) else convert rd fmt (if fmt = 5 then 6 else 0) x.toNat

/-- The bytes and the flags of `mrd`. -/
def readOut (fmt mode : Nat) (sat : Bool) (draws : List (BitVec 16)) (acc : Vector (BitVec 32) 256) : List Byte × Flags :=
  let rs := (upFrom 0 256).map fun i => readElement fmt { mode, sat, r := drawAt draws i } ((acc[i]?).getD 0)
  (rs.flatMap fun r => leBytes (byteWidth fmt) r.1, rs.foldl (fun fl r => fl ||| r.2) 0)

/-- The bytes of `mrd.exp`. -/
def readExpOut (b : BitVec 32) (acc : Vector (BitVec 32) 256) : List Byte :=
  acc.toList.flatMap fun x => leBytes 4 (expTable x b).toNat

/-- The bytes of `mrmax`. -/
def rowMaxima (acc : Vector (BitVec 32) 256) : List Byte :=
  (upFrom 0 16).flatMap fun i =>
    let row := (upFrom 0 16).map fun n => ((acc[16 * i + n]?).getD 0).toNat
    leBytes 4 ((row.drop 1).foldl (fun m x => (fp32.minMax true m x).1) ((fp32.minMax true ((row[0]?).getD 0) ((row[0]?).getD 0)).1))

/-! ## Tree masks (R234) -/

def maskAcc (src : List Byte) (cb : Word) (v : BitVec 32) (acc : Vector (BitVec 32) 256) : Vector (BitVec 32) 256 :=
  (upFrom 0 256).foldl (fun a p =>
    let m := leNat ((src.drop (8 * (p / 16))).take 8)
    let c := cb.toInt + (p % 16 : Nat)
    if 0 ≤ c ∧ c ≤ 63 ∧ m / 2 ^ c.toNat % 2 = 0 then a.setIfInBounds p v else a) acc

/-! ## Top-k (R241) -/

/-- The key of a score of e bits. -/
def scoreKey (e b : Nat) : Nat :=
  let f := if e = 32 then fp32 else bf16
  if (f.decode b).isNan then 0
  else if b = 2 ^ (e - 1) then 2 ^ (e - 1)
  else if b < 2 ^ (e - 1) then b + 2 ^ (e - 1) else 2 ^ e - 1 - b

/-- An index with its key goes before another: a greater key, or the same key and a lower index. -/
def keyBefore (a b : Nat × Nat) : Bool := decide (b.2 < a.2) || (a.2 == b.2 && decide (a.1 < b.1))

/-- The k selected indices in their order, and all scores. -/
def selectTop (e k n : Nat) (src : List Byte) : List Nat × List Nat :=
  let scores := (upFrom 0 n).map fun i => leNat ((src.drop (i * (e / 8))).take (e / 8))
  let keyed := (upFrom 0 n).map fun i => (i, scoreKey e ((scores[i]?).getD 0))
  let sorted := keyed.foldl (fun xs x => insertBy keyBefore x xs) []
  ((sorted.take k).map fun x => x.1, scores)

/-- The output bytes of a selection. -/
def topkBytes (e : Nat) (sel scores : List Nat) : List Byte :=
  (upFrom 0 32).flatMap (fun j => leBytes 2 ((sel[j]?).getD 0xFFFF)) ++
  (upFrom 0 32).flatMap fun j =>
    leBytes (e / 8) (match sel[j]? with
      | some i => (scores[i]?).getD 0
      | none => 0)

/-- The routing counters after a counted selection. -/
def countRoutes (sel : List Nat) (r : Vector (BitVec 32) 64) : Vector (BitVec 32) 64 :=
  (sel.filter fun x => x < 64).foldl (fun r x => r.setIfInBounds x ((r[x]?).getD 0 + 1)) r

/-! ## Combining (R243, R244) -/

def combK (cfg : Word) : Nat := bits cfg 53 3 + 1
def combD (cfg : Word) : Nat := 8 * (bits cfg 48 5 + 1)
def combTokens (cfg : Word) : Nat := bits cfg 42 6 + 1
def combOut (cfg : Word) : Nat := bits cfg 30 12 * 32
def combRegion (cfg : Word) : Nat := bits cfg 18 12 * 32

/-- The offset of slot (t, r). -/
def combSlot (cfg : Word) (t r : Nat) : Nat := combRegion cfg + (t * combK cfg + r) * (4 * combD cfg)

/-- The source elements converted exactly to FP32, as bytes. -/
def combRow (bf : Bool) (src : List Byte) (d : Nat) : List Byte :=
  if bf then (upFrom 0 d).flatMap fun i => leBytes 4 (convert .rne 0 1 (leNat ((src.drop (2 * i)).take 2))).1 else src

/-- One element of an output row: the weighted values in rank order, one rounding per step. -/
def combElement : List (BitVec 32 × BitVec 32) → BitVec 32
  | [] => 0
  | (w, y) :: rest =>
    rest.foldl (fun s (w, y) => BitVec.ofNat 32 (fp32.finish .rne (fmaExact 0 (fp32Val w) (fp32Val y) (fp32Val s))).1)
      (BitVec.ofNat 32 (fp32.finish .rne (mulExact (fp32Val w) (fp32Val y))).1)

end Sys2Proof.Machine
end

