-- ==== Sys2Proof/Machine/VectorValues.lean ====
section
/-! DEFINITION. What a vector command computes from the registers, bytes and moduli that it reads (R201-R214), apart from
the unit's queue and its checks. -/

namespace Sys2Proof.Machine

/-! ## Registers that a command reads and writes (R194) -/

/-- The n registers from one on. -/
def regsFrom (r : Reg) (n : Nat) : List Reg := (upFrom r.toNat n).map fun i => BitVec.ofNat 5 i

def VOp.reads : VOp → List Reg
  | .int _ _ _ v1 v2 => [v1, v2]
  | .fp op _ _ _ vd v1 v2 => if op = 3 then [vd, v1, v2] else [v1, v2]
  | .modular _ _ v1 v2 => [v1, v2]
  | .bfly _ vd v1 => [v1, vd, vd + 1]
  | .qset v1 v2 => [v1, v2]
  | .qreset => []
  | .perm _ _ v1 => [v1]
  | .mvx _ _ v1 => [v1]
  | .ins _ _ vd => [vd]
  | .bcast _ _ => []
  | .redsum _ _ _ v1 => [v1]
  | .redmax _ v1 => [v1]
  | .cmp _ _ v1 v2 => [v1, v2]
  | .sel vd v1 v2 => [vd, v1, v2]
  | .load _ _ => []
  | .store _ vs => [vs]
  | .cvt dst src _ _ _ _ vd v1 => if widthOf dst < widthOf src then [vd, v1] else [v1]
  | .sfu _ _ v1 => [v1]
  | .gather _ _ _ _ vs => [vs]
  | .blocks _ => []
  | .quant _ vs => regsFrom vs 4
  | .dquant _ _ => []

def VOp.writes : VOp → List Reg
  | .int _ _ vd _ _ => [vd]
  | .fp _ _ _ _ vd _ _ => [vd]
  | .modular _ vd _ _ => [vd]
  | .bfly _ vd _ => [vd, vd + 1]
  | .perm _ vd _ => [vd]
  | .ins _ _ vd => [vd]
  | .bcast _ vd => [vd]
  | .cmp _ vd _ _ => [vd]
  | .sel vd _ _ => [vd]
  | .load _ vd => [vd]
  | .cvt _ _ _ _ _ _ vd _ => [vd]
  | .sfu _ vd _ => [vd]
  | .dquant _ vd => regsFrom vd 4
  | _ => []

/-- The command needs data of other members of its gang (R200). -/
def VOp.crosses : VOp → Bool
  | .perm k _ _ => decide (2 ≤ k)
  | .redsum _ _ _ _ => true
  | .redmax _ _ => true
  | _ => false

/-! ## Elements -/

/-- Element by element over two registers in the w-bit view. -/
def mapElems (w : Nat) (f : Nat → Nat → Nat) (a b : VReg) : VReg :=
  ofElems w ((upFrom 0 (256 / w)).map fun i => f (elem a w i) (elem b w i))

/-- An integer operation on w-bit elements (R201). -/
def intElem (op w a b : Nat) : Nat :=
  let m := 2 ^ w
  let sh := b % w
  match op with
  | 0 => (a + b) % m
  | 1 => (a + (m - b)) % m
  | 2 => a * b % m
  | 3 => a &&& b
  | 4 => a ||| b
  | 5 => a ^^^ b
  | 6 => a * 2 ^ sh % m
  | 7 => a / 2 ^ sh
  | 8 => patternOf w (signedOf w a / (2 ^ sh : Nat))
  | 9 => if signedOf w b < signedOf w a then b else a
  | 10 => if signedOf w a < signedOf w b then b else a
  | 11 => min a b
  | _ => max a b

/-- A floating operation on elements (R202): 0 add, 1 subtract, 2 multiply, 3 fused, 4 minimum, 5 maximum. -/
def fpElem (op : Nat) (f : Fmt) (rd : Rounding) (d a b : Nat) : Nat × Flags :=
  match op with
  | 0 => f.finish rd (addExact rd.mode (f.decode a) (f.decode b))
  | 1 => f.finish rd (addExact rd.mode (f.decode a) (f.decode b).neg)
  | 2 => f.finish rd (mulExact (f.decode a) (f.decode b))
  | 3 => f.finish rd (fmaExact rd.mode (f.decode a) (f.decode b) (f.decode d))
  | 4 => f.minMax false a b
  | _ => f.minMax true a b

/-- The flags of a list of results. -/
def allFlags (xs : List (Nat × Flags)) : Flags := xs.foldl (fun fl x => fl ||| x.2) 0

/-- A register of results with their flags. -/
def packed (w : Nat) (xs : List (Nat × Flags)) : VReg × Flags := (ofElems w (xs.map fun x => x.1), allFlags xs)

/-- A floating operation on registers. -/
def fpRegs (op fmt mode : Nat) (draws : List (BitVec 16)) (d a b : VReg) : VReg × Flags :=
  let f := fmtOf fmt
  let w := f.width
  packed w ((upFrom 0 (256 / w)).map fun i =>
    fpElem op f { mode, r := drawAt draws i } (elem d w i) (elem a w i) (elem b w i))

/-! ## Modular operations (R206, R207) -/

def laneOf (v : VReg) (l : Nat) : Word := v.extractLsb' (64 * l) 64

def Moduli.qAt (m : Moduli) (l : Nat) : Word := (m.q[l]?).getD 0
def Moduli.muAt (m : Moduli) (l : Nat) : Word := (m.mu[l]?).getD 0

/-- Lane by lane. -/
def mapLanes (f : Nat → Word) : VReg := ofElems 64 ((upFrom 0 4).map fun l => (f l).toNat)

/-- `vaddm`, `vsubm`, `vmulm`, `vmont`: ops 0 to 3. -/
def modularRegs (op : Nat) (m : Moduli) (a b : VReg) : VReg :=
  mapLanes fun l =>
    if op = 3 then montgomery (m.qAt l) (m.muAt l) (laneOf a l) (laneOf b l)
    else modular op (m.qAt l) (laneOf a l) (laneOf b l)

/-- One lane of a butterfly: x and y become a pair. -/
def butterfly (inverse : Bool) (q x y w : Word) : Word × Word :=
  if inverse then (modular 0 q x y, modular 2 q (modular 1 q x y) w)
  else
    let t := modular 2 q w y
    (modular 0 q x t, modular 1 q x t)

def butterflyRegs (inverse : Bool) (m : Moduli) (x y w : VReg) : VReg × VReg :=
  let at_ (l : Nat) := butterfly inverse (m.qAt l) (laneOf x l) (laneOf y l) (laneOf w l)
  (mapLanes fun l => (at_ l).1, mapLanes fun l => (at_ l).2)

/-! ## Reductions (R119, R209) -/

/-- One level of the pairwise tree of additions; the draws of the additions still to come follow. -/
def addLevel (mode : Nat) : List (BitVec 16) → List Nat → List (Nat × Flags) × List (BitVec 16)
  | draws, a :: b :: rest =>
    let r := fp32.finish { mode, r := drawAt draws 0 } (addExact mode (fp32.decode a) (fp32.decode b))
    let (more, left) := addLevel mode (draws.drop 1) rest
    (r :: more, left)
  | draws, _ => ([], draws)

/-- The levels of the tree, at most n of them. -/
def addTree (mode : Nat) : Nat → List (BitVec 16) → Flags → List Nat → Nat × Flags
  | 0, _, fl, xs => ((xs[0]?).getD 0, fl)
  | n + 1, draws, fl, xs =>
    if xs.length ≤ 1 then ((xs[0]?).getD 0, fl)
    else
      let (rs, left) := addLevel mode draws xs
      addTree mode n left (fl ||| allFlags rs) (rs.map fun r => r.1)

/-- maximumNumber over the elements; nv if any is a signalling NaN. -/
def maxTree (xs : List Nat) : Nat × Flags :=
  let level (acc : Nat × Flags) (x : Nat) : Nat × Flags :=
    let (c, fl) := fp32.minMax true acc.1 x
    (c, acc.2 ||| fl)
  match xs with
  | [] => (0, 0)
  | x :: rest => rest.foldl level (x, flagIf (fp32.decode x).isSignalling flagNv)

/-! ## Comparisons, conversions, permutations -/

def compareRegs (op : Nat) (a b : VReg) : VReg × Flags :=
  packed 32 ((upFrom 0 8).map fun i =>
    let (r, fl) := fp32.compare op (elem a 32 i) (elem b 32 i)
    (if r then 0xFFFFFFFF else 0, fl))

/-- The rounding of a pair to which the spec gives none: a free value for each format and element (R120, log entry 10). -/
def openRule (rd : Rounding) (dst x : Nat) : Rounding := { rd with mode := 5, r := (Config.openDraw dst x).toNat }

/-- `vcvt` (R213): the elements converted, put in their places of vd. -/
def convertRegs (dst src part : Nat) (rd : Nat → Rounding) (d a : VReg) : VReg × Flags :=
  let wd := widthOf dst
  let ws := widthOf src
  let n := 256 / max wd ws
  let from_ := if ws < wd then part * n else 0
  let to_ := if wd < ws then part * n else 0
  let rs := (upFrom 0 n).map fun i =>
    let x := elem a ws (from_ + i)
    convert (if openRounding dst src then openRule (rd i) dst x else rd i) dst src x
  let out := (upFrom 0 (256 / wd)).map fun i =>
    if to_ ≤ i ∧ i < to_ + n then ((rs[i - to_]?).getD (0, 0)).1 else elem d wd i
  (ofElems wd out, allFlags rs)

/-- The elements of a gang's registers in the 64-bit view, permuted (R208): what member j receives. -/
def permuted (k : Nat) (srcs : List VReg) (j : Nat) : VReg :=
  mapLanes fun l =>
    let i := (4 * j + l) ^^^ (2 ^ k)
    laneOf ((srcs[i / 4]?).getD 0) (i % 4)

/-- The 32 FP32 codes of four registers. -/
def codesOf (vs : List VReg) : List Nat := vs.flatMap fun v => elems v 32

/-- `vdquant` (R106, R214): the four registers of a block. DESIGN CHOICE (log entry 83): a product beyond FP32's range is rounded to
nearest, which gives an infinity, and raises no flag. -/
def dequantized (block : List Byte) : List VReg :=
  (upFrom 0 4).map fun j => ofElems 32 ((upFrom 0 8).map fun i => (fp32.encode .rne (blockElement block (8 * j + i))).1)

end Sys2Proof.Machine
end

