-- ==== Sys2Proof/Machine/VectorOps.lean ====
section
/-! DEFINITION. The vector instructions at issue (R194, R201-R217): operands sampled, stochastic values drawn, one command
placed in the queue of every core that runs it. -/

namespace Sys2Proof.Machine

/-! ## Placing a command -/

/-- The gang tag of a member. -/
def Thread.tagOf (t : Thread) (leader member : Nat) : Option GangTag := t.gang.map fun n => { leader, size := n, member }

/-- The command placed in the queue of every core that runs it; the members' copies share a number. -/
def State.pushVector (s : State) (t : Thread) (op : Nat → VOp) : State :=
  let place (s' : State) (j : Nat) : State :=
    let c := s.curCore + j
    let k := s'.core c
    s'.setCore c { k with vqueue := k.vqueue ++ [{
      ctx := t.ctx, slot := s.curSlot, uid := t.uid, pc := t.pc, gang := t.tagOf s.curCore j, serial := s.serial
      issued := s.issueOf t, op := op j }] }
  let s' := (upFrom 0 (t.gang.getD 1)).foldl place s
  { s' with serial := s.serial + 1 }

/-- A command that its thread does not wait for. -/
def State.vectorAct (s : State) (t : Thread) (op : Nat → VOp) : Act :=
  if s.vectorRoom s.curCore t then .go fun s' => (s'.pushVector t op).done else .notReady 11

/-- A vector instruction without scalar operands. -/
def vectorOp (s : State) (op : VOp) : Result := run s fun t => s.issue t [] 0 true (s.vectorAct t fun _ => op)

/-- One with a g operand. -/
def vectorOpG (s : State) (rs1 : Reg) (op : Word → VOp) : Result :=
  run s fun t =>
    let x := s.readg t [] rs1
    s.issue t [rs1] 0 true (s.vectorAct t fun _ => op x)

/-- One that rounds (R203): ILLEGAL while FSTAT.rm holds 6 or 7; in stochastic mode it draws n values for each member, in
gang-wide order. -/
def vectorRounds (s : State) (n : Nat) (op : Nat → List (BitVec 16) → VOp) : Result :=
  run s fun t => s.issue t [] 0 true
    (if !s.vectorRoom s.curCore t then .notReady 11
     else
       match t.modeOf 7 with
       | none => .trap 1 (t.iword.zeroExtend 64)
       | some mode =>
         let (draws, t') := t.drawFor mode (n * t.gang.getD 1)
         .go fun s' =>
           ((s'.onThread s'.curCore s'.curSlot fun u => { u with srseed := t'.srseed }).pushVector t fun j =>
             op mode ((draws.drop (j * n)).take n)).done)

/-! ## Integer operations -/

/-- The element width of a width field. -/
def widthBits (w : BitVec 2) : Nat := 8 * 2 ^ w.toNat

def vectorInt (s : State) (op : Nat) (rd rs1 rs2 : Reg) (w : BitVec 2) : Result :=
  vectorOp s (.int op (widthBits w) rd rs1 rs2)

def execVadd (rd rs1 rs2 : Reg) (w : BitVec 2) (s : State) : Result := vectorInt s 0 rd rs1 rs2 w
def execVsub (rd rs1 rs2 : Reg) (w : BitVec 2) (s : State) : Result := vectorInt s 1 rd rs1 rs2 w
def execVmul (rd rs1 rs2 : Reg) (w : BitVec 2) (s : State) : Result := vectorInt s 2 rd rs1 rs2 w
def execVand (rd rs1 rs2 : Reg) (w : BitVec 2) (s : State) : Result := vectorInt s 3 rd rs1 rs2 w
def execVor (rd rs1 rs2 : Reg) (w : BitVec 2) (s : State) : Result := vectorInt s 4 rd rs1 rs2 w
def execVxor (rd rs1 rs2 : Reg) (w : BitVec 2) (s : State) : Result := vectorInt s 5 rd rs1 rs2 w
def execVsll (rd rs1 rs2 : Reg) (w : BitVec 2) (s : State) : Result := vectorInt s 6 rd rs1 rs2 w
def execVsrl (rd rs1 rs2 : Reg) (w : BitVec 2) (s : State) : Result := vectorInt s 7 rd rs1 rs2 w
def execVsra (rd rs1 rs2 : Reg) (w : BitVec 2) (s : State) : Result := vectorInt s 8 rd rs1 rs2 w
def execVmin (rd rs1 rs2 : Reg) (w : BitVec 2) (s : State) : Result := vectorInt s 9 rd rs1 rs2 w
def execVmax (rd rs1 rs2 : Reg) (w : BitVec 2) (s : State) : Result := vectorInt s 10 rd rs1 rs2 w
def execVminu (rd rs1 rs2 : Reg) (w : BitVec 2) (s : State) : Result := vectorInt s 11 rd rs1 rs2 w
def execVmaxu (rd rs1 rs2 : Reg) (w : BitVec 2) (s : State) : Result := vectorInt s 12 rd rs1 rs2 w

/-! ## Floating operations -/

/-- The elements of a register in a format. -/
def elemCount (fmt : BitVec 2) : Nat := 256 / widthOf fmt.toNat

def vectorFp (s : State) (op : Nat) (rd rs1 rs2 : Reg) (fmt : BitVec 2) : Result :=
  vectorRounds s (elemCount fmt) fun mode draws => .fp op fmt.toNat mode draws rd rs1 rs2

def execVfadd (rd rs1 rs2 : Reg) (fmt : BitVec 2) (s : State) : Result := vectorFp s 0 rd rs1 rs2 fmt
def execVfsub (rd rs1 rs2 : Reg) (fmt : BitVec 2) (s : State) : Result := vectorFp s 1 rd rs1 rs2 fmt
def execVfmul (rd rs1 rs2 : Reg) (fmt : BitVec 2) (s : State) : Result := vectorFp s 2 rd rs1 rs2 fmt
def execVfma (rd rs1 rs2 : Reg) (fmt : BitVec 2) (s : State) : Result := vectorFp s 3 rd rs1 rs2 fmt
def execVfmin (rd rs1 rs2 : Reg) (fmt : BitVec 2) (s : State) : Result := vectorOp s (.fp 4 fmt.toNat 0 [] rd rs1 rs2)
def execVfmax (rd rs1 rs2 : Reg) (fmt : BitVec 2) (s : State) : Result := vectorOp s (.fp 5 fmt.toNat 0 [] rd rs1 rs2)

/-! ## Modular operations -/

def execVaddm (rd rs1 rs2 : Reg) (s : State) : Result := vectorOp s (.modular 0 rd rs1 rs2)
def execVsubm (rd rs1 rs2 : Reg) (s : State) : Result := vectorOp s (.modular 1 rd rs1 rs2)
def execVmulm (rd rs1 rs2 : Reg) (s : State) : Result := vectorOp s (.modular 2 rd rs1 rs2)
def execVmont (rd rs1 rs2 : Reg) (s : State) : Result := vectorOp s (.modular 3 rd rs1 rs2)
def execVbfly (rd rs1 : Reg) (s : State) : Result := vectorOp s (.bfly false rd rs1)
def execVbflyi (rd rs1 : Reg) (s : State) : Result := vectorOp s (.bfly true rd rs1)
def execVqset (rs1 rs2 : Reg) (s : State) : Result := vectorOp s (.qset rs1 rs2)

/-- R208: 2^k must lie below the gang's element count. -/
def execVpermBf (rd rs1 : Reg) (k : BitVec 5) (s : State) : Result :=
  run s fun t => s.issue t [] 0 true
    (if !s.vectorRoom s.curCore t then .notReady 11
     else if 4 * t.gang.getD 1 ≤ 2 ^ k.toNat then .trap 2 (k.zeroExtend 64)
     else s.vectorAct t fun _ => .perm k.toNat rd rs1)

/-! ## Moves, compares and select -/

def execVins (rd rs1 : Reg) (n : BitVec 5) (s : State) : Result := vectorOpG s rs1 fun x => .ins n.toNat x rd
def execVbcast (rd rs1 : Reg) (s : State) : Result := vectorOpG s rs1 fun x => .bcast x rd
def execVcmpeqS (rd rs1 rs2 : Reg) (s : State) : Result := vectorOp s (.cmp 0 rd rs1 rs2)
def execVcmpltS (rd rs1 rs2 : Reg) (s : State) : Result := vectorOp s (.cmp 1 rd rs1 rs2)
def execVcmpleS (rd rs1 rs2 : Reg) (s : State) : Result := vectorOp s (.cmp 2 rd rs1 rs2)
def execVsel (rd rs1 rs2 : Reg) (s : State) : Result := vectorOp s (.sel rd rs1 rs2)

/-! ## Result reads and reductions (R209) -/

/-- A command whose result the thread awaits. -/
def State.vectorAwait (s : State) (t : Thread) (cause : Nat) (wait : Nat → Wait) (op : Nat → VOp) : State :=
  let s' := s.pushVector t op
  s'.onCur fun u => s'.await u cause (wait s.serial)

def execVmvx (rd rs1 : Reg) (n : BitVec 5) (s : State) : Result :=
  run s fun t => s.issue t [] rd true
    (if s.vectorRoom s.curCore t then
      .go fun s' => s'.vectorAwait t 11 (fun n => .vector (.g rd 8 false) n t.srseed) fun _ => .mvx n.toNat rd rs1
     else .notReady 11)

/-- `vredsum.s` draws one value for each addition of the gang-wide tree (R203). Its wait keeps SRSEED as it was, for a report point
that traps (R197). -/
def execVredsumS (rd rs1 : Reg) (s : State) : Result :=
  run s fun t => s.issue t [] 0 true
    (if !s.vectorRoom s.curCore t then .notReady 11
     else
       match t.modeOf 7 with
       | none => .trap 1 (t.iword.zeroExtend 64)
       | some mode =>
         let (draws, t') := t.drawFor mode (8 * t.gang.getD 1 - 1)
         .go fun s' =>
           (s'.onThread s'.curCore s'.curSlot fun u => { u with srseed := t'.srseed }).vectorAwait t 11
             (fun n => .vector (.f rd) n t.srseed) fun _ => .redsum mode draws rd rs1)

def execVredmaxS (rd rs1 : Reg) (s : State) : Result :=
  run s fun t => s.issue t [] 0 true
    (if s.vectorRoom s.curCore t then
      .go fun s' => s'.vectorAwait t 11 (fun n => .vector (.f rd) n t.srseed) fun _ => .redmax rd rs1
     else .notReady 11)

/-! ## Loads, stores, conversions, blocks -/

def execVld (rd rs1 : Reg) (imm : BitVec 12) (s : State) : Result := vectorOpG s rs1 fun x => .load (x + simm imm) rd
def execVst (rs1 rs2 : Reg) (imm : BitVec 12) (s : State) : Result := vectorOpG s rs1 fun x => .store (x + simm imm) rs2

/-- A pair that never rounds reads no rm and draws nothing (R110). -/
def execVcvt (rd rs1 : Reg) (dst : BitVec 4) (src : BitVec 3) (part : BitVec 5) (s : State) : Result :=
  if neverRounds dst.toNat src.toNat then
    run s fun t => s.issue t [] 0 true
      (s.vectorAct t fun _ => .cvt dst.toNat src.toNat part.toNat 0 t.sat [] rd rs1)
  else
    match s.cur? with
    | none => .fault .noThread
    | some t => vectorRounds s (256 / max (widthOf dst.toNat) (widthOf src.toNat)) fun mode draws =>
        .cvt dst.toNat src.toNat part.toNat mode t.sat draws rd rs1

def execVquant (rs1 rs2 : Reg) (s : State) : Result := vectorOpG s rs1 fun x => .quant x rs2
def execVdquant (rd rs1 : Reg) (s : State) : Result := vectorOpG s rs1 fun x => .dquant x rd

/-- The issuing thread parks (STALL9) until vd is written on every member (R215). -/
def execVsfu (rd rs1 : Reg) (op : BitVec 5) (s : State) : Result :=
  run s fun t => s.issue t [] 0 true
    (if s.vectorRoom s.curCore t then .go fun s' => s'.vectorAwait t 9 .sfu fun _ => .sfu op.toNat rd rs1
     else .notReady 11)

/-- R217: GBASE, GBLK and the bound are sampled at issue. -/
def execGathb (rs1 rs2 : Reg) (s : State) : Result :=
  run s fun t =>
    let d := s.readg t [] rs1
    s.issue t [rs1] 0 true (s.vectorAct t fun _ =>
      .gather d t.gbase t.gblk (BitVec.ofNat 64 (bits t.gbound 0 48)) rs2)

/-! ## The report points (R197, R198) -/

/-- The report of a thread's vector unit: the deferred fault, then a refused gather. -/
def Thread.vectorReport (t : Thread) : Option (Trap × Thread) :=
  if t.vdpend then some ({ cause := 16, utval := t.vdpc, sub := t.vdcode.toNat }, { t with vdpend := false })
  else if t.gpend then some ({ cause := 18, utval := t.gpc }, { t with gpend := false })
  else none

def execVfence (s : State) : Result :=
  run s fun t => s.issue t [] 0 true
    (if s.vectorBusy s.curCore t then .notReady 11
     else
       match t.vectorReport with
       | some (k, u) => .go fun s' => (s'.setCur u).trapAt s'.curCore s'.curSlot k
       | none => .go fun s' => s'.done)

end Sys2Proof.Machine
end

