-- ==== Sys2Proof/Machine/MatrixOps.lean ====
section
/-! DEFINITION. The matrix, top-k and combine instructions at issue (R222, R227-R244): operands sampled, the checks that are
made at issue, one command placed in the chosen queue of every core that runs it; remote commands (R236). -/

namespace Sys2Proof.Machine

/-! ## Placing a command -/

/-- MPRI.high of the thread (R221). -/
def Thread.high (t : Thread) : Bool := t.mpri.getLsbD 0

/-- A command at the end of its queue. -/
def Matrix.enqueue (m : Matrix) (q : MCmd) : Matrix :=
  if q.high then { m with hiQueue := m.hiQueue ++ [q] } else { m with loQueue := m.loQueue ++ [q] }

/-- Room in the chosen queue of every core that runs the command (8 entries). -/
def State.matrixRoom (s : State) (c : Nat) (t : Thread) : Bool :=
  (memberCores c t).all fun d => decide (((s.core d).mx.queue t.high).length < 8)

/-- The command placed in the queue of every core that runs it. -/
def State.pushMatrix (s : State) (t : Thread) (op : MOp) : State :=
  (upFrom 0 (t.gang.getD 1)).foldl (fun s' j =>
    let c := s.curCore + j
    let k := s'.core c
    s'.setCore c { k with mx := k.mx.enqueue {
      ctx := t.ctx, slot := s.curSlot, uid := t.uid, pc := t.pc, high := t.high, gang := t.tagOf s.curCore j
      issued := s.issueOf t, op } }) s

/-- An instruction with g operands, a check at issue, and the command it places. It is not ready while the queue is full, whatever
the check would find (R13, R222). -/
def matrixOp (s : State) (reads : List Reg) (check : Thread → Option (Nat × Word)) (op : Thread → MOp) : Result :=
  run s fun t => s.issue t reads 0 true
    (if !s.matrixRoom s.curCore t then .notReady 11
     else
       match check t with
       | some (cause, utval) => .trap cause utval
       | none => .go fun s' => (s'.pushMatrix t (op t)).done)

def noCheck (_ : Thread) : Option (Nat × Word) := none

/-! ## Weights -/

def execMldw (rs1 : Reg) (fmt : BitVec 5) (s : State) : Result :=
  matrixOp s [rs1] noCheck fun t => .ldw fmt.toNat (s.readg t [] rs1)
def execMswap (s : State) : Result := matrixOp s [] noCheck fun _ => .swap
def execMzero (rd : Reg) (s : State) : Result := matrixOp s [] noCheck fun _ => .zero rd.toNat

/-! ## Multiplies -/

/-- R229: a row count outside 1-16 is ILLEGAL_CONFIG. -/
def rowsTrap (rows : Word) : Option (Nat × Word) := if rows.toNat < 1 ∨ 16 < rows.toNat then some (2, rows) else none

def multiply (s : State) (fa fw : Nat) (rd rs1 rs2 rs3 : Reg) : Result :=
  matrixOp s [rs1, rs2] (fun t => rowsTrap (s.readg t [rs1] rs2)) fun t =>
    .mma fa fw rd.toNat (s.readg t [] rs1) (s.readg t [rs1] rs2) (t.getF rs3)

def execMmaE43E43 (rd rs1 rs2 rs3 : Reg) (s : State) : Result := multiply s 3 3 rd rs1 rs2 rs3
def execMmaE43E52 (rd rs1 rs2 rs3 : Reg) (s : State) : Result := multiply s 3 4 rd rs1 rs2 rs3
def execMmaE52E43 (rd rs1 rs2 rs3 : Reg) (s : State) : Result := multiply s 4 3 rd rs1 rs2 rs3
def execMmaE52E52 (rd rs1 rs2 rs3 : Reg) (s : State) : Result := multiply s 4 4 rd rs1 rs2 rs3
def execMmaE21xE21x (rd rs1 rs2 rs3 : Reg) (s : State) : Result := multiply s 7 7 rd rs1 rs2 rs3
def execMmaE43E21x (rd rs1 rs2 rs3 : Reg) (s : State) : Result := multiply s 3 7 rd rs1 rs2 rs3
def execMmaBfBf (rd rs1 rs2 rs3 : Reg) (s : State) : Result := multiply s 1 1 rd rs1 rs2 rs3
def execMmaSS (rd rs1 rs2 rs3 : Reg) (s : State) : Result := multiply s 0 0 rd rs1 rs2 rs3
def execMmaI8I8 (rd rs1 rs2 : Reg) (s : State) : Result := multiply s 5 5 rd rs1 rs2 0

/-! ## Reading out and masks -/

/-- Only an `mrd` that rounds reads rm: ILLEGAL while it holds 6 or 7, 256 draws in stochastic mode (R222, R233). -/
def execMrd (rd rs1 : Reg) (fmt : BitVec 5) (s : State) : Result :=
  run s fun t =>
    let d := s.readg t [] rs1
    s.issue t [rs1] 0 true
      (if !s.matrixRoom s.curCore t then .notReady 11
       else if !mrdRounds fmt.toNat then
         .go fun s' => (s'.pushMatrix t (.read fmt.toNat rd.toNat d 0 t.sat [])).done
       else
         match t.modeOf 7 with
         | none => .trap 1 (t.iword.zeroExtend 64)
         | some mode =>
           let (draws, t') := t.drawFor mode 256
           .go fun s' =>
             ((s'.onThread s'.curCore s'.curSlot fun u => { u with srseed := t'.srseed }).pushMatrix t
               (.read fmt.toNat rd.toNat d mode t.sat draws)).done)

def execMrdExp (rd rs1 rs2 : Reg) (s : State) : Result :=
  matrixOp s [rs1] noCheck fun t => .readExp rd.toNat (s.readg t [] rs1) (t.getF rs2)
def execMrmax (rd rs1 : Reg) (s : State) : Result := matrixOp s [rs1] noCheck fun t => .rowMax rd.toNat (s.readg t [] rs1)
def execMtmask (rd rs1 rs2 rs3 : Reg) (s : State) : Result :=
  matrixOp s [rs1, rs2] noCheck fun t => .mask rd.toNat (s.readg t [] rs1) (s.readg t [rs1] rs2) (t.getF rs3)

/-! ## Rotation (R231) -/

def rotX (g : Word) : Nat := bits g 0 8
def rotY (g : Word) : Nat := bits g 8 8
def rotW (g : Word) : Nat := bits g 16 8 + 1
def rotH (g : Word) : Nat := bits g 24 8 + 1

/-- The cores of a rotation group. -/
def rotCores (g : Word) : List Nat :=
  (upFrom (rotY g) (rotH g)).flatMap fun y => (upFrom (rotX g) (rotW g)).map fun x => y * 256 + x

/-- The checks of `mrot` at issue. -/
def State.rotTrap (s : State) (c : Nat) (t : Thread) (g : Word) : Option (Nat × Word) :=
  if bits g 32 32 ≠ 0 ∨ 256 < rotX g + rotW g ∨ 256 < rotY g + rotH g ∨ !(rotCores g).contains c ∨ t.gang.isSome then
    some (2, g)
  else if (rotCores g).all (fun d => s.reachable t.ctx d) then none else some (5, g)

def execMrot (rs1 : Reg) (s : State) : Result :=
  matrixOp s [rs1] (fun t => s.rotTrap s.curCore t (s.readg t [] rs1)) fun t => .rot (s.readg t [] rs1)

/-! ## Top-k and the routing counters -/

/-- R241: the row length TKN.n must lie in 1-256 and not below k. -/
def topkTrap (t : Thread) (k : Nat) : Option (Nat × Word) :=
  let n := bits t.tkn 0 9
  if n < 1 ∨ 256 < n ∨ n < k then some (2, t.tkn) else none

def topk (s : State) (e : Nat) (count : Bool) (rs1 rs2 : Reg) (k : BitVec 5) : Result :=
  matrixOp s [rs1, rs2] (fun t => topkTrap t k.toNat) fun t =>
    .topk e count k.toNat (bits t.tkn 0 9) (s.readg t [] rs1) (s.readg t [rs1] rs2)

def execTopkS (rs1 rs2 : Reg) (k : BitVec 5) (s : State) : Result := topk s 32 false rs1 rs2 k
def execTopkSC (rs1 rs2 : Reg) (k : BitVec 5) (s : State) : Result := topk s 32 true rs1 rs2 k
def execTopkBf (rs1 rs2 : Reg) (k : BitVec 5) (s : State) : Result := topk s 16 false rs1 rs2 k
def execTopkBfC (rs1 rs2 : Reg) (k : BitVec 5) (s : State) : Result := topk s 16 true rs1 rs2 k
def execRcsnap (rs1 : Reg) (s : State) : Result := matrixOp s [rs1] noCheck fun t => .snap (s.readg t [] rs1)

/-! ## Combining -/

/-- R244: the checks of a put at issue. -/
def putTrap (cfg : Word) (rank : Nat) (t : Word) : Option (Nat × Word) :=
  if !cfg.getLsbD 63 || decide (combK cfg ≤ rank) || decide (combTokens cfg ≤ t.toNat) then some (2, t) else none

def combPut (s : State) (bf : Bool) (rs1 rs2 rs3 : Reg) (rank : BitVec 5) : Result :=
  matrixOp s [rs1, rs2] (fun t => putTrap t.cmbcfg rank.toNat (s.readg t [] rs1)) fun t =>
    .put bf rank.toNat (s.readg t [] rs1) (s.readg t [rs1] rs2) (t.getF rs3) t.cmbcfg

def execCombPutS (rs1 rs2 rs3 : Reg) (rank : BitVec 5) (s : State) : Result := combPut s false rs1 rs2 rs3 rank
def execCombPutBf (rs1 rs2 rs3 : Reg) (rank : BitVec 5) (s : State) : Result := combPut s true rs1 rs2 rs3 rank

/-! ## Remote commands (R236, R237) -/

/-- The operation of a descriptor: one of the listed words, its g and f register fields 0, with its values. -/
def remoteOp (i : Instr) (op1 op2 : Word) (v : BitVec 32) : Option MOp :=
  let mma (fa fw : Nat) (acc r1 r2 r3 : Reg) : Option MOp :=
    if r1 = 0 ∧ r2 = 0 ∧ r3 = 0 then some (.mma fa fw acc.toNat op1 op2 v) else none
  match i with
  | .mldw r fmt => if r = 0 then some (.ldw fmt.toNat op1) else none
  | .mswap => some .swap
  | .mzero acc => some (.zero acc.toNat)
  | .mmaE43E43 a x y z => mma 3 3 a x y z
  | .mmaE43E52 a x y z => mma 3 4 a x y z
  | .mmaE52E43 a x y z => mma 4 3 a x y z
  | .mmaE52E52 a x y z => mma 4 4 a x y z
  | .mmaE21xE21x a x y z => mma 7 7 a x y z
  | .mmaE43E21x a x y z => mma 3 7 a x y z
  | .mmaBfBf a x y z => mma 1 1 a x y z
  | .mmaSS a x y z => mma 0 0 a x y z
  | .mmaI8I8 a x y => mma 5 5 a x y 0
  | .mrd a r fmt => if r = 0 then some (.read fmt.toNat a.toNat op1 0 true []) else none
  | .mrdExp a r f => if r = 0 ∧ f = 0 then some (.readExp a.toNat op1 v) else none
  | .mrmax a r => if r = 0 then some (.rowMax a.toNat op1) else none
  | .mtmask a x y z => if x = 0 ∧ y = 0 ∧ z = 0 then some (.mask a.toNat op1 op2 v) else none
  | _ => none

/-- R237: a row count outside 1-16 is refused. -/
def MOp.rowsOk (o : MOp) : Bool :=
  match o with
  | .mma _ _ _ _ rows _ => (rowsTrap rows).isNone
  | _ => true

/-- The operation and the signal of a descriptor of four 8-byte words, if its word is listed and its reserved fields
are 0. -/
def descriptorOp (w0 op1 op2 w3 : Word) : Option (MOp × BitVec 32) :=
  let signal := w3.extractLsb' 0 32
  if bits w3 32 32 ≠ 0 ∨ bits w3 21 10 ≠ 0 then none
  else
    match decode (w0.extractLsb' 0 32) with
    | .ok i =>
      match remoteOp i op1 op2 (w0.extractLsb' 32 32) with
      | some o => if o.rowsOk then some (o, signal) else none
      | none => none
    | .error _ => none

/-- The checks of `mcmd` at issue. -/
def State.mcmdTrap (s : State) (t : Thread) (a d : Word) : Option (Nat × Word) :=
  if bits a 17 47 ≠ 0 then some (2, a)
  else if isService (bits a 0 16) then some (5, a)
  else if d.toNat % 32 ≠ 0 then some (3, d)
  else if d.toNat < 0x800 ∨ localSize < d.toNat + 32 ∨ s.specOff t.ctx d.toNat 32 then some (4, d) else none

/-- The earlier commands of a thread to one queue of a core, still on their way; those sent before it migrated too (R236). -/
def State.earlierCommands (s : State) (t : Thread) (dest : Nat) (high : Bool) : List Nat :=
  (s.net.filter fun p => (p.uid = t.uid || t.sent.contains p.id) && match p.kind with
    | .command d h _ _ _ => d = dest && h == high
    | _ => false).map fun p => p.id

/-- A remote command sent with the core's MCAP, behind the thread's stores. -/
def State.sendCommand (s : State) (t : Thread) (a : Word) (ws : List Word) : State :=
  let at_ (i : Nat) : Word := (ws[i]?).getD 0
  let dest := bits a 0 16
  let high := a.getLsbD 16
  let (op, signal, valid) : MOp × BitVec 32 × Bool :=
    match descriptorOp (at_ 0) (at_ 1) (at_ 2) (at_ 3) with
    | some (o, g) => (o, g, true)
    | none => (.swap, 0, false)
  let q : MCmd := { ctx := t.ctx, slot := 0, uid := 0, pc := 0, high, remote := some { sender := s.curCore, signal }, op }
  s.sendCur t (.command dest high s.here.mcap q valid) false (s.fenced t ++ s.earlierCommands t dest high)

def execMcmd (rs1 rs2 : Reg) (s : State) : Result :=
  run s fun t =>
    let a := s.readg t [] rs1
    let d := s.readg t [rs1] rs2
    s.issue t [rs1, rs2] 0 true
      (match s.mcmdTrap t a d with
        | some (cause, utval) => .trap cause utval
        | none => .go fun s' => s'.readWords t.ctx ((upFrom 0 4).map fun i => d.toNat + 8 * i) [] fun ws s'' =>
            (s''.sendCommand t a ws).done)

/-! ## Waiting (R238) -/

/-- Both queues of every member's core are empty and nothing runs. -/
def State.matrixIdle (s : State) (c : Nat) (t : Thread) : Bool :=
  !s.matrixBusy c t && (memberCores c t).all fun d =>
    let m := (s.core d).mx
    m.hiQueue.isEmpty && m.loQueue.isEmpty && m.run.isNone

def execMwait (s : State) : Result :=
  run s fun t => s.issue t [] 0 true
    (if !s.matrixIdle s.curCore t then .notReady 11
     else if t.mdpend then .go fun s' =>
       (s'.setCur { t with mdpend := false }).trapAt s'.curCore s'.curSlot { cause := 17, utval := t.mdpc, sub := t.mdcode.toNat }
     else .go fun s' => s'.done)

end Sys2Proof.Machine
end

