-- ==== Sys2Proof/Machine/Sfu.lean ====
section
/-! DEFINITION. The accuracy of the special-function unit (R116): the exact results enclosed by fixed-point arithmetic of 512
fraction bits, and which FP32 codes lie within the error that the rule allows. -/

namespace Sys2Proof.Machine

/-! ## Fixed-point arithmetic: integers in units of 2^-512 -/

def fxOne : Int := 2 ^ 512
def fxMul (a b : Int) : Int := a * b / fxOne
def fxDiv (a b : Int) : Int := a * fxOne / b
def fxClamp (n : Int) (x : Int) : Int := max (-n * fxOne) (min (n * fxOne) x)

/-- The square root, for a number that is not negative. -/
def fxSqrt (a : Int) : Int := rootFrom 2 (a * fxOne).toNat 700 0

/-- A dyadic number in units of 2^-512. -/
def Dy.fixed (a : Dy) : Int := (⟨a.m, a.e + 512⟩ : Dy).floor

/-- The sum of k terms of a series, each weighed and then turned into the next by its index. -/
def fxSum (weigh next : Int → Int → Int) : Nat → Int → Int → Int
  | 0, _, _ => 0
  | k + 1, n, t => weigh n t + fxSum weigh next k (n + 1) (next n t)

/-- z + z³/3 + z⁵/5 + …, and the same with alternating signs. -/
def fxAtanh (z : Int) : Int := fxSum (fun n t => t / (2 * n + 1)) (fun _ t => fxMul t (fxMul z z)) 400 0 z
def fxAtan (z : Int) : Int := fxSum (fun n t => t / (2 * n + 1)) (fun _ t => -fxMul t (fxMul z z)) 400 0 z

def fxLn2 : Int := 2 * fxAtanh (fxOne / 3)
def fxPi : Int := 16 * fxAtan (fxOne / 5) - 4 * fxAtan (fxOne / 239)

/-- The exponential: a power of two times that of a number of at most half of ln 2. -/
def fxExp (x : Int) : Int :=
  let k := (x + fxLn2 / 2) / fxLn2
  let r := x - k * fxLn2
  let e := fxSum (fun _ t => t) (fun n t => fxMul t r / (n + 1)) 120 0 fxOne
  if 0 ≤ k then e * 2 ^ k.toNat else e / 2 ^ (-k).toNat

/-- The logarithm of a positive number m × 2^e. -/
def fxLn (m : Nat) (e : Int) : Int :=
  let l := Nat.log2 m
  let x : Int := m * fxOne / 2 ^ l
  2 * fxAtanh (fxDiv (x - fxOne) (x + fxOne)) + (e + l) * fxLn2

/-- The sine and the cosine: reduced by whole turns. -/
def fxTurn (x : Int) : Int := x - x / (2 * fxPi) * (2 * fxPi)
def fxSin (x : Int) : Int :=
  let r := fxTurn x
  fxSum (fun _ t => t) (fun n t => -fxMul t (fxMul r r) / ((2 * n + 2) * (2 * n + 3))) 120 0 r
def fxCos (x : Int) : Int :=
  let r := fxTurn x
  fxSum (fun _ t => t) (fun n t => -fxMul t (fxMul r r) / ((2 * n + 1) * (2 * n + 2))) 120 0 fxOne

/-- x × Φ(x), the normal distribution function by its power series; far below 0 a number of the result's sign that is smaller than
any code. -/
def fxGelu (x : Int) : Int :=
  if 16 * fxOne < x then x
  else if x < -16 * fxOne then -1
  else
    let h := fxMul x x / 2
    let sum := fxSum (fun n t => t / (2 * n + 1)) (fun n t => -fxMul t h / (n + 1)) 700 0 x
    fxMul x (fxOne / 2 + fxDiv sum (fxSqrt (2 * fxPi)))

/-! ## The exact results -/

/-- The exact result of an op for an ordinary input, in units of 2^-512; beyond ±300 the exponentials are out of the range of FP32
on the same side. -/
def sfuExact (op : Nat) (v : FVal) : Int :=
  let x := v.dy.fixed
  let wide := fxClamp 300 x
  match op with
  | 0 => fxExp wide
  | 1 => fxLn v.dy.m.natAbs v.dy.e
  | 2 => fxExp (fxMul wide fxLn2)
  | 3 => fxDiv (fxLn v.dy.m.natAbs v.dy.e) fxLn2
  | 4 => fxDiv fxOne x
  | 5 => fxSqrt (fxDiv fxOne x)
  | 7 =>
    let e := fxExp (2 * wide)
    fxDiv (e - fxOne) (e + fxOne)
  | 8 =>
    let e := fxExp wide
    fxDiv e (fxOne + e)
  | 9 => fxGelu x
  | 10 => fxSin x
  | _ => fxCos x

/-! ## What R116 allows -/

/-- The units in the last place that a result may be off. -/
def sfuUlps (op : Nat) : Int :=
  match op with
  | 0 | 1 | 2 | 3 => 2
  | 4 | 5 => 1
  | _ => 4

/-- One unit in the last place of an FP32 result, in units of 2^-512; above the largest number that of the largest. -/
def fp32Ulp (code : Nat) : Int := 2 ^ (362 + min 254 (max 1 (code / 2 ^ 23 % 256)))

/-- A result is allowed for an exact value: within the error, counted from the correctly rounded result; of the exact value's sign
if that is below the smallest subnormal, and not 0 if it is not. An infinity stands for every number from 2^128 on. The last 200
bits of the fixed-point value are left to its own errors. -/
def sfuAllows (op : Nat) (exact : Int) (code : BitVec 32) : Bool :=
  let near := (fp32Rne ⟨exact, -512⟩).toNat
  let top : Int := 2 ^ 640
  let tiny : Bool := decide (exact.natAbs < 2 ^ 363)
  let off (y : Int) : Bool := decide ((y - exact).natAbs ≤ (sfuUlps op * fp32Ulp near).natAbs + 2 ^ 200)
  match fp32Val code with
  | .nan _ => false
  | .inf neg => off (if neg then min exact (-top) else max exact top)
  | .fin neg m _ => off (fp32Val code).dy.fixed && (if tiny then neg == decide (exact < 0) else m != 0)

/-- One SFU result: a special one, or the implementation's (`Config.sfu`, a free value) within the error that the rule allows; where
the free value lies outside, the correctly rounded one (log entry 9). -/
def sfuValue (op : Nat) (x : BitVec 32) : BitVec 32 :=
  match sfuSpecial op x with
  | some r => r
  | none =>
    let exact := sfuExact op (fp32Val x)
    if sfuAllows op exact (Config.sfu op x) then Config.sfu op x else fp32Rne ⟨exact, -512⟩

end Sys2Proof.Machine
end

