-- ==== Sys2Proof/Machine/VectorUnit.lean ====
section
/-! DEFINITION. The vector unit's events: a command starts (R194), its result is written (R195), a request reaches the
octet's special-function unit and its result returns (R48). -/

namespace Sys2Proof.Machine

/-! ## Faults and flags -/

/-- The core, slot and thread that issued a command running on a core. -/
def VCmd.issuer (q : VCmd) (c : Nat) : Nat × Nat × Nat :=
  match q.gang with
  | some g => (g.leader, 15, q.uid)
  | none => (c, q.slot, q.uid)

/-- R197, R200: a deferred fault; in a gang it breaks the gang and is not recorded. -/
def State.deferVector (s : State) (c : Nat) (q : VCmd) (dcode : Nat) : State :=
  match q.gang with
  | some g => s.breakGangBy g.leader c dcode
  | none =>
    s.onOwner c q.slot q.uid fun t =>
      if t.vdpend then t else { t with vdpend := true, vdcode := BitVec.ofNat 4 dcode, vdpc := q.pc }

/-- The issuing thread, in its slot or swapped out of it, changed. -/
def State.onIssuer (s : State) (c : Nat) (q : VCmd) (f : Thread → Thread) : State :=
  let (d, i, uid) := q.issuer c
  s.onOwner d i uid f

/-! ## Starting a command -/

/-- Registers that earlier commands have still to write. -/
def Core.pendingRegs (k : Core) : List Reg := k.vflight.flatMap fun f => f.cmd.op.writes

/-- Bytes that earlier commands have still to write meet a range. -/
def Core.pendingBytes (k : Core) (off n : Nat) : Bool :=
  k.vflight.any fun f =>
    match f.mem with
    | some (o, bs) => decide (o < off + n) && decide (off < o + bs.length)
    | none => false

/-- The range of local store that a command reads. -/
def VOp.reads? : VOp → Option (Nat × Nat)
  | .load a _ => some (a.toNat, 32)
  | .dquant a _ => some (a.toNat, 18)
  | _ => none

/-- R194: the command at the head must wait for results of earlier commands. -/
def Core.vectorHazard (k : Core) (o : VOp) : Bool :=
  (o.reads ++ o.writes).any (fun r => k.pendingRegs.contains r) ||
    match o.reads? with
    | some (a, n) => k.pendingBytes a n
    | none => false

/-- The address checks of a range at start: alignment, the end of local store, the constant window for a store, an enabled
speculative buffer (R211, R214). -/
def State.unitFault (s : State) (x : Nat) (a : Word) (n align : Nat) (write : Bool) : Option Nat :=
  if a.toNat % align ≠ 0 then some 1
  else if localSize < a.toNat + n then some 2
  else if write ∧ a.toNat < 0x800 then some 3
  else if s.specOff x a.toNat n then some 4 else none

def Core.vreg (k : Core) (r : Reg) : VReg := (k.v[r.toNat]?).getD 0

def Core.flying (k : Core) (f : VFlight) : Core := { k with vflight := k.vflight ++ [f] }

/-- A command in flight with what it will write. -/
def State.fly (s : State) (c : Nat) (f : VFlight) : State := s.setCore c ((s.core c).flying f)

/-- Local store of the core checked for a command: an error that cannot be corrected contains the core (R211). -/
def State.unitCheck (s : State) (x c off n : Nat) (k : State → State) : State :=
  match s.checkLocal x c c off n 9 with
  | (.ok, s') => k s'
  | (_, s') => s'.contain c

/-- Bytes of local store read for a command of a thread. -/
def State.unitRead (s : State) (x uid : Nat) (q : Issued) (c off n : Nat) (k : List Byte → State → State) : State :=
  s.unitCheck x c off n fun s' => k (s'.engineBytes uid q (.local c off) n) s'

/-- What a command computes from registers alone: the registers it writes, its flags, its value. -/
def VOp.apply (o : VOp) (v : Reg → VReg) (m : Moduli) : List (Reg × VReg) × Flags × Option Word :=
  match o with
  | .int op w vd v1 v2 => ([(vd, mapElems w (intElem op w) (v v1) (v v2))], 0, none)
  | .fp op fmt mode draws vd v1 v2 =>
    let (r, fl) := fpRegs op fmt mode draws (v vd) (v v1) (v v2)
    ([(vd, r)], fl, none)
  | .modular op vd v1 v2 => ([(vd, modularRegs op m (v v1) (v v2))], 0, none)
  | .bfly inv vd v1 =>
    let (x, y) := butterflyRegs inv m (v vd) (v (vd + 1)) (v v1)
    ([(vd, x), (vd + 1, y)], 0, none)
  | .perm k vd v1 => ([(vd, permuted k [v v1] 0)], 0, none)
  | .mvx n _ v1 => ([], 0, some (laneOf (v v1) n))
  | .ins n x vd => ([(vd, mapLanes fun l => if l = n then x else laneOf (v vd) l)], 0, none)
  | .bcast x vd => ([(vd, mapLanes fun _ => x)], 0, none)
  | .cmp op vd v1 v2 =>
    let (r, fl) := compareRegs op (v v1) (v v2)
    ([(vd, r)], fl, none)
  | .sel vd v1 v2 => ([(vd, (v vd &&& v v1) ||| (~~~(v vd) &&& v v2))], 0, none)
  | _ => ([], 0, none)

/-- A reduction of the elements of every member (R119). -/
def VOp.reduce (o : VOp) (xs : List Nat) : Nat × Flags :=
  match o with
  | .redsum mode draws _ _ => addTree mode 6 draws 0 xs
  | _ => maxTree xs

/-- The place of a command's core among its members. -/
def VCmd.member (q : VCmd) : Nat :=
  match q.gang with
  | some g => g.member
  | none => 0

/-- What a member receives of a command that crosses members, from all members' sources in order. -/
def VFlight.combine (f : VFlight) (srcs : List VReg) : VFlight :=
  let member := f.cmd.member
  match f.cmd.op with
  | .perm k vd _ => { f with regs := [(vd, permuted k srcs member)], waits := false }
  | o =>
    let (c, fl) := o.reduce (srcs.flatMap fun v => elems v 32)
    { f with value := some (BitVec.ofNat 64 c), flags := if member = 0 then fl else 0, waits := false }

/-- The flight of a command on a core. -/
def Core.flightOf (k : Core) (serial : Nat) : Option VFlight := k.vflight.find? fun f => f.cmd.serial = serial

/-- The flight of a command on a core replaced. -/
def Core.setFlight (k : Core) (serial : Nat) (g : VFlight → VFlight) : Core :=
  { k with vflight := k.vflight.map fun f => if f.cmd.serial = serial then g f else f }

/-- The cores of a command. -/
def VCmd.cores (q : VCmd) (c : Nat) : List Nat :=
  match q.gang with
  | some g => gangCores g.leader g.size
  | none => [c]

/-- The members whose data a member's part of a command needs (R200): for `vperm.bf` its own and its partner's, for a reduction
every member's. -/
def VOp.needs (o : VOp) (size member : Nat) : List Nat :=
  match o with
  | .perm k _ _ => [member, member ^^^ 2 ^ (k - 2)]
  | _ => upFrom 0 size

/-- The sources of a command that its members have read; a member that has not started it gives 0, which nothing that is complete
uses. -/
def State.sources (s : State) (c : Nat) (q : VCmd) : List VReg :=
  (q.cores c).map fun d => (((s.core d).flightOf q.serial).map fun f => f.src).getD 0

/-- A member's part has the data that it needs. -/
def State.joined (s : State) (c : Nat) (q : VCmd) (member : Nat) : Bool :=
  (q.op.needs (q.cores c).length member).all fun j =>
    (((q.cores c)[j]?).bind fun d => (s.core d).flightOf q.serial).isSome

/-- A command that crosses members: the result of every member whose data is there. -/
def State.joinFlights (s : State) (c : Nat) (q : VCmd) : State :=
  (q.cores c).zipIdx.foldl (fun v (d, j) =>
    if s.joined c q j then
      v.setCore d ((v.core d).setFlight q.serial fun f => if f.waits then f.combine (s.sources c q) else f)
    else v) s

/-- The gather's accepted lanes: index and block number. -/
def acceptedLanes (bound : Word) (v : VReg) : List (Nat × Word) :=
  (upFrom 0 4).filterMap fun l => if (laneOf v l).ult bound then some (l, laneOf v l) else none

/-- R217: refused lanes counted in the issuer's GBOUND, its report pending. -/
def Thread.refuseLanes (t : Thread) (n : Nat) (pc : Word) : Thread :=
  if n = 0 then t
  else
    let refused := min (bits t.gbound 48 16 + n) 0xFFFF
    { t with gbound := BitVec.ofNat 64 (refused * 2 ^ 48 + bits t.gbound 0 48), gpend := true
             gpc := if t.gpend then t.gpc else pc }

/-- R217: why a gather does not start. -/
def State.gatherFault (s : State) (x : Nat) (d blk : Word) : Option Nat :=
  let n := bits blk 0 13
  if n % 8 ≠ 0 ∨ n < 8 ∨ 4096 < n then some 5
  else if d.toNat % 8 ≠ 0 then some 1
  else if d.toNat < 0x800 then some 3
  else if localSize < d.toNat + 4 * n then some 2
  else if s.specOff x d.toNat (4 * n) then some 4 else none

/-- The command put back at the head of its queue with blocks that have not entered the copy engine. -/
def Core.keepBlocks (k : Core) (q : VCmd) (todo : List CopyCmd) : Core :=
  { k with vqueue := { q with op := .blocks todo } :: k.vqueue }

/-- A gather starts: its lanes are read, and their blocks wait at the head of the queue (R218). DESIGN CHOICE (log entry 81): in a
gang a member's blocks add to the counter of the member's own core. -/
def State.startGather (s : State) (c : Nat) (q : VCmd) (d base blk bound : Word) (v : VReg) : State :=
  let n := bits blk 0 13
  let lanes := acceptedLanes bound v
  let signal : Signal := if blk.getLsbD 37 then .fullCounter c (bits blk 32 5) else .full
  let (leader, slot, uid) := q.issuer c
  let block (l : Nat) (x : Word) : CopyCmd :=
    { ctx := q.ctx, core := leader, slot, uid, cove := coveOf c, dst := d + BitVec.ofNat 64 (l * n)
      src := base + x * BitVec.ofNat 64 n, len := n, signal, gather := some q.serial, issued := q.issued }
  let s := if lanes.isEmpty then s.fly c { cmd := q }
    else s.setCore c ((s.core c).keepBlocks q (lanes.map fun (l, x) => block l x))
  s.onIssuer c q fun t => t.refuseLanes (4 - lanes.length) q.pc

/-- The next block of a started gather enters the copy engine's queue of 8, in lane order; with the last one the gather leaves the
vector queue (R218). -/
def State.enterBlock (s : State) (c : Nat) (q : VCmd) (rest : List VCmd) (todo : List CopyCmd) : State :=
  let k := s.core c
  match todo with
  | [] => (s.setCore c { k with vqueue := rest }).fly c { cmd := q }
  | b :: more =>
    if 8 ≤ k.copyq.length then s
    else
      let k := { k with copyq := k.copyq ++ [b], vqueue := rest }
      if more.isEmpty then (s.setCore c k).fly c { cmd := q } else s.setCore c (k.keepBlocks q more)

/-- The command taken from the head of the queue starts. -/
def State.startVector (s : State) (c : Nat) (q : VCmd) : State :=
  let k := s.core c
  let m := (k.slot q.slot).mod
  let v := k.vreg
  match q.op with
  | .qreset => s.setSlot c q.slot { k.slot q.slot with mod := {} }
  | .qset v1 v2 =>
    let lanes (r : VReg) : Vector Word 4 := #v[laneOf r 0, laneOf r 1, laneOf r 2, laneOf r 3]
    (s.setSlot c q.slot { k.slot q.slot with mod := { q := lanes (v v1), mu := lanes (v v2) } }).fly c { cmd := q }
  | .load a vd =>
    match s.unitFault q.ctx a 32 32 false with
    | some n => s.deferVector c q n
    | none => s.unitRead q.ctx q.uid q.issued c a.toNat 32 fun bs s' =>
        s'.fly c { cmd := q, regs := [(vd, BitVec.ofNat 256 (leNat bs))] }
  | .store a vs =>
    match s.unitFault q.ctx a 32 32 true with
    | some n => s.deferVector c q n
    | none => s.fly c { cmd := q, mem := some (a.toNat, leBytes 32 (v vs).toNat) }
  | .quant a vs =>
    match s.unitFault q.ctx a 18 1 true with
    | some n => s.deferVector c q n
    | none =>
      let (block, fl) := quantBlock (codesOf ((regsFrom vs 4).map v))
      s.fly c { cmd := q, mem := some (a.toNat, block), flags := fl }
  | .dquant a vd =>
    match s.unitFault q.ctx a 18 1 false with
    | some n => s.deferVector c q n
    | none => s.unitRead q.ctx q.uid q.issued c a.toNat 18 fun bs s' =>
        s'.fly c { cmd := q, regs := (regsFrom vd 4).zip (dequantized bs) }
  | .cvt dst src part mode sat draws vd v1 =>
    let (r, fl) := convertRegs dst src part (fun i => { mode, sat, r := drawAt draws i }) (v vd) (v v1)
    s.fly c { cmd := q, regs := [(vd, r)], flags := fl }
  | .sfu op vd v1 =>
    (s.fly c { cmd := q, waits := true }).send
      { id := 0, ctx := q.ctx, core := c, slot := q.slot, uid := q.uid, kind := .sfuRequest (c / 8) vd op (v v1) q }
  | .gather d base blk bound vs =>
    match s.gatherFault q.ctx d blk with
    | some n => s.deferVector c q n
    | none => s.startGather c q d base blk bound (v vs)
  | .redsum _ _ _ v1 => (s.fly c { cmd := q, src := v v1, waits := true }).joinFlights c q
  | .redmax _ v1 => (s.fly c { cmd := q, src := v v1, waits := true }).joinFlights c q
  | .perm kk vd v1 =>
    if 2 ≤ kk then (s.fly c { cmd := q, src := v v1, waits := true }).joinFlights c q
    else
      let (regs, fl, value) := (VOp.perm kk vd v1).apply v m
      s.fly c { cmd := q, regs, flags := fl, value }
  | o =>
    let (regs, fl, value) := o.apply v m
    s.fly c { cmd := q, regs, flags := fl, value }

/-- A command that awaits data of other members occupies the unit (R200). -/
def Core.occupied (k : Core) : Bool := k.vflight.any fun f => f.waits && f.cmd.op.crosses

/-- A gather, whose blocks later commands do not wait for (R218). -/
def VOp.isGather (o : VOp) : Bool :=
  match o with
  | .gather _ _ _ _ _ => true
  | .blocks _ => true
  | _ => false

/-- A flight of the thread among some has still to take effect, gathers apart (R97, R218). -/
def earlier (fs : List VFlight) (uid : Nat) : Bool := fs.any fun e => e.cmd.uid = uid && !e.cmd.op.isGather

/-- A gather whose thread has earlier commands that have not taken effect: its blocks come after them (R97); gathers wait for no
blocks (R218). -/
def Core.gatherWaits (k : Core) (q : VCmd) : Bool :=
  q.op.isGather && earlier k.vflight q.uid

/-- R194: the command at the head of the queue of core `ev.n` starts, once nothing holds it back; a gather that has started enters
its next block. -/
def execVectorCommandStart (s : State) : Result :=
  let c := s.ev.n
  let k := s.core c
  match k.vqueue with
  | [] => .next s
  | q :: rest =>
    match q.op with
    | .blocks todo => .next (s.enterBlock c q rest todo).flush
    | o =>
      if k.vectorHazard o || k.occupied || k.gatherWaits q then .next s
      else .next ((s.setCore c { k with vqueue := rest }).startVector c q).flush

/-! ## Writing a result -/

/-- A fresh register for data that can no longer come, since a break discarded the command at another member. -/
def State.freshReg (s : State) : VReg × State :=
  let (a, s) := s.fresh
  let (b, s) := s.fresh
  let (c, s) := s.fresh
  let (d, s) := s.fresh
  (mapLanes fun l => (([a, b, c, d] : List Word)[l]?).getD 0, s)

/-- The copy of a waiting command of some member whose data it needs was discarded. -/
def State.flightLost (s : State) (c : Nat) (f : VFlight) : Bool :=
  f.waits && f.cmd.op.crosses && (f.cmd.op.needs (f.cmd.cores c).length f.cmd.member).any fun j =>
    match (f.cmd.cores c)[j]? with
    | none => true
    | some d => ((s.core d).flightOf f.cmd.serial).isNone && !(s.core d).vqueue.any fun q => q.serial = f.cmd.serial

/-- A waiting flight with a free value in place of what is lost. -/
def State.freeFlight (s : State) (f : VFlight) : VFlight × State :=
  let (x, s) := s.freshReg
  match f.cmd.op with
  | .perm _ vd _ => ({ f with regs := [(vd, x)], waits := false }, s)
  | _ => ({ f with value := some ((laneOf x 0).extractLsb' 0 32 |>.zeroExtend 64), waits := false }, s)

/-- A flight whose result may be written: its data is there, no earlier bytes overlap its own, its blocks are done, and the earlier
commands of its thread have taken effect, but for gathers (R97, R218). -/
def Core.landable (k : Core) (i : Nat) (f : VFlight) : Bool :=
  let first := k.vflight.take i
  let early := earlier first f.cmd.uid ||
    match f.mem with
    | some (o, bs) => ({ k with vflight := first } : Core).pendingBytes o bs.length
    | none => false
  let blocks := (k.copyq ++ (k.copying.map fun r => r.cmd).toList).any fun q => q.gather = some f.cmd.serial
  !early && !f.waits && !blocks

/-- The thread of this core that awaits a command's value: its slot, where the value goes, SRSEED before its draws, and the value. -/
def State.awaiter? (s : State) (c : Nat) (f : VFlight) : Option (Nat × Thread × Dest × Word × Word) :=
  let (d, i, uid) := f.cmd.issuer c
  match s.holder? d i uid, f.value with
  | some t, some v =>
    match t.waits with
    | some (.vector dest n seed) => if n ≠ f.cmd.serial ∨ d ≠ c then none else some (i, t, dest, seed, v)
    | _ => none
  | _, _ => none

/-- The flags of a command, and its value for the thread that awaits it. Where the report point of that thread traps, its instruction has
done nothing else: no flag is raised and SRSEED is as before the draws (R197, R209). -/
def State.landValue (s : State) (c : Nat) (f : VFlight) : State :=
  let raised := s.onIssuer c f.cmd fun t => t.raiseFlags f.flags
  match s.awaiter? c f with
  | none => raised
  | some (i, t, dest, seed, v) =>
    match t.vectorReport with
    | some (k, u) => (s.setThread c i { u with srseed := seed }).trapAt c i k
    | none => (raised.deliver c i dest v).retire c i

/-- A flight's registers, bytes and flags written, and its waiter served (R112). DESIGN CHOICE (log entry 28): bytes written to local store
for an ordered task are not broadcast. -/
def State.landVector (s : State) (c i : Nat) (f : VFlight) : State :=
  let k := s.core c
  let k := { k with
    vflight := k.vflight.take i ++ k.vflight.drop (i + 1)
    v := f.regs.foldl (fun v (r, x) => v.setIfInBounds r.toNat x) k.v }
  let s := s.setCore c k
  let s := match f.mem with
    | some (o, bs) => s.storeRange f.cmd.ctx c o bs 10
    | none => s
  s.landValue c f

/-- R195: the result of the command in flight at position `ev.m` of core `ev.n` is written. -/
def execVectorResultWrite (s : State) : Result :=
  let c := s.ev.n
  match (s.core c).vflight[s.ev.m]? with
  | none => .next s
  | some f =>
    let (f, s') := if s.flightLost c f then s.freeFlight f else (f, s)
    if (s'.core c).landable s.ev.m f then .next (s'.landVector c s.ev.m f).flush else .next s

/-! ## The special-function unit (R48) -/

/-- The octet's unit accepts the request in packet `ev.n`; a core's requests go out in issue order. -/
def execSfuRequest (s : State) : Result :=
  match s.packet? s.ev.n with
  | none => .next s
  | some p =>
    match p.kind with
    | .sfuRequest o vd op x q =>
      let first := s.net.find? fun r =>
        match r.kind with
        | .sfuRequest _ _ _ _ _ => r.core = p.core
        | _ => false
      if first.map (fun r => r.id) ≠ some p.id ∨ o ≠ p.core / 8 then .next s
      else
        let y := ofElems 32 ((elems x 32).map fun e => (sfuValue op (BitVec.ofNat 32 e)).toNat)
        .next (s.turnPacket p.id (.sfuResult vd y q))
    | _ => .next s

/-- Some member's request of a command has not returned. -/
def State.sfuPending (s : State) (c : Nat) (q : VCmd) : Bool :=
  (q.cores c).any fun d =>
    let k := s.core d
    (k.flightOf q.serial).isSome || k.vqueue.any fun r => r.serial = q.serial

/-- The thread that awaits its SFU results goes on once every member's register is written (R215). -/
def State.endSfu (s : State) (c : Nat) (q : VCmd) : State :=
  if s.sfuPending c q then s
  else
    let (d, i, uid) := q.issuer c
    match s.holder? d i uid with
    | some t => if t.waits = some (.sfu q.serial) then s.retire d i else s
    | none => s

/-- The result in packet `ev.n` returns and its register is written, once the earlier commands of its thread have taken effect (R97). -/
def execSfuResult (s : State) : Result :=
  match s.packet? s.ev.n with
  | none => .next s
  | some p =>
    match p.kind with
    | .sfuResult vd y q =>
      let c := p.core
      let k := s.core c
      if (k.flightOf q.serial).isNone then .next (s.dropPacket p.id)
      else if earlier (k.vflight.takeWhile fun f => f.cmd.serial != q.serial) q.uid then .next s
      else
        let s := s.dropPacket p.id
        let k := { k with vflight := k.vflight.filter (fun f => f.cmd.serial != q.serial)
                          v := k.v.setIfInBounds vd.toNat y }
        .next ((s.setCore c k).endSfu c q).flush
    | _ => .next s

end Sys2Proof.Machine
end

