-- ==== Sys2Proof/Machine/MatrixUnit.lean ====
section
/-! DEFINITION. The matrix unit's events: an operation starts (R223, R225) and completes (R224), an item of a rotation
arrives (R231), a remote command is delivered (R237). -/

namespace Sys2Proof.Machine

/-! ## Faults -/

/-- R225, R226, R237: a fault met at start: for a remote command counted at its sender, in a gang a break, else recorded for
the issuing thread. -/
def State.deferMatrix (s : State) (c : Nat) (q : MCmd) (dcode : Nat) : State :=
  match q.remote, q.gang with
  | some r, _ =>
    let k := s.core r.sender
    s.setCore r.sender { k with mnakFaulted := k.mnakFaulted + 1 }
  | none, some g => s.breakGangBy g.leader c dcode
  | none, none =>
    s.onOwner c q.slot q.uid fun t =>
      if t.mdpend then t else { t with mdpend := true, mdcode := BitVec.ofNat 4 dcode, mdpc := q.pc }

/-- The issuing thread of a command that is not remote, in its slot or swapped out of it, changed. -/
def State.onMatrixIssuer (s : State) (c : Nat) (q : MCmd) (f : Thread → Thread) : State :=
  if q.remote.isSome then s
  else
    let (d, i) := match q.gang with
      | some g => (g.leader, 15)
      | none => (c, q.slot)
    s.onOwner d i q.uid f

/-! ## Starting (R223, R225) -/

/-- Whether the next start comes from the high queue. -/
def Matrix.nextHigh (m : Matrix) : Bool :=
  if !m.loQueue.isEmpty && decide (3 ≤ m.streak) then false else !m.hiQueue.isEmpty

/-- The command that starts next, and the unit without it. -/
def Matrix.take (m : Matrix) : Option (MCmd × Matrix) :=
  if m.nextHigh then
    match m.hiQueue with
    | q :: rest => some (q, { m with hiQueue := rest, streak := if m.loQueue.isEmpty then 0 else m.streak + 1 })
    | [] => none
  else
    match m.loQueue with
    | q :: rest => some (q, { m with loQueue := rest, streak := 0 })
    | [] => none

/-- The range of local store that an operation reads, with its alignment. -/
def MOp.source (o : MOp) : Option (Word × Nat × Nat) :=
  match o with
  | .ldw fmt a => some (a, planeSize fmt, 32)
  | .mma fa fw _ a rows _ => some (a, rows.toNat * rowBytes fa fw, rowAlign fa)
  | .mask _ an _ _ => some (an, 128, 8)
  | .topk e _ _ n _ r => some (r, n * (e / 8), 32)
  | .put bf _ _ y _ cfg => some (y, if bf then 2 * combD cfg else 4 * combD cfg, 32)
  | _ => none

/-- The range of local store whose write an operation's own rules check, with its size; aligned to 32. -/
def MOp.dest (o : MOp) : Option (Word × Nat) :=
  match o with
  | .read fmt _ d _ _ _ => some (d, 256 * byteWidth fmt)
  | .readExp _ d _ => some (d, 1024)
  | .rowMax _ d => some (d, 64)
  | .topk e _ _ _ o _ => some (o, if e = 32 then 192 else 128)
  | .snap d => some (d, 256)
  | _ => none

/-- The first of two deferred faults by number, so that the checks of two ranges run in the order of R241. -/
def firstFault (a b : Option Nat) : Option Nat :=
  match a, b with
  | some x, some y => some (min x y)
  | some x, none => some x
  | none, y => y

/-- The active plane of a queue's pair. -/
def Matrix.active (m : Matrix) (high : Bool) : Plane := if high then m.hiActive else m.loActive

/-- The checks of an operation at start. -/
def State.matrixFault (s : State) (c : Nat) (q : MCmd) : Option Nat :=
  let src := q.op.source.bind fun (a, n, align) => s.unitFault q.ctx a n align false
  let dst := q.op.dest.bind fun (a, n) => s.unitFault q.ctx a n 32 true
  match firstFault src dst with
  | some n => some n
  | none =>
    match q.op with
    | .mma _ fw _ _ _ _ => if ((s.core c).mx.active q.high).tag = some fw then none else some 6
    | _ => none

/-- The most recent `mma` of a queue noted. -/
def Matrix.noteMma (m : Matrix) (q : MCmd) : Matrix :=
  match q.op with
  | .mma fa fw _ a rows _ =>
    let v := some (a, rows.toNat * rowBytes fa fw, rowAlign fa)
    if q.high then { m with hiMma := v } else { m with loMma := v }
  | _ => m

def State.onMatrix (s : State) (c : Nat) (f : Matrix → Matrix) : State :=
  let k := s.core c
  s.setCore c { k with mx := f k.mx }

/-- The neighbours of a core in a rotation group: west and north, with wraparound. -/
def rotWest (g : Word) (c : Nat) : Nat :=
  yOf c * 256 + rotX g + (xOf c - rotX g + rotW g - 1) % rotW g
def rotNorth (g : Word) (c : Nat) : Nat :=
  (rotY g + (yOf c - rotY g + rotH g - 1) % rotH g) * 256 + xOf c

/-- An item of a rotation applied by the operation in execution. DESIGN CHOICE (log entry 99): a tile whose place lies in the constant
window is written there. -/
def State.applyItem (s : State) (x c : Nat) (r : MRun) (i : RotItem) : State :=
  match i with
  | .tile a bs => (s.storeRange x c a bs 10).onMatrix c fun m => { m with run := some { r with needTile := false } }
  | .plane p => s.onMatrix c fun m =>
      let m := { m with run := some { r with needPlane := false } }
      if r.cmd.high then { m with hiShadow := p } else { m with loShadow := p }

/-- The items of the rotation buffer that the run needs, applied. -/
def State.applyBuffered (s : State) (x c : Nat) : State :=
  let m := (s.core c).mx
  m.rot.foldl (fun s i =>
    match (s.core c).mx.run with
    | some r => if r.needs i then s.applyItem x c r i else s
    | none => s) (s.onMatrix c fun m => { m with rot := [] })

/-- A rotation packet, behind the earlier ones to the same core. -/
def State.sendItem (s : State) (x c dest : Nat) (i : RotItem) : State :=
  let earlier := (s.net.filter fun p => match p.kind with
    | .rotation d _ => d = dest && p.core = c
    | _ => false).map fun p => p.id
  s.send { id := 0, ctx := x, core := c, slot := 0, uid := 0, after := earlier, kind := .rotation dest i }

/-- `mrot` starts: the tile of the queue's most recent `mma` and the active plane are read and sent. -/
def State.startRot (s : State) (c : Nat) (q : MCmd) (g : Word) : State :=
  let m := (s.core c).mx
  match if q.high then m.hiMma else m.loMma with
  | none => s.deferMatrix c q 7
  | some (a, n, align) =>
    match s.unitFault q.ctx a n align false with
    | some d => s.deferMatrix c q d
    | none => s.unitRead q.ctx q.uid q.issued c a.toNat n fun bs s' =>
        let s' := s'.sendItem q.ctx c (rotWest g c) (.tile a.toNat bs)
        let s' := s'.sendItem q.ctx c (rotNorth g c) (.plane (m.active q.high))
        (s'.onMatrix c fun m => { m with run := some { cmd := q, needTile := true, needPlane := true } }).applyBuffered q.ctx c

/-- A command taken from its queue starts: its checks, and its sources read. -/
def State.startMatrix (s : State) (c : Nat) (q : MCmd) : State :=
  match q.op with
  | .rot g => s.startRot c q g
  | o =>
    match s.matrixFault c q with
    | some n => s.deferMatrix c q n
    | none =>
      match o.source with
      | none => s.onMatrix c fun m => { m with run := some { cmd := q } }
      | some (a, n, _) => s.unitRead q.ctx q.uid q.issued c a.toNat n fun bs s' =>
          s'.onMatrix c fun m => { m with run := some { cmd := q, src := bs } }

/-- R223: core `ev.n` starts the next operation, unless its cove is powered off (R355). -/
def execMatrixOperationStart (s : State) : Result :=
  let c := s.ev.n
  let m := (s.core c).mx
  if s.coveOff c then .next s
  else
    match m.run, m.take with
    | none, some (q, m') => .next ((s.onMatrix c fun _ => m'.noteMma q).startMatrix c q).flush
    | _, _ => .next s

/-! ## Completing (R224) -/

def Matrix.accAt (m : Matrix) (i : Nat) : Vector (BitVec 32) 256 := (m.acc[i]?).getD (Vector.replicate 256 0)
def Matrix.setAcc (m : Matrix) (i : Nat) (v : Vector (BitVec 32) 256) : Matrix := { m with acc := m.acc.setIfInBounds i v }

/-- Bytes written by the unit with the full-empty bit of each word set (R87). -/
def State.writeFull (s : State) (x c off : Nat) (bs : List Byte) : State :=
  (s.storeRange x c off bs 10).fillWords c (wordsOf off bs.length)

/-- The fill bit and weight of a slot. -/
def Matrix.fill? (m : Matrix) (t r : Nat) : Option (BitVec 32) := find? (8 * t + r) m.fills

/-- An output row (R244). -/
def combOutput (k : Core) (cfg : Word) (t : Nat) : List Byte :=
  (upFrom 0 (combD cfg)).flatMap fun e =>
    let terms := (upFrom 0 (combK cfg)).map fun r =>
      (((k.mx.fill? t r).getD 0), (k.mem.load (combSlot cfg t r + 4 * e) 4).extractLsb' 0 32)
    leBytes 4 (combElement terms).toNat

/-- Ranges of local store read for an operation, each checked (R85): an error that cannot be corrected contains the core. -/
def State.unitChecks (s : State) (x c : Nat) (k : State → State) : List (Nat × Nat) → State
  | [] => k s
  | (off, n) :: rest => s.unitCheck x c off n fun s => s.unitChecks x c k rest

/-- The output row of a token whose last slot has been filled, its fill bits cleared, and the counter (R244). -/
def State.putOutput (s : State) (c : Nat) (q : MCmd) (cfg : Word) (n : Nat) : State :=
  let ranks := upFrom 0 (combK cfg)
  let s := s.writeFull q.ctx c (combOut cfg + 4 * combD cfg * n) (combOutput (s.core c) cfg n)
  let s := s.onMatrix c fun m => { m with fills := ranks.foldl (fun f r => drop (8 * n + r) f) m.fills }
  s.addCounter c (bits cfg 56 5) 1

/-- A put: its slot written, its fill bit set; with the last fill bit of the token, the output row and the counter. -/
def State.finishPut (s : State) (c : Nat) (q : MCmd) (src : List Byte) (bf : Bool) (rank : Nat) (t : Word) (w : BitVec 32)
    (cfg : Word) : State :=
  let n := t.toNat
  let twice := ((s.core c).mx.fill? n rank).isSome
  let s := s.storeRange q.ctx c (combSlot cfg n rank) (combRow bf src (combD cfg)) 10
  let s := if twice then s.onMatrixIssuer c q fun u => { u with cmbcfg := u.cmbcfg ||| 1 <<< 61 } else s
  let s := s.onMatrix c fun m => { m with fills := put (8 * n + rank) w m.fills }
  let ranks := upFrom 0 (combK cfg)
  if ranks.all fun r => ((s.core c).mx.fill? n r).isSome then
    s.unitChecks q.ctx c (fun s => s.putOutput c q cfg n) (ranks.map fun r => (combSlot cfg n r, 4 * combD cfg))
  else s

/-- What a completed operation writes. -/
def State.finishMatrix (s : State) (c : Nat) (r : MRun) : State :=
  let q := r.cmd
  let m := (s.core c).mx
  match q.op with
  | .ldw fmt _ => s.onMatrix c fun m =>
      let p : Plane := { bytes := r.src, tag := some fmt }
      if q.high then { m with hiShadow := p } else { m with loShadow := p }
  | .swap => s.onMatrix c fun m =>
      if q.high then { m with hiActive := m.hiShadow, hiShadow := m.hiActive }
      else { m with loActive := m.loShadow, loShadow := m.loActive }
  | .zero a => s.onMatrix c fun m => m.setAcc a (Vector.replicate 256 0)
  | .mma fa fw a _ rows v => s.onMatrix c fun m =>
      m.setAcc a (mmaAll fa fw v (m.active q.high).bytes r.src rows.toNat (m.accAt a))
  | .read fmt a d rm sat draws =>
    let (bs, fl) := readOut fmt rm sat draws (m.accAt a)
    (s.writeFull q.ctx c d.toNat bs).onMatrixIssuer c q fun t => t.raiseFlags fl
  | .readExp a d b => s.writeFull q.ctx c d.toNat (readExpOut b (m.accAt a))
  | .rowMax a d => s.writeFull q.ctx c d.toNat (rowMaxima (m.accAt a))
  | .mask a _ cb v => s.onMatrix c fun m => m.setAcc a (maskAcc r.src cb v (m.accAt a))
  | .rot _ => s
  | .topk e count k n o _ =>
    let (sel, scores) := selectTop e k n r.src
    let s := s.writeFull q.ctx c o.toNat (topkBytes e sel scores)
    if count then s.onMatrix c fun m => { m with routing := countRoutes sel m.routing } else s
  | .snap d =>
    (s.writeFull q.ctx c d.toNat (m.routing.toList.flatMap fun x => leBytes 4 x.toNat)).onMatrix c fun m =>
      { m with routing := Vector.replicate 64 0 }
  | .put bf rank t _ w cfg => s.finishPut c q r.src bf rank t w cfg

/-- The source bytes of an operation in execution, with the words that the event's operand names read only now (R230): one named
once as performed, one named again from before stores of the thread. -/
def State.resample (s : State) (c : Nat) (r : MRun) (k : MRun → State → State) : State :=
  match if s.ev.bytes.isEmpty then none else r.cmd.op.source with
  | none => k r s
  | some (a, n, _) =>
    let named := wordNumbers s.ev.bytes
    s.unitCheck r.cmd.ctx c a.toNat n fun s' =>
      let now := s'.bytesBack r.cmd.uid r.cmd.issued (.local c a.toNat) n fun i => named.count i - 1
      let src := (r.src.zip now).zipIdx.map fun ((old, new), j) => if named.contains ((a.toNat % 8 + j) / 8) then new else old
      k { r with src } s'

/-- The signal of a remote command: one add to the counter it names (R237). DESIGN CHOICE (log entry 82): a counter of a core that
is not granted, or of a service core, takes the add as any other does. -/
def State.signalRemote (s : State) (c : Nat) (q : MCmd) : State :=
  match q.remote with
  | some r =>
    if r.signal.getLsbD 31 then
      s.send { id := 0, ctx := q.ctx, core := c, slot := 0, uid := 0, kind := .counter (bits r.signal 5 16) (bits r.signal 0 5) 1 }
    else s
  | none => s

/-- The operation in execution on core `ev.n` completes, unless its cove is powered off (R355); an `mrot` once both its items have been
applied. With the flag it only reads words again (R230). -/
def execMatrixOperationComplete (s : State) : Result :=
  let c := s.ev.n
  match (s.core c).mx.run with
  | none => .next s
  | some r =>
    if r.needTile || r.needPlane || s.coveOff c then .next s
    else
      .next (s.resample c r fun r s =>
        if s.ev.flag then s.onMatrix c fun m => { m with run := some r }
        else ((s.onMatrix c fun m => { m with run := none }).finishMatrix c r).signalRemote c r.cmd).flush

/-! ## Arrivals -/

/-- The rotation item in packet `ev.n` is applied, or waits in the rotation buffer; a second item of a kind, and one for a
sealed core, stays in the network (R231, R260). -/
def execRotationArrival (s : State) : Result :=
  onPacket s fun p =>
    match p.kind with
    | .rotation c i =>
      if !(s.core c).takesItem i then s
      else
        (match (s.core c).mx.run.filter fun r => r.needs i with
          | some r => (s.dropPacket p.id).applyItem p.ctx c r i
          | none => (s.dropPacket p.id).onMatrix c fun m => { m with rot := m.rot ++ [i] })
    | _ => s

/-- The remote command in packet `ev.n` is delivered into its queue or refused, as by any core of a cove that is powered off (R355);
a full queue holds it in the network. -/
def execRemoteCommandDelivery (s : State) : Result :=
  onPacket s fun p =>
    match p.kind with
    | .command c high cap q valid =>
      let k := s.core c
      if s.coveOff c || k.refusesCommand cap valid then
        let d := s.core p.core
        (s.dropPacket p.id).setCore p.core { d with mnakRefused := d.mnakRefused + 1 }
      else if 8 ≤ (k.mx.queue high).length then s
      else (s.dropPacket p.id).onMatrix c fun m => m.enqueue { q with ctx := k.owner.getD q.ctx }
    | _ => s

end Sys2Proof.Machine
end

