-- ==== Sys2Proof/Machine/MemoryOps.lean ====
section
/-! DEFINITION. Loads and stores (R145-R147, R155), atomics (R148-R151) and fences (R90, R91, R152). -/

namespace Sys2Proof.Machine

/-! ## Loads and stores -/

/-- A load into a g register. -/
def loadG (s : State) (rd rs1 : Reg) (imm : BitVec 12) (n : Nat) (signed : Bool) : Result :=
  run s fun t => s.issue t [rs1] rd false (s.load t (s.readg t [] rs1 + simm imm) n (.g rd n signed))

/-- A store from a g register; the base is read first. -/
def storeG (s : State) (rs1 rs2 : Reg) (imm : BitVec 12) (n : Nat) : Result :=
  run s fun t => s.issue t [rs1, rs2] 0 false
    (s.store t (s.readg t [] rs1 + simm imm) n (zext (s.readg t [rs1] rs2) n))

def execLb (rd rs1 : Reg) (imm : BitVec 12) (s : State) : Result := loadG s rd rs1 imm 1 true
def execLh (rd rs1 : Reg) (imm : BitVec 12) (s : State) : Result := loadG s rd rs1 imm 2 true
def execLw (rd rs1 : Reg) (imm : BitVec 12) (s : State) : Result := loadG s rd rs1 imm 4 true
def execLd (rd rs1 : Reg) (imm : BitVec 12) (s : State) : Result := loadG s rd rs1 imm 8 false
def execLbu (rd rs1 : Reg) (imm : BitVec 12) (s : State) : Result := loadG s rd rs1 imm 1 false
def execLhu (rd rs1 : Reg) (imm : BitVec 12) (s : State) : Result := loadG s rd rs1 imm 2 false
def execLwu (rd rs1 : Reg) (imm : BitVec 12) (s : State) : Result := loadG s rd rs1 imm 4 false

def execSb (rs1 rs2 : Reg) (imm : BitVec 12) (s : State) : Result := storeG s rs1 rs2 imm 1
def execSh (rs1 rs2 : Reg) (imm : BitVec 12) (s : State) : Result := storeG s rs1 rs2 imm 2
def execSw (rs1 rs2 : Reg) (imm : BitVec 12) (s : State) : Result := storeG s rs1 rs2 imm 4
def execSd (rs1 rs2 : Reg) (imm : BitVec 12) (s : State) : Result := storeG s rs1 rs2 imm 8

def execFlw (rd rs1 : Reg) (imm : BitVec 12) (s : State) : Result :=
  run s fun t => s.issue t [rs1] 0 false (s.load t (s.readg t [] rs1 + simm imm) 4 (.f rd))

def execFsw (rs1 rs2 : Reg) (imm : BitVec 12) (s : State) : Result :=
  run s fun t => s.issue t [rs1] 0 false (s.store t (s.readg t [] rs1 + simm imm) 4 ((t.getF rs2).zeroExtend 64))

/-! ## Atomics -/

/-- An atomic of n bytes: the address, then the operand, then for `cas` the expected value in rd (R149). -/
def atomicG (s : State) (op : AtomicOp) (rd rs1 rs2 : Reg) (n : Nat) (scope : BitVec 2) : Result :=
  run s fun t =>
    let reads := if op = .cas then [rs1, rs2, rd] else [rs1, rs2]
    let e := if op = .cas then s.readg t [rs1, rs2] rd else 0
    s.issue t reads rd true (s.atomic t (s.readg t [] rs1)
      { op, n, scope, b := s.readg t [rs1] rs2, e, dest := if rd = 0 then .none else .g rd n true })

/-- The bytes of an atomic's size field. -/
def atomicSize (size : BitVec 1) : Nat := if size = 1 then 8 else 4

def execAtmSwap (rd rs1 rs2 : Reg) (size : BitVec 1) (scope : BitVec 2) (s : State) : Result :=
  atomicG s .swap rd rs1 rs2 (atomicSize size) scope
def execAtmAdd (rd rs1 rs2 : Reg) (size : BitVec 1) (scope : BitVec 2) (s : State) : Result :=
  atomicG s .add rd rs1 rs2 (atomicSize size) scope
def execAtmAnd (rd rs1 rs2 : Reg) (size : BitVec 1) (scope : BitVec 2) (s : State) : Result :=
  atomicG s .and rd rs1 rs2 (atomicSize size) scope
def execAtmOr (rd rs1 rs2 : Reg) (size : BitVec 1) (scope : BitVec 2) (s : State) : Result :=
  atomicG s .or rd rs1 rs2 (atomicSize size) scope
def execAtmXor (rd rs1 rs2 : Reg) (size : BitVec 1) (scope : BitVec 2) (s : State) : Result :=
  atomicG s .xor rd rs1 rs2 (atomicSize size) scope
def execAtmMin (rd rs1 rs2 : Reg) (size : BitVec 1) (scope : BitVec 2) (s : State) : Result :=
  atomicG s .min rd rs1 rs2 (atomicSize size) scope
def execAtmMax (rd rs1 rs2 : Reg) (size : BitVec 1) (scope : BitVec 2) (s : State) : Result :=
  atomicG s .max rd rs1 rs2 (atomicSize size) scope
def execAtmMinu (rd rs1 rs2 : Reg) (size : BitVec 1) (scope : BitVec 2) (s : State) : Result :=
  atomicG s .minu rd rs1 rs2 (atomicSize size) scope
def execAtmMaxu (rd rs1 rs2 : Reg) (size : BitVec 1) (scope : BitVec 2) (s : State) : Result :=
  atomicG s .maxu rd rs1 rs2 (atomicSize size) scope
def execAtmCas (rd rs1 rs2 : Reg) (size : BitVec 1) (scope : BitVec 2) (s : State) : Result :=
  atomicG s .cas rd rs1 rs2 (atomicSize size) scope
def execAtmFadd (rd rs1 rs2 : Reg) (scope : BitVec 2) (s : State) : Result := atomicG s .fadd rd rs1 rs2 4 scope

/-! ## Fences -/

/-- R152: an inherited FENCE acts as `fence.sc device`; it is irreversible (R136). -/
def execFence (_fm _pred _succ : BitVec 4) (s : State) : Result :=
  run s fun t => s.issue t [] 0 true (s.fenceAct t 2)

def execFenceSc (scope : BitVec 2) (s : State) : Result :=
  run s fun t => s.issue t [] 0 true (s.fenceAct t scope.toNat)

/-- R91: it waits as `fence.sc device` does; engine commands that the thread issues later read what its stores have
performed. -/
def execFenceLe (s : State) : Result :=
  run s fun t => s.issue t [] 0 true
    (if s.clear (s.fenced t) then .go fun s' => s'.finishWith fun u => { u with leFence := s'.tick + 1 } else .notReady 14)

end Sys2Proof.Machine
end

