-- ==== Sys2Proof/Machine/MessageEvents.lean ====
section
/-! DEFINITION. Messages and chains on the network (R20, R24-R26, R260): arrival, acceptance and refusal, pushes and
credits. -/

namespace Sys2Proof.Machine

/-! ## Names -/

def coreOfTid (tid : Nat) : Nat := tid / 16 % 65536
def slotOfTid (tid : Nat) : Nat := tid % 16

/-- An event of traffic to the slot that a TID names. -/
def toSlot (dest : Nat) (f : Nat → Nat → State) : State := f (coreOfTid dest) (slotOfTid dest)

/-- The queues of a slot changed. -/
def State.onQueues (s : State) (c i : Nat) (f : SlotQueues → SlotQueues) : State :=
  s.setSlot c i { s.slot c i with q := f (s.slot c i).q }

/-! ## Messages -/

/-- MESSAGE_ARRIVAL: refused by an empty slot or a sealed core, else looked at in its order (R24). -/
def execMessageArrival (s : State) : Result :=
  onPacket s fun p =>
    match p.kind with
    | .message dest m =>
      toSlot dest fun c i =>
        if (s.core c).sealed || (s.slot c i).occ == .empty then s.turnPacket p.id (.messageReply false)
        else ((s.dropPacket p.id).onQueues c i fun q => { q with waiting := q.waiting ++ [m] }).settleMessages c i
    | _ => s

/-- MESSAGE_REPLY: the sender goes on, or takes MSG_REFUSED at its `msend` (R24, R166). -/
def execMessageReply (s : State) : Result :=
  onPacket s fun p =>
    match p.kind with
    | .messageReply accepted =>
      let s := s.dropPacket p.id
      (match s.waiter? p with
        | some (_, .message target) =>
          if accepted then s.retire p.core p.slot else s.trapAt p.core p.slot { cause := 9, utval := target }
        | _ => s)
    | _ => s

/-! ## Chains -/

/-- A word for the chain queue of a slot: taken if the queue accepts the pusher's words and has room, else discarded. -/
def State.acceptPush (s : State) (c i from_ : Nat) (v : Word) : State :=
  let z := s.slot c i
  if z.q.up.en ∧ z.q.upTid.toNat = from_ ∧ z.q.up.count < z.q.up.size then
    let (k, up) := (s.core c).pushWords z.q.up [v]
    (s.setCore c (k.setSlot i { z with q := { z.q with up } })).nudge c i 4
  else s

/-- CHAIN_PUSH (R26); a push to a sealed core marks the chain refused (R260). -/
def execChainPush (s : State) : Result :=
  onPacket s fun p =>
    match p.kind with
    | .push dest from_ v =>
      toSlot dest fun c i =>
        if (s.core c).sealed then s.turnPacket p.id (.creditRefusal from_ dest)
        else (s.dropPacket p.id).acceptPush c i from_ v
    | _ => s

/-- What becomes of a credit request at its slot (R25): the packet it turns into, or a held request. -/
def SlotQueues.answer (q : SlotQueues) (dest from_ : Nat) : Option Kind :=
  if q.up.en then
    (if q.upTid.toNat = from_ then some (.creditGrant from_ (q.up.size - q.up.count)) else some (.creditRefusal from_ dest))
  else
    match q.request with
    | none => none
    | some f => if f = from_ then none else some (.creditRefusal from_ dest)

/-- A packet answered from the slot it reached. -/
def State.answerFrom (s : State) (p : Packet) (c i : Nat) (kind : Kind) : State :=
  (s.dropPacket p.id).send { id := 0, ctx := p.ctx, core := c, slot := i, uid := 0, kind }

/-- CREDIT_REQUEST. -/
def execCreditRequest (s : State) : Result :=
  onPacket s fun p =>
    match p.kind with
    | .creditRequest dest from_ =>
      toSlot dest fun c i =>
        if (s.core c).sealed then s.answerFrom p c i (.creditRefusal from_ dest)
        else
          (match (s.slot c i).q.answer dest from_ with
            | some kind => s.answerFrom p c i kind
            | none => (s.dropPacket p.id).onQueues c i fun q => { q with request := some from_ })
    | _ => s

/-- The slot's chain goes to the TID named. -/
def SlotQueues.chainsTo (q : SlotQueues) (tid : Nat) : Bool := q.up.en && q.dnTid.toNat == tid

/-- CREDIT_GRANT: credits from the thread that the slot's chain goes to. -/
def execCreditGrant (s : State) : Result :=
  onPacket s fun p =>
    match p.kind with
    | .creditGrant dest n =>
      toSlot dest fun c i =>
        let s := s.dropPacket p.id
        if (s.slot c i).q.chainsTo (tidOf p.core p.slot) then
          (s.onQueues c i fun q => { q with credits := q.credits + n }).nudge c i 5
        else s
    | _ => s

/-- CREDIT_REFUSAL: the chain is marked refused. -/
def execCreditRefusal (s : State) : Result :=
  onPacket s fun p =>
    match p.kind with
    | .creditRefusal dest from_ =>
      toSlot dest fun c i =>
        let s := s.dropPacket p.id
        if (s.slot c i).q.chainsTo from_ then
          (s.onQueues c i fun q => { q with refused := true }).nudge c i 5
        else s
    | _ => s

end Sys2Proof.Machine
end

