-- ==== Sys2Proof/Machine/Messages.lean ====
section
/-! DEFINITION. Messages: `msend`, `msendr` and `mpoll` (R165-R167). -/

namespace Sys2Proof.Machine

/-- R166: the checks of a target TID. -/
def State.tidTrap (s : State) (t : Thread) (tid : Word) : Option (Nat × Word) :=
  if bits tid 20 44 ≠ 0 then some (2, tid)
  else if !s.reachable t.ctx (bits tid 4 16) then some (5, tid) else none

/-- The message sent and its sender parked until it is accepted or refused; it releases the sender's stores (R99). -/
def State.sendMessage (s : State) (t : Thread) (tid tag : Word) (payload : List Word) : State :=
  let header : Word := BitVec.ofNat 64 (bits tag 32 32 * 2 ^ 32 + payload.length * 2 ^ 20 + s.curTid)
  (s.await t 5 (.message tid)).sendCur t
    (.message tid.toNat { core := s.curCore, slot := s.curSlot, uid := t.uid, header, payload }) false (s.fenced t)

def execMsend (rd rs1 rs2 : Reg) (n : BitVec 3) (s : State) : Result :=
  run s fun t =>
    let tid := s.readg t [] rs1
    let tag := s.readg t [rs1] rs2
    let payload := (upFrom rd.toNat (n.toNat + 1)).map fun r => t.getG (BitVec.ofNat 5 r)
    s.issue t [rs1, rs2, rd] 0 true
      (match s.tidTrap t tid with
        | some (cause, utval) => .trap cause utval
        | none => .go fun s' => s'.onCur fun u => s'.sendMessage u tid tag payload)

def execMsendr (rd rs1 rs2 : Reg) (s : State) : Result :=
  run s fun t =>
    let tid := s.readg t [] rs1
    let tag := s.readg t [rs1] rs2
    let x := s.readg t [rs1, rs2] rd
    let n := bits tag 0 4
    s.issue t [rs1, rs2, rd] 0 true
      (match s.tidTrap t tid with
        | some (cause, utval) => .trap cause utval
        | none =>
          if bits tag 4 28 ≠ 0 ∨ n = 0 ∨ 8 < n then .trap 2 tid
          else if x.toNat % 8 ≠ 0 then .trap 3 x
          else if x.toNat < 0x800 ∨ localSize < x.toNat + 8 * n ∨ s.specOff t.ctx x.toNat (8 * n) then .trap 4 x
          else .go fun s' => s'.readWords t.ctx ((upFrom 0 n).map fun k => x.toNat + 8 * k) [] fun ws s'' => s''.onCur fun u => s''.sendMessage u tid tag ws)

/-- R167: the header of the message at the head, 0 if the queue is empty. The spec states no result while the oldest
message is partly popped: a free value (log entry 13). -/
def execMpoll (rd : Reg) (s : State) : Result :=
  run s fun t => s.issue t [] rd true
    (if !s.queues.rx.en then .trap 10 28
     else
       match s.queues.msgs with
       | [] => .go fun s' => s'.finish rd 0
       | (_, false) :: _ => .go fun s' => s'.readLocal t.ctx (s.queues.rx.offset 0) 8 fun w s'' => s''.finish rd w
       | (_, true) :: _ => .go fun s' =>
           let (v, s') := s'.fresh
           s'.finish rd v)

end Sys2Proof.Machine
end

