-- ==== Sys2Proof/Machine/QueueEngine.lean ====
section
/-! DEFINITION. The queue engine: notify writes (R345), admission (R74, R344), CHEAD (R346), teardown (R348). -/

namespace Sys2Proof.Machine

/-! ## The notify page (R343) -/

/-- NOTIFY_WRITE of the value x to the page of context `ev.n`. -/
def execNotifyWrite (s : State) : Result :=
  .next (s.notify s.ev.n s.ev.x)

/-- CHEAD_WRITE of the value x for context `ev.n`: records that waited for the ring are written. -/
def execCheadWrite (s : State) : Result :=
  .next (s.writeChead s.ev.n s.ev.x).flush

/-! ## Admission (R74, R344) -/

/-- The first granted cove in ring order, or the next after one. -/
def ringNext (granted : List Nat) (last : Option Nat) : Nat :=
  let first := match last with
    | some v => ringCove v + 1
    | none => 0
  (((upFrom first 1024).map fun i => ringCove (i % 1024)).find? granted.contains).getD 0

/-- The cove that an entry's target names; `none`: neither granted nor 0xFFFF. -/
def Ctx.targetCove (k : Ctx) (target : Nat) : Option Nat :=
  if target = 0xFFFF then some (ringNext k.record.coves k.lastCove)
  else if k.record.coves.contains target then some target else none

/-- The entry has been admitted or refused. -/
def State.entryDone (s : State) (x : Nat) : State := s.onCtx x fun k => { k with shead := k.shead + 1 }

/-- An entry refused: a record of kind 1 with the status found, or an open value where none was read (R344, R346). -/
def State.refuseEntry (s : State) (x : Nat) (tcb : Word) (status : Option Nat) (cause : Nat) : State :=
  let (n, s) := match status with
    | some n => (n, s)
    | none =>
      let (w, s) := s.fresh
      (bits w 0 8, s)
  (s.record x { tcb, status := n, cause, unit := 0xFFFF, kind := 1 }).entryDone x

/-- A page that the engine needs is absent: a fault that the driver answers (R252). DESIGN CHOICE (log entry 84): after a denial it
faults again, and the entry waits until the page is there. -/
def State.engineFault (s : State) (x : Nat) (k : Ctx) (va : Word) : State :=
  s.partFault x (k.record.coves.headD 0) va

/-- The act of an entry on a TCB of sound data: as `tspawn` on an idle one, a decrement of an armed one (R74). -/
def State.admitTcb (s : State) (x : Nat) (k : Ctx) (tcb : Word) (pa target : Nat) (clean : Bool) : State :=
  let t := s.tcbTask x tcb pa
  let status := s.tcbStatus pa
  if status ≠ 0 ∧ status ≠ 1 then s.refuseEntry x tcb (some status) 13
  else if status = 0 ∧ s.tcbInvalid t then s.refuseEntry x tcb (some status) 14
  else
    match if clean then k.targetCove target else none with
    | none => s.refuseEntry x tcb (some status) 5
    | some v =>
      let s := if status = 0 then (s.spawnAt t pa v).2 else s.lower x tcb pa v
      let s := if target = 0xFFFF then s.onCtx x fun k => { k with lastCove := some v } else s
      (s.leave_ x (coreOf v 63) pa).entryDone x

/-- An entry that has been read. -/
def State.admitEntry (s : State) (x : Nat) (k : Ctx) (tcb : Word) (target rest : Nat) : State :=
  let unit := coreOf (k.record.coves.headD 0) 63
  if (s.tcbTrap x unit tcb).isSome then s.refuseEntry x tcb none 14
  else
    match s.own x tcb false with
    | (none, s) => s.engineFault x k tcb
    | (some pa, s) =>
      if s.isPeer pa then s.refuseEntry x tcb none 14
      else
        s.withOwned pa fun s =>
          match s.checkPhys x unit pa 64 tcb 9 with
          | (.ok, s) => (s.healPhys pa 64).admitTcb x k tcb pa target (rest == 0)
          | (_, s) => s.refuseEntry x tcb none 19

/-- SUBMISSION_ADMISSION of the next entry of context `ev.n`. DESIGN CHOICE (log entry 121): the record of an entry that could not be read
names TCB address 0. -/
def execSubmissionAdmission (s : State) : Result :=
  let x := s.ev.n
  match s.ctx? x with
  | none => .next s
  | some k =>
    if k.phase ≠ .open ∨ k.shead = k.tail then .next s
    else
      let at_ := k.record.sqBase + BitVec.ofNat 64 (16 * (k.shead.toNat % 2 ^ k.record.sqLg))
      .next (match s.own x at_ false with
        | (none, s) => s.engineFault x k at_
        | (some pa, s) => s.withLine pa fun s =>
          match s.checkPhys x (coreOf (k.record.coves.headD 0) 63) pa 16 at_ 9 with
          | (.ok, s) =>
            let entry := s.phys.bytes pa 16
            s.admitEntry x k (BitVec.ofNat 64 (numAt entry 0 8)) (numAt entry 8 2) (numAt entry 10 6)
          | (_, s) => s.refuseEntry x 0 none 19).flush

/-! ## Teardown (R348) -/

/-- CTX_TEARDOWN: an open context closes; one that is being killed is waited for. -/
def State.teardown (s : State) (x : Nat) : State :=
  match s.ctx? x with
  | none => s.openStatus
  | some k =>
    match k.phase with
    | .open => (s.close x 2 29 0xFFFF).hold 0xC002 x
    | .closing _ _ _ => s.hold 0xC002 x
    | _ => s.openStatus

/-- CTX_TEARDOWN. -/
def execCtxTeardown (s : State) : Result := mailbox s 2 fun s => s.teardown s.named

/-- The packet must arrive before the final record: a task's end and its releases, a migrating context, a store. -/
def Kind.outlasts (k : Kind) : Bool :=
  match k with
  | .ended _ _ _ _ _ => true
  | .releases _ _ _ _ => true
  | .migrate _ => true
  | k => k.isStore

/-- Copies of the context are in flight on some core. -/
def State.copying (s : State) (x : Nat) : Bool :=
  s.cores.any fun (_, k) => (k.copyq.any fun q => q.ctx = x) || (match k.copying with
    | some r => r.cmd.ctx == x
    | none => false)

/-- Tasks, copies and stores of the context have ended, and every record before the final one is written. -/
def State.drained (s : State) (x : Nat) (k : Ctx) : Bool :=
  !(s.net.any fun p => p.ctx = x && p.kind.outlasts) && !s.copying x && k.records.isEmpty

/-- A core that a context leaves for good. -/
def Core.released (k : Core) (x : Nat) : Core :=
  if k.owner = some x then { k.stopEngines with owner := none, frozen := false, mcap := 0 } else k

/-- A cove freed; a retiring one is retired (R355). -/
def Cove.freed (v : Cove) (x : Nat) : Cove := if v.owner = some x then v.letGo else v

/-- A fault's message or its reply: it goes its way after its context's end too, and frees its entries (R330, R331). -/
def Kind.isFault (k : Kind) : Bool :=
  match k with
  | .fault _ _ _ _ _ _ => true
  | .faultReply _ _ => true
  | _ => false

/-- Step 7: coves and id freed, the history kept (R358), the mailbox answered. -/
def State.freeContext (s : State) (x : Nat) (k : Ctx) : State :=
  let e : Ended := { ctx := x, initial := k.record.budget, final := k.ebud, history := k.history, events := k.events }
  let s : State := { s with
    coves := s.coves.map fun (q : Nat × Cove) => (q.1, q.2.freed x)
    cores := s.cores.map fun (q : Nat × Core) => (q.1, q.2.released x)
    net := s.net.filter fun p => !(p.ctx = x && p.kind.undone && !p.kind.isFault)
    ctxs := drop x s.ctxs
    pages := put x k.page s.pages
    head := { s.head with ended := (e :: s.head.ended).take 64 } }
  match s.mbox.busy with
  | some (op, y) =>
    if y ≠ x then s
    else if op = 0xC002 then s.returns 0
    else
      let (w, s) := s.fresh
      s.returns (bits w 0 32)
  | none => s

/-- TEARDOWN_COMPLETION of context `ev.n`: the final record, once it can be written, and the context's end. A page that it lacks
becomes a fault for the driver (R252). -/
def execTeardownCompletion (s : State) : Result :=
  let x := s.ev.n
  match s.ctx? x with
  | none => .next s
  | some k =>
    match k.phase with
    | .closing kind cause unit =>
      if !s.drained x k then .next s
      else
        let s' := s.record x { tcb := 0, status := 6, cause, unit, kind }
        (match s'.ctx? x with
          | some k' => .next (if k'.records.isEmpty then (s'.freeContext x k').flush else s'.setCtx x k)
          | none => .next s')
    | _ => .next s

end Sys2Proof.Machine
end

