-- ==== Sys2Proof/Machine/Sync.lean ====
section
/-! DEFINITION. The counter instructions (R176-R178), the full-empty instructions (R179-R182) and the issue of copies
(R183-R185). -/

namespace Sys2Proof.Machine

/-! ## Arrival counters -/

def execAcpost (rs1 : Reg) (n : BitVec 5) (s : State) : Result :=
  run s fun t =>
    let e := bits (s.readg t [] rs1) 0 32
    s.issue t [rs1] 0 true (.go fun s' =>
      let c := s'.curCore
      let v := s'.here.counter n.toNat
      ((s'.setCounter c n.toNat { v with expected := e, posted := true, overrun := false, done := none }).settleCounter
        c n.toNat).done)

/-- R177: the checks of a counter's name. -/
def State.nameTrap (s : State) (t : Thread) (name : Word) : Option (Nat × Word) :=
  if bits name 21 43 ≠ 0 then some (2, name)
  else if !s.reachable t.ctx (bits name 5 16) then some (5, name) else none

/-- To another core's counter it takes a store-buffer entry and does not wait. -/
def execAcadd (rs1 rs2 : Reg) (s : State) : Result :=
  run s fun t =>
    let name := s.readg t [] rs1
    let amount := bits (s.readg t [rs1] rs2) 0 32
    let core := bits name 5 16
    s.issue t [rs1, rs2] 0 true
      (match s.nameTrap t name with
        | some (cause, utval) => .trap cause utval
        | none =>
          if core = s.curCore then .go fun s' => (s'.addCounter core (bits name 0 5) amount).done
          else if s.bufferBusy s.curCore then .notReady 14
          else .go fun s' => (s'.sendCur t (.counter core (bits name 0 5) amount) true).done)

/-- A completion that woke no one is kept for the next `acwait` (log entry 8). -/
def execAcwait (rd : Reg) (n : BitVec 5) (s : State) : Result :=
  run s fun t => s.issue t [] rd true (.go fun s' =>
    let v := s'.here.counter n.toNat
    match v.done with
    | some x => (s'.setCounter s'.curCore n.toNat { v with done := none }).finish rd (BitVec.ofNat 64 x)
    | none => s'.onCur fun u => s'.await u 7 (.counter rd n.toNat))

/-- R178: the TCB's address is checked and translated as `tspawn` does; the decrement finds the TCB afresh when it is made. -/
def execActrig (rs1 : Reg) (n : BitVec 5) (s : State) : Result :=
  run s fun t =>
    let a := s.readg t [] rs1
    s.issue t [rs1] 0 true (s.tcbAct t a (.trigger n.toNat) fun _ =>
      .go fun s' => (s'.armTrigger s'.curCore t n.toNat a).done)

def execAcread (rd : Reg) (n : BitVec 5) (s : State) : Result :=
  run s fun t => s.issue t [] rd true (.go fun s' => s'.finish rd (s'.here.counter n.toNat).word)

/-! ## Full-empty loads and ranges -/

/-- `ldsync` and `ldsync.c`: in the issue cycle for the executing core's words, on arrival for others (R180), behind the stores of
the executing core that they overlap (R89). -/
def ldsync (s : State) (rd rs1 : Reg) (imm : BitVec 12) (consume : Bool) : Result :=
  run s fun t =>
    let a := s.readg t [] rs1 + simm imm
    s.issue t [rs1] rd true
      (match s.accessTrap t.ctx s.curCore a 8 false with
        | some (cause, utval) => .trap cause utval
        | none =>
          match s.localAt t.ctx s.curCore a with
          | none => .trap 4 a
          | some (c, off) => .go fun s' => s'.onCur fun u =>
              if c = s'.curCore then
                (s'.await u 10 (.data (.g rd 8 false))).syncAt u.ctx c (off / 8) consume c s'.curSlot u.uid
              else
                (s'.await u 10 (.data (.g rd 8 false))).sendCur u (.remoteSync c off consume a) false
                  (s'.behind s'.curCore (.local c off) 8))

def execLdsync (rd rs1 : Reg) (imm : BitVec 12) (s : State) : Result := ldsync s rd rs1 imm false
def execLdsyncC (rd rs1 : Reg) (imm : BitVec 12) (s : State) : Result := ldsync s rd rs1 imm true

/-- R181: the checks of a range for `feset` and `feclr`. DESIGN CHOICE (log entry 34): a length of 0 does not exempt the base. -/
def State.feTrap (s : State) (t : Thread) (b len : Word) : Option (Nat × Word) :=
  if b.toNat % 8 ≠ 0 ∨ len.toNat % 8 ≠ 0 then some (3, b)
  else
    match s.localAt t.ctx s.curCore b with
    | none => some (4, b)
    | some (c, off) =>
      if 2 ^ 17 ≤ len.toNat ∨ localSize < off + len.toNat ∨ 0 < len.toNat ∧ s.specOff t.ctx off len.toNat then some (4, b)
      else if c ≠ s.curCore ∧ !s.reachable t.ctx c then some (5, b) else none

/-- The first words of a range of the executing core marked in the issue cycle; the rest stays with the thread (R181). -/
def State.beginRange (s : State) (first words : Nat) (set : Bool) : State :=
  let rest : Option FeRest :=
    if words ≤ fePace then none else some { next := first + fePace, left := words - fePace, set, issued := s.tick }
  ((s.onThread s.curCore s.curSlot fun t => { t with range := rest }).markWords s.curCore first (min fePace words) set).done

/-- The slots whose threads have a range under way, in the order in which the instructions issued (R182). -/
def Core.rangeSlots (k : Core) : List Nat :=
  let under : List (Nat × Nat) := k.threads.filterMap fun (i, t) => t.range.map fun r => (r.issued, i)
  (under.foldl (fun l q => insertBy (fun a b => decide (a.1 < b.1)) q l) []).map fun q => q.2

/-- The range of the thread of a slot goes on by one cycle. -/
def State.advanceRange (s : State) (c i : Nat) : State :=
  match (s.thread? c i).bind Thread.range with
  | none => s
  | some r =>
    let rest : Option FeRest :=
      if r.left ≤ fePace then none else some { r with next := r.next + fePace, left := r.left - fePace }
    (s.onThread c i fun t => { t with range := rest }).markWords c r.next (min fePace r.left) r.set

/-- `feset` and `feclr`: 64 words a cycle of the executing core's range (log entry 95), another core's by a request. -/
def feRange (s : State) (rs1 rs2 : Reg) (set : Bool) : Result :=
  run s fun t =>
    let b := s.readg t [] rs1
    let len := s.readg t [rs1] rs2
    s.issue t [rs1, rs2] 0 true
      (match s.feTrap t b len, s.localAt t.ctx s.curCore b with
        | some (cause, utval), _ => .trap cause utval
        | none, none => .trap 4 b
        | none, some (c, off) => .go fun s' => s'.onCur fun u =>
            if c = s'.curCore then s'.beginRange (off / 8) (len.toNat / 8) set
            else if len = 0 then s'.done
            else (s'.await u 3 (.data .none)).sendCur u (.remoteFe c (off / 8) (len.toNat / 8) set b false))

def execFeset (rs1 rs2 : Reg) (s : State) : Result := feRange s rs1 rs2 true
def execFeclr (rs1 rs2 : Reg) (s : State) : Result := feRange s rs1 rs2 false

/-! ## Copies -/

/-- How a copy form signals. -/
inductive CopyForm where
  | plain | fe | ac (n : BitVec 5) | tk
  deriving DecidableEq, Repr

/-- The first of the operands that is not a multiple of 8. DESIGN CHOICE (log entry 79): where only the length is not, UTVAL names
it. -/
def unaligned : List Word → Option Word
  | [] => none
  | a :: rest => if a.toNat % 8 ≠ 0 then some a else unaligned rest

/-- R184: the checks of a copy at issue, in order. -/
def State.copyTrap (s : State) (t : Thread) (form : CopyForm) (d src len tcb : Word) : Option (Nat × Word) :=
  match unaligned [d, src, len] with
  | some a => some (3, a)
  | none =>
    if 2 ^ 32 ≤ len.toNat then some (2, len)
    else
      match s.rangeTrap t.ctx s.curCore d len.toNat, s.rangeTrap t.ctx s.curCore src len.toNat with
      | some e, _ => some e
      | none, some e => some e
      | none, none =>
        match s.localAt t.ctx s.curCore d with
        | some (_, off) =>
          if 0 < len.toNat ∧ off < 0x800 then some (6, d)
          else if form = .tk then s.tcbTrap t.ctx s.curCore tcb else none
        | none =>
          if form = .fe then some (4, d) else if form = .tk then s.tcbTrap t.ctx s.curCore tcb else none

/-- The signal that a copy gives (R186). -/
def State.copySignal (s : State) (t : Thread) (form : CopyForm) (d tcb : Word) : Signal :=
  match form with
  | .plain => .none
  | .fe => .full
  | .ac n =>
    match s.localAt t.ctx s.curCore d with
    | some (c, _) => .counter c n.toNat
    | none => .counter s.curCore n.toNat
  | .tk => .task tcb

/-- R185: a command enters the copy engine's queue of 8 entries; a copy that finds the queue full is not ready, whatever its checks
would find. -/
def copyIssue (s : State) (rs1 rs2 rs3 : Reg) (form : CopyForm) (rd : Reg) : Result :=
  run s fun t =>
    let d := s.readg t [] rs1
    let src := s.readg t [rs1] rs2
    let len := s.readg t [rs1, rs2] rs3
    let tcb := if form = .tk then s.readg t [rs1, rs2, rs3] rd else 0
    let reads := [rs1, rs2, rs3] ++ if form = .tk then [rd] else []
    s.issue t reads 0 true
      (if 8 ≤ s.here.copyq.length then .notReady 11
       else
         match s.copyTrap t form d src len tcb with
         | some (cause, utval) => .trap cause utval
         | none => .go fun s' =>
             let k := s'.here
             (s'.setHere { k with copyq := k.copyq ++ [{
               ctx := t.ctx, core := s.curCore, slot := s.curSlot, uid := t.uid, cove := coveOf s.curCore, dst := d, src
               len := len.toNat, signal := s.copySignal t form d tcb
               issued := s.issueOf t }] }).done)

def execCopy (rs1 rs2 rs3 : Reg) (s : State) : Result := copyIssue s rs1 rs2 rs3 .plain 0
def execCopyFe (rs1 rs2 rs3 : Reg) (s : State) : Result := copyIssue s rs1 rs2 rs3 .fe 0
def execCopyAc (rs1 rs2 rs3 : Reg) (n : BitVec 5) (s : State) : Result := copyIssue s rs1 rs2 rs3 (.ac n) 0
def execCopyTk (rs1 rs2 rs3 rd : Reg) (s : State) : Result := copyIssue s rs1 rs2 rs3 .tk rd

end Sys2Proof.Machine
end

