-- ==== Sys2Proof/Machine/Dispatch.lean ====
section
/-! DEFINITION. The meaning of every step: one arm per constructor of Instr. -/

namespace Sys2Proof.Machine

def exec (i : Instr) (s : State) : Host.Outcome State Fault Refusal :=
  match i with
  | .lui rd imm => Sys2Proof.Machine.execLui rd imm s
  | .auipc rd imm => Sys2Proof.Machine.execAuipc rd imm s
  | .jal rd imm => Sys2Proof.Machine.execJal rd imm s
  | .jalr rd rs1 imm => Sys2Proof.Machine.execJalr rd rs1 imm s
  | .beq rs1 rs2 imm => Sys2Proof.Machine.execBeq rs1 rs2 imm s
  | .bne rs1 rs2 imm => Sys2Proof.Machine.execBne rs1 rs2 imm s
  | .blt rs1 rs2 imm => Sys2Proof.Machine.execBlt rs1 rs2 imm s
  | .bge rs1 rs2 imm => Sys2Proof.Machine.execBge rs1 rs2 imm s
  | .bltu rs1 rs2 imm => Sys2Proof.Machine.execBltu rs1 rs2 imm s
  | .bgeu rs1 rs2 imm => Sys2Proof.Machine.execBgeu rs1 rs2 imm s
  | .lb rd rs1 imm => Sys2Proof.Machine.execLb rd rs1 imm s
  | .lh rd rs1 imm => Sys2Proof.Machine.execLh rd rs1 imm s
  | .lw rd rs1 imm => Sys2Proof.Machine.execLw rd rs1 imm s
  | .ld rd rs1 imm => Sys2Proof.Machine.execLd rd rs1 imm s
  | .lbu rd rs1 imm => Sys2Proof.Machine.execLbu rd rs1 imm s
  | .lhu rd rs1 imm => Sys2Proof.Machine.execLhu rd rs1 imm s
  | .lwu rd rs1 imm => Sys2Proof.Machine.execLwu rd rs1 imm s
  | .sb rs1 rs2 imm => Sys2Proof.Machine.execSb rs1 rs2 imm s
  | .sh rs1 rs2 imm => Sys2Proof.Machine.execSh rs1 rs2 imm s
  | .sw rs1 rs2 imm => Sys2Proof.Machine.execSw rs1 rs2 imm s
  | .sd rs1 rs2 imm => Sys2Proof.Machine.execSd rs1 rs2 imm s
  | .addi rd rs1 imm => Sys2Proof.Machine.execAddi rd rs1 imm s
  | .slti rd rs1 imm => Sys2Proof.Machine.execSlti rd rs1 imm s
  | .sltiu rd rs1 imm => Sys2Proof.Machine.execSltiu rd rs1 imm s
  | .xori rd rs1 imm => Sys2Proof.Machine.execXori rd rs1 imm s
  | .ori rd rs1 imm => Sys2Proof.Machine.execOri rd rs1 imm s
  | .andi rd rs1 imm => Sys2Proof.Machine.execAndi rd rs1 imm s
  | .slli rd rs1 sh => Sys2Proof.Machine.execSlli rd rs1 sh s
  | .srli rd rs1 sh => Sys2Proof.Machine.execSrli rd rs1 sh s
  | .srai rd rs1 sh => Sys2Proof.Machine.execSrai rd rs1 sh s
  | .add rd rs1 rs2 => Sys2Proof.Machine.execAdd rd rs1 rs2 s
  | .sub rd rs1 rs2 => Sys2Proof.Machine.execSub rd rs1 rs2 s
  | .sll rd rs1 rs2 => Sys2Proof.Machine.execSll rd rs1 rs2 s
  | .slt rd rs1 rs2 => Sys2Proof.Machine.execSlt rd rs1 rs2 s
  | .sltu rd rs1 rs2 => Sys2Proof.Machine.execSltu rd rs1 rs2 s
  | .xor rd rs1 rs2 => Sys2Proof.Machine.execXor rd rs1 rs2 s
  | .srl rd rs1 rs2 => Sys2Proof.Machine.execSrl rd rs1 rs2 s
  | .sra rd rs1 rs2 => Sys2Proof.Machine.execSra rd rs1 rs2 s
  | .or rd rs1 rs2 => Sys2Proof.Machine.execOr rd rs1 rs2 s
  | .and rd rs1 rs2 => Sys2Proof.Machine.execAnd rd rs1 rs2 s
  | .fence fm pred succ => Sys2Proof.Machine.execFence fm pred succ s
  | .addiw rd rs1 imm => Sys2Proof.Machine.execAddiw rd rs1 imm s
  | .slliw rd rs1 sh => Sys2Proof.Machine.execSlliw rd rs1 sh s
  | .srliw rd rs1 sh => Sys2Proof.Machine.execSrliw rd rs1 sh s
  | .sraiw rd rs1 sh => Sys2Proof.Machine.execSraiw rd rs1 sh s
  | .addw rd rs1 rs2 => Sys2Proof.Machine.execAddw rd rs1 rs2 s
  | .subw rd rs1 rs2 => Sys2Proof.Machine.execSubw rd rs1 rs2 s
  | .sllw rd rs1 rs2 => Sys2Proof.Machine.execSllw rd rs1 rs2 s
  | .srlw rd rs1 rs2 => Sys2Proof.Machine.execSrlw rd rs1 rs2 s
  | .sraw rd rs1 rs2 => Sys2Proof.Machine.execSraw rd rs1 rs2 s
  | .mul rd rs1 rs2 => Sys2Proof.Machine.execMul rd rs1 rs2 s
  | .mulh rd rs1 rs2 => Sys2Proof.Machine.execMulh rd rs1 rs2 s
  | .mulhsu rd rs1 rs2 => Sys2Proof.Machine.execMulhsu rd rs1 rs2 s
  | .mulhu rd rs1 rs2 => Sys2Proof.Machine.execMulhu rd rs1 rs2 s
  | .div rd rs1 rs2 => Sys2Proof.Machine.execDiv rd rs1 rs2 s
  | .divu rd rs1 rs2 => Sys2Proof.Machine.execDivu rd rs1 rs2 s
  | .rem rd rs1 rs2 => Sys2Proof.Machine.execRem rd rs1 rs2 s
  | .remu rd rs1 rs2 => Sys2Proof.Machine.execRemu rd rs1 rs2 s
  | .mulw rd rs1 rs2 => Sys2Proof.Machine.execMulw rd rs1 rs2 s
  | .divw rd rs1 rs2 => Sys2Proof.Machine.execDivw rd rs1 rs2 s
  | .divuw rd rs1 rs2 => Sys2Proof.Machine.execDivuw rd rs1 rs2 s
  | .remw rd rs1 rs2 => Sys2Proof.Machine.execRemw rd rs1 rs2 s
  | .remuw rd rs1 rs2 => Sys2Proof.Machine.execRemuw rd rs1 rs2 s
  | .csrrw rd rs1 csr => Sys2Proof.Machine.execCsrrw rd rs1 csr s
  | .csrrs rd rs1 csr => Sys2Proof.Machine.execCsrrs rd rs1 csr s
  | .csrrc rd rs1 csr => Sys2Proof.Machine.execCsrrc rd rs1 csr s
  | .csrrwi rd csr uimm => Sys2Proof.Machine.execCsrrwi rd csr uimm s
  | .csrrsi rd csr uimm => Sys2Proof.Machine.execCsrrsi rd csr uimm s
  | .csrrci rd csr uimm => Sys2Proof.Machine.execCsrrci rd csr uimm s
  | .flw rd rs1 imm => Sys2Proof.Machine.execFlw rd rs1 imm s
  | .fsw rs1 rs2 imm => Sys2Proof.Machine.execFsw rs1 rs2 imm s
  | .fmaddS rd rs1 rs2 rs3 rm => Sys2Proof.Machine.execFmaddS rd rs1 rs2 rs3 rm s
  | .fmsubS rd rs1 rs2 rs3 rm => Sys2Proof.Machine.execFmsubS rd rs1 rs2 rs3 rm s
  | .fnmsubS rd rs1 rs2 rs3 rm => Sys2Proof.Machine.execFnmsubS rd rs1 rs2 rs3 rm s
  | .fnmaddS rd rs1 rs2 rs3 rm => Sys2Proof.Machine.execFnmaddS rd rs1 rs2 rs3 rm s
  | .faddS rd rs1 rs2 rm => Sys2Proof.Machine.execFaddS rd rs1 rs2 rm s
  | .fsubS rd rs1 rs2 rm => Sys2Proof.Machine.execFsubS rd rs1 rs2 rm s
  | .fmulS rd rs1 rs2 rm => Sys2Proof.Machine.execFmulS rd rs1 rs2 rm s
  | .fdivS rd rs1 rs2 rm => Sys2Proof.Machine.execFdivS rd rs1 rs2 rm s
  | .fsqrtS rd rs1 rm => Sys2Proof.Machine.execFsqrtS rd rs1 rm s
  | .fsgnjS rd rs1 rs2 => Sys2Proof.Machine.execFsgnjS rd rs1 rs2 s
  | .fsgnjnS rd rs1 rs2 => Sys2Proof.Machine.execFsgnjnS rd rs1 rs2 s
  | .fsgnjxS rd rs1 rs2 => Sys2Proof.Machine.execFsgnjxS rd rs1 rs2 s
  | .fminS rd rs1 rs2 => Sys2Proof.Machine.execFminS rd rs1 rs2 s
  | .fmaxS rd rs1 rs2 => Sys2Proof.Machine.execFmaxS rd rs1 rs2 s
  | .fcvtWS rd rs1 rm => Sys2Proof.Machine.execFcvtWS rd rs1 rm s
  | .fcvtWuS rd rs1 rm => Sys2Proof.Machine.execFcvtWuS rd rs1 rm s
  | .fcvtLS rd rs1 rm => Sys2Proof.Machine.execFcvtLS rd rs1 rm s
  | .fcvtLuS rd rs1 rm => Sys2Proof.Machine.execFcvtLuS rd rs1 rm s
  | .fcvtSW rd rs1 rm => Sys2Proof.Machine.execFcvtSW rd rs1 rm s
  | .fcvtSWu rd rs1 rm => Sys2Proof.Machine.execFcvtSWu rd rs1 rm s
  | .fcvtSL rd rs1 rm => Sys2Proof.Machine.execFcvtSL rd rs1 rm s
  | .fcvtSLu rd rs1 rm => Sys2Proof.Machine.execFcvtSLu rd rs1 rm s
  | .fmvXW rd rs1 => Sys2Proof.Machine.execFmvXW rd rs1 s
  | .fmvWX rd rs1 => Sys2Proof.Machine.execFmvWX rd rs1 s
  | .feqS rd rs1 rs2 => Sys2Proof.Machine.execFeqS rd rs1 rs2 s
  | .fltS rd rs1 rs2 => Sys2Proof.Machine.execFltS rd rs1 rs2 s
  | .fleS rd rs1 rs2 => Sys2Proof.Machine.execFleS rd rs1 rs2 s
  | .fclassS rd rs1 => Sys2Proof.Machine.execFclassS rd rs1 s
  | .migrS rs1 => Sys2Proof.Machine.execMigrS rs1 s
  | .migrL rs1 => Sys2Proof.Machine.execMigrL rs1 s
  | .migrH rs1 => Sys2Proof.Machine.execMigrH rs1 s
  | .migrA rs1 => Sys2Proof.Machine.execMigrA rs1 s
  | .twait rd rs1 => Sys2Proof.Machine.execTwait rd rs1 s
  | .gang rd rs1 => Sys2Proof.Machine.execGang rd rs1 s
  | .pcmpEq rd rs1 rs2 => Sys2Proof.Machine.execPcmpEq rd rs1 rs2 s
  | .pcmpNe rd rs1 rs2 => Sys2Proof.Machine.execPcmpNe rd rs1 rs2 s
  | .pcmpLt rd rs1 rs2 => Sys2Proof.Machine.execPcmpLt rd rs1 rs2 s
  | .pcmpGe rd rs1 rs2 => Sys2Proof.Machine.execPcmpGe rd rs1 rs2 s
  | .pcmpLtu rd rs1 rs2 => Sys2Proof.Machine.execPcmpLtu rd rs1 rs2 s
  | .pcmpGeu rd rs1 rs2 => Sys2Proof.Machine.execPcmpGeu rd rs1 rs2 s
  | .pand rd rs1 rs2 => Sys2Proof.Machine.execPand rd rs1 rs2 s
  | .por rd rs1 rs2 => Sys2Proof.Machine.execPor rd rs1 rs2 s
  | .pxor rd rs1 rs2 => Sys2Proof.Machine.execPxor rd rs1 rs2 s
  | .pandn rd rs1 rs2 => Sys2Proof.Machine.execPandn rd rs1 rs2 s
  | .pmov rd => Sys2Proof.Machine.execPmov rd s
  | .pwr rs1 => Sys2Proof.Machine.execPwr rs1 s
  | .csel rd rs1 rs2 p => Sys2Proof.Machine.execCsel rd rs1 rs2 p s
  | .bp p imm => Sys2Proof.Machine.execBp p imm s
  | .bnp p imm => Sys2Proof.Machine.execBnp p imm s
  | .itnext x imm => Sys2Proof.Machine.execItnext x imm s
  | .ldk rd n => Sys2Proof.Machine.execLdk rd n s
  | .fldk rd n => Sys2Proof.Machine.execFldk rd n s
  | .msend rd rs1 rs2 n => Sys2Proof.Machine.execMsend rd rs1 rs2 n s
  | .msendr rd rs1 rs2 => Sys2Proof.Machine.execMsendr rd rs1 rs2 s
  | .mpoll rd => Sys2Proof.Machine.execMpoll rd s
  | .klook rd rs1 => Sys2Proof.Machine.execKlook rd rs1 s
  | .klookC rd rs1 rs2 => Sys2Proof.Machine.execKlookC rd rs1 rs2 s
  | .klookP rd rs1 => Sys2Proof.Machine.execKlookP rd rs1 s
  | .kbind rd rs2 => Sys2Proof.Machine.execKbind rd rs2 s
  | .kpin rd rs2 => Sys2Proof.Machine.execKpin rd rs2 s
  | .kunpin rd rs2 => Sys2Proof.Machine.execKunpin rd rs2 s
  | .kunbind rd rs2 => Sys2Proof.Machine.execKunbind rd rs2 s
  | .kabandon rd rs2 => Sys2Proof.Machine.execKabandon rd rs2 s
  | .kvict rd => Sys2Proof.Machine.execKvict rd s
  | .kwait rd rs2 => Sys2Proof.Machine.execKwait rd rs2 s
  | .kwaitU rd => Sys2Proof.Machine.execKwaitU rd s
  | .gjoin rs1 => Sys2Proof.Machine.execGjoin rs1 s
  | .gleave rs1 => Sys2Proof.Machine.execGleave rs1 s
  | .gbar rs1 => Sys2Proof.Machine.execGbar rs1 s
  | .tspawn rd rs1 => Sys2Proof.Machine.execTspawn rd rs1 s
  | .tdec rs1 => Sys2Proof.Machine.execTdec rs1 s
  | .itclaim rd rs1 => Sys2Proof.Machine.execItclaim rd rs1 s
  | .bsig n => Sys2Proof.Machine.execBsig n s
  | .ckpt n => Sys2Proof.Machine.execCkpt n s
  | .ldsync rd rs1 imm => Sys2Proof.Machine.execLdsync rd rs1 imm s
  | .ldsyncC rd rs1 imm => Sys2Proof.Machine.execLdsyncC rd rs1 imm s
  | .ldf rd rs1 imm => Sys2Proof.Machine.execLdf rd rs1 imm s
  | .feset rs1 rs2 => Sys2Proof.Machine.execFeset rs1 rs2 s
  | .feclr rs1 rs2 => Sys2Proof.Machine.execFeclr rs1 rs2 s
  | .fenceSc scope => Sys2Proof.Machine.execFenceSc scope s
  | .atmSwap rd rs1 rs2 size scope => Sys2Proof.Machine.execAtmSwap rd rs1 rs2 size scope s
  | .atmAdd rd rs1 rs2 size scope => Sys2Proof.Machine.execAtmAdd rd rs1 rs2 size scope s
  | .atmAnd rd rs1 rs2 size scope => Sys2Proof.Machine.execAtmAnd rd rs1 rs2 size scope s
  | .atmOr rd rs1 rs2 size scope => Sys2Proof.Machine.execAtmOr rd rs1 rs2 size scope s
  | .atmXor rd rs1 rs2 size scope => Sys2Proof.Machine.execAtmXor rd rs1 rs2 size scope s
  | .atmMin rd rs1 rs2 size scope => Sys2Proof.Machine.execAtmMin rd rs1 rs2 size scope s
  | .atmMax rd rs1 rs2 size scope => Sys2Proof.Machine.execAtmMax rd rs1 rs2 size scope s
  | .atmMinu rd rs1 rs2 size scope => Sys2Proof.Machine.execAtmMinu rd rs1 rs2 size scope s
  | .atmMaxu rd rs1 rs2 size scope => Sys2Proof.Machine.execAtmMaxu rd rs1 rs2 size scope s
  | .atmFadd rd rs1 rs2 scope => Sys2Proof.Machine.execAtmFadd rd rs1 rs2 scope s
  | .atmCas rd rs1 rs2 size scope => Sys2Proof.Machine.execAtmCas rd rs1 rs2 size scope s
  | .copy rs1 rs2 rs3 => Sys2Proof.Machine.execCopy rs1 rs2 rs3 s
  | .copyFe rs1 rs2 rs3 => Sys2Proof.Machine.execCopyFe rs1 rs2 rs3 s
  | .copyAc rs1 rs2 rs3 n => Sys2Proof.Machine.execCopyAc rs1 rs2 rs3 n s
  | .copyTk rs1 rs2 rs3 rd => Sys2Proof.Machine.execCopyTk rs1 rs2 rs3 rd s
  | .acpost rs1 n => Sys2Proof.Machine.execAcpost rs1 n s
  | .acadd rs1 rs2 => Sys2Proof.Machine.execAcadd rs1 rs2 s
  | .acwait rd n => Sys2Proof.Machine.execAcwait rd n s
  | .actrig rs1 n => Sys2Proof.Machine.execActrig rs1 n s
  | .acread rd n => Sys2Proof.Machine.execAcread rd n s
  | .vadd rd rs1 rs2 w => Sys2Proof.Machine.execVadd rd rs1 rs2 w s
  | .vsub rd rs1 rs2 w => Sys2Proof.Machine.execVsub rd rs1 rs2 w s
  | .vmul rd rs1 rs2 w => Sys2Proof.Machine.execVmul rd rs1 rs2 w s
  | .vand rd rs1 rs2 w => Sys2Proof.Machine.execVand rd rs1 rs2 w s
  | .vor rd rs1 rs2 w => Sys2Proof.Machine.execVor rd rs1 rs2 w s
  | .vxor rd rs1 rs2 w => Sys2Proof.Machine.execVxor rd rs1 rs2 w s
  | .vsll rd rs1 rs2 w => Sys2Proof.Machine.execVsll rd rs1 rs2 w s
  | .vsrl rd rs1 rs2 w => Sys2Proof.Machine.execVsrl rd rs1 rs2 w s
  | .vsra rd rs1 rs2 w => Sys2Proof.Machine.execVsra rd rs1 rs2 w s
  | .vmin rd rs1 rs2 w => Sys2Proof.Machine.execVmin rd rs1 rs2 w s
  | .vmax rd rs1 rs2 w => Sys2Proof.Machine.execVmax rd rs1 rs2 w s
  | .vminu rd rs1 rs2 w => Sys2Proof.Machine.execVminu rd rs1 rs2 w s
  | .vmaxu rd rs1 rs2 w => Sys2Proof.Machine.execVmaxu rd rs1 rs2 w s
  | .vfadd rd rs1 rs2 fmt => Sys2Proof.Machine.execVfadd rd rs1 rs2 fmt s
  | .vfsub rd rs1 rs2 fmt => Sys2Proof.Machine.execVfsub rd rs1 rs2 fmt s
  | .vfmul rd rs1 rs2 fmt => Sys2Proof.Machine.execVfmul rd rs1 rs2 fmt s
  | .vfma rd rs1 rs2 fmt => Sys2Proof.Machine.execVfma rd rs1 rs2 fmt s
  | .vfmin rd rs1 rs2 fmt => Sys2Proof.Machine.execVfmin rd rs1 rs2 fmt s
  | .vfmax rd rs1 rs2 fmt => Sys2Proof.Machine.execVfmax rd rs1 rs2 fmt s
  | .vaddm rd rs1 rs2 => Sys2Proof.Machine.execVaddm rd rs1 rs2 s
  | .vsubm rd rs1 rs2 => Sys2Proof.Machine.execVsubm rd rs1 rs2 s
  | .vmulm rd rs1 rs2 => Sys2Proof.Machine.execVmulm rd rs1 rs2 s
  | .vmont rd rs1 rs2 => Sys2Proof.Machine.execVmont rd rs1 rs2 s
  | .vbfly rd rs1 => Sys2Proof.Machine.execVbfly rd rs1 s
  | .vbflyi rd rs1 => Sys2Proof.Machine.execVbflyi rd rs1 s
  | .vqset rs1 rs2 => Sys2Proof.Machine.execVqset rs1 rs2 s
  | .vpermBf rd rs1 k => Sys2Proof.Machine.execVpermBf rd rs1 k s
  | .vmvx rd rs1 n => Sys2Proof.Machine.execVmvx rd rs1 n s
  | .vins rd rs1 n => Sys2Proof.Machine.execVins rd rs1 n s
  | .vbcast rd rs1 => Sys2Proof.Machine.execVbcast rd rs1 s
  | .vredsumS rd rs1 => Sys2Proof.Machine.execVredsumS rd rs1 s
  | .vredmaxS rd rs1 => Sys2Proof.Machine.execVredmaxS rd rs1 s
  | .vcmpeqS rd rs1 rs2 => Sys2Proof.Machine.execVcmpeqS rd rs1 rs2 s
  | .vcmpltS rd rs1 rs2 => Sys2Proof.Machine.execVcmpltS rd rs1 rs2 s
  | .vcmpleS rd rs1 rs2 => Sys2Proof.Machine.execVcmpleS rd rs1 rs2 s
  | .vsel rd rs1 rs2 => Sys2Proof.Machine.execVsel rd rs1 rs2 s
  | .vld rd rs1 imm => Sys2Proof.Machine.execVld rd rs1 imm s
  | .vst rs1 rs2 imm => Sys2Proof.Machine.execVst rs1 rs2 imm s
  | .vcvt rd rs1 dst src part => Sys2Proof.Machine.execVcvt rd rs1 dst src part s
  | .vsfu rd rs1 op => Sys2Proof.Machine.execVsfu rd rs1 op s
  | .gathb rs1 rs2 => Sys2Proof.Machine.execGathb rs1 rs2 s
  | .vquant rs1 rs2 => Sys2Proof.Machine.execVquant rs1 rs2 s
  | .vdquant rd rs1 => Sys2Proof.Machine.execVdquant rd rs1 s
  | .mmaE43E43 rd rs1 rs2 rs3 => Sys2Proof.Machine.execMmaE43E43 rd rs1 rs2 rs3 s
  | .mmaE43E52 rd rs1 rs2 rs3 => Sys2Proof.Machine.execMmaE43E52 rd rs1 rs2 rs3 s
  | .mmaE52E43 rd rs1 rs2 rs3 => Sys2Proof.Machine.execMmaE52E43 rd rs1 rs2 rs3 s
  | .mmaE52E52 rd rs1 rs2 rs3 => Sys2Proof.Machine.execMmaE52E52 rd rs1 rs2 rs3 s
  | .mmaE21xE21x rd rs1 rs2 rs3 => Sys2Proof.Machine.execMmaE21xE21x rd rs1 rs2 rs3 s
  | .mmaE43E21x rd rs1 rs2 rs3 => Sys2Proof.Machine.execMmaE43E21x rd rs1 rs2 rs3 s
  | .mmaBfBf rd rs1 rs2 rs3 => Sys2Proof.Machine.execMmaBfBf rd rs1 rs2 rs3 s
  | .mmaSS rd rs1 rs2 rs3 => Sys2Proof.Machine.execMmaSS rd rs1 rs2 rs3 s
  | .mmaI8I8 rd rs1 rs2 => Sys2Proof.Machine.execMmaI8I8 rd rs1 rs2 s
  | .mldw rs1 fmt => Sys2Proof.Machine.execMldw rs1 fmt s
  | .mzero rd => Sys2Proof.Machine.execMzero rd s
  | .mrd rd rs1 fmt => Sys2Proof.Machine.execMrd rd rs1 fmt s
  | .mrdExp rd rs1 rs2 => Sys2Proof.Machine.execMrdExp rd rs1 rs2 s
  | .mrmax rd rs1 => Sys2Proof.Machine.execMrmax rd rs1 s
  | .mrot rs1 => Sys2Proof.Machine.execMrot rs1 s
  | .mcmd rs1 rs2 => Sys2Proof.Machine.execMcmd rs1 rs2 s
  | .mtmask rd rs1 rs2 rs3 => Sys2Proof.Machine.execMtmask rd rs1 rs2 rs3 s
  | .topkS rs1 rs2 k => Sys2Proof.Machine.execTopkS rs1 rs2 k s
  | .topkSC rs1 rs2 k => Sys2Proof.Machine.execTopkSC rs1 rs2 k s
  | .topkBf rs1 rs2 k => Sys2Proof.Machine.execTopkBf rs1 rs2 k s
  | .topkBfC rs1 rs2 k => Sys2Proof.Machine.execTopkBfC rs1 rs2 k s
  | .rcsnap rs1 => Sys2Proof.Machine.execRcsnap rs1 s
  | .combPutS rs1 rs2 rs3 rank => Sys2Proof.Machine.execCombPutS rs1 rs2 rs3 rank s
  | .combPutBf rs1 rs2 rs3 rank => Sys2Proof.Machine.execCombPutBf rs1 rs2 rs3 rank s
  | .ecall => Sys2Proof.Machine.execEcall s
  | .ebreak => Sys2Proof.Machine.execEbreak s
  | .tret => Sys2Proof.Machine.execTret s
  | .texit => Sys2Proof.Machine.execTexit s
  | .ungang => Sys2Proof.Machine.execUngang s
  | .tretry => Sys2Proof.Machine.execTretry s
  | .fenceLe => Sys2Proof.Machine.execFenceLe s
  | .vfence => Sys2Proof.Machine.execVfence s
  | .mswap => Sys2Proof.Machine.execMswap s
  | .mwait => Sys2Proof.Machine.execMwait s
  | .asyncTrap => Sys2Proof.Machine.execAsyncTrap s
  | .dataReturn => Sys2Proof.Machine.execDataReturn s
  | .remoteAccess => Sys2Proof.Machine.execRemoteAccess s
  | .storePerform => Sys2Proof.Machine.execStorePerform s
  | .atomicAtHome => Sys2Proof.Machine.execAtomicAtHome s
  | .ownershipGrant => Sys2Proof.Machine.execOwnershipGrant s
  | .bisnpResponse => Sys2Proof.Machine.execBisnpResponse s
  | .hostMemAccess => Sys2Proof.Machine.execHostMemAccess s
  | .tcbSpawnAtHome => Sys2Proof.Machine.execTcbSpawnAtHome s
  | .predDecrement => Sys2Proof.Machine.execPredDecrement s
  | .twaitAtHome => Sys2Proof.Machine.execTwaitAtHome s
  | .groupOpAtHome => Sys2Proof.Machine.execGroupOpAtHome s
  | .itclaimAtHome => Sys2Proof.Machine.execItclaimAtHome s
  | .counterAdd => Sys2Proof.Machine.execCounterAdd s
  | .messageArrival => Sys2Proof.Machine.execMessageArrival s
  | .messageReply => Sys2Proof.Machine.execMessageReply s
  | .chainPush => Sys2Proof.Machine.execChainPush s
  | .creditRequest => Sys2Proof.Machine.execCreditRequest s
  | .creditGrant => Sys2Proof.Machine.execCreditGrant s
  | .creditRefusal => Sys2Proof.Machine.execCreditRefusal s
  | .migrationDeparture => Sys2Proof.Machine.execMigrationDeparture s
  | .migrationArrival => Sys2Proof.Machine.execMigrationArrival s
  | .taskDispatch => Sys2Proof.Machine.execTaskDispatch s
  | .dispatchArrival => Sys2Proof.Machine.execDispatchArrival s
  | .stealAttempt => Sys2Proof.Machine.execStealAttempt s
  | .taskCompletion => Sys2Proof.Machine.execTaskCompletion s
  | .orderedCommit => Sys2Proof.Machine.execOrderedCommit s
  | .vectorCommandStart => Sys2Proof.Machine.execVectorCommandStart s
  | .vectorResultWrite => Sys2Proof.Machine.execVectorResultWrite s
  | .sfuRequest => Sys2Proof.Machine.execSfuRequest s
  | .sfuResult => Sys2Proof.Machine.execSfuResult s
  | .copyStart => Sys2Proof.Machine.execCopyStart s
  | .copyWrite => Sys2Proof.Machine.execCopyWrite s
  | .copyComplete => Sys2Proof.Machine.execCopyComplete s
  | .matrixOperationStart => Sys2Proof.Machine.execMatrixOperationStart s
  | .matrixOperationComplete => Sys2Proof.Machine.execMatrixOperationComplete s
  | .rotationArrival => Sys2Proof.Machine.execRotationArrival s
  | .remoteCommandDelivery => Sys2Proof.Machine.execRemoteCommandDelivery s
  | .tlbFill => Sys2Proof.Machine.execTlbFill s
  | .faultMessage => Sys2Proof.Machine.execFaultMessage s
  | .faultReply => Sys2Proof.Machine.execFaultReply s
  | .checkpointSave => Sys2Proof.Machine.execCheckpointSave s
  | .preemptFallback => Sys2Proof.Machine.execPreemptFallback s
  | .coreVacate => Sys2Proof.Machine.execCoreVacate s
  | .slackWater => Sys2Proof.Machine.execSlackWater s
  | .selfTestEnd => Sys2Proof.Machine.execSelfTestEnd s
  | .notifyWrite => Sys2Proof.Machine.execNotifyWrite s
  | .submissionAdmission => Sys2Proof.Machine.execSubmissionAdmission s
  | .teardownCompletion => Sys2Proof.Machine.execTeardownCompletion s
  | .ctxLaunch => Sys2Proof.Machine.execCtxLaunch s
  | .ctxTeardown => Sys2Proof.Machine.execCtxTeardown s
  | .ctxPreempt => Sys2Proof.Machine.execCtxPreempt s
  | .ctxResume => Sys2Proof.Machine.execCtxResume s
  | .attest => Sys2Proof.Machine.execAttest s
  | .getCerts => Sys2Proof.Machine.execGetCerts s
  | .fwStage => Sys2Proof.Machine.execFwStage s
  | .fwCommit => Sys2Proof.Machine.execFwCommit s
  | .getHealth => Sys2Proof.Machine.execGetHealth s
  | .getQmap => Sys2Proof.Machine.execGetQmap s
  | .getBudget => Sys2Proof.Machine.execGetBudget s
  | .getClassmap => Sys2Proof.Machine.execGetClassmap s
  | .getStall => Sys2Proof.Machine.execGetStall s
  | .getPower => Sys2Proof.Machine.execGetPower s
  | .setCap => Sys2Proof.Machine.execSetCap s
  | .release => Sys2Proof.Machine.execRelease s
  | .fbufBaseWrite => Sys2Proof.Machine.execFbufBaseWrite s
  | .fgenWrite => Sys2Proof.Machine.execFgenWrite s
  | .freplyResolved => Sys2Proof.Machine.execFreplyResolved s
  | .freplyDenied => Sys2Proof.Machine.execFreplyDenied s
  | .invPages => Sys2Proof.Machine.execInvPages s
  | .invContext => Sys2Proof.Machine.execInvContext s
  | .invAll => Sys2Proof.Machine.execInvAll s
  | .invalidationComplete => Sys2Proof.Machine.execInvalidationComplete s
  | .crtStageWrite => Sys2Proof.Machine.execCrtStageWrite s
  | .crtStageRead => Sys2Proof.Machine.execCrtStageRead s
  | .crtCommit => Sys2Proof.Machine.execCrtCommit s
  | .crtCommitDone => Sys2Proof.Machine.execCrtCommitDone s
  | .ebudValWrite => Sys2Proof.Machine.execEbudValWrite s
  | .qmapRelease => Sys2Proof.Machine.execQmapRelease s
  | .registerWrite => Sys2Proof.Machine.execRegisterWrite s
  | .moduleReset => Sys2Proof.Machine.execModuleReset s
  | .marginMeasurement => Sys2Proof.Machine.execMarginMeasurement s
  | .stallSample => Sys2Proof.Machine.execStallSample s
  | .budgetInterval => Sys2Proof.Machine.execBudgetInterval s
  | .powerThrottle => Sys2Proof.Machine.execPowerThrottle s
  | .clockRaise => Sys2Proof.Machine.execClockRaise s
  | .thermalThrottle => Sys2Proof.Machine.execThermalThrottle s
  | .thermalShutdown => Sys2Proof.Machine.execThermalShutdown s
  | .illegalWord => Sys2Proof.Machine.execIllegalWord s
  | .fetchFault => Sys2Proof.Machine.execFetchFault s
  | .fbufHeadWrite => Sys2Proof.Machine.execFbufHeadWrite s
  | .cheadWrite => Sys2Proof.Machine.execCheadWrite s
  | .launchCompletion => Sys2Proof.Machine.execLaunchCompletion s
  | .cxlCacheSnoop => Sys2Proof.Machine.execCxlCacheSnoop s

end Sys2Proof.Machine
end

