-- ==== Sys2Proof/Machine/Policy.lean ====
section
/-! DEFINITION. The moves that may come next, for a state whose agenda is empty (log entry 2): the events of packets in
flight, of the engines, of the scheduler and of the contexts, and a cycle of each core that has a thread. -/

namespace Sys2Proof.Machine

/-- The event that brings a packet in flight forward. -/
def Kind.event : Kind → Instr
  | .fetch _ _ => .dataReturn
  | .load _ _ _ => .dataReturn
  | .ebud => .dataReturn
  | .reply _ => .dataReturn
  | .remoteLoad _ _ _ _ => .remoteAccess
  | .remoteSync _ _ _ _ => .remoteAccess
  | .remoteFe _ _ _ _ _ _ => .remoteAccess
  | .store _ _ _ => .storePerform
  | .commit _ => .storePerform
  | .atomic _ _ _ => .atomicAtHome
  | .spawn _ _ _ => .tcbSpawnAtHome
  | .dec _ _ _ => .predDecrement
  | .taskWait _ _ => .twaitAtHome
  | .group _ _ _ => .groupOpAtHome
  | .claim _ _ => .itclaimAtHome
  | .counter _ _ _ => .counterAdd
  | .message _ _ => .messageArrival
  | .messageReply _ => .messageReply
  | .push _ _ _ => .chainPush
  | .creditRequest _ _ => .creditRequest
  | .creditGrant _ _ => .creditGrant
  | .creditRefusal _ _ => .creditRefusal
  | .migrate _ => .migrationArrival
  | .dispatch _ _ _ _ => .dispatchArrival
  | .ended _ _ _ _ _ => .taskCompletion
  | .releases _ _ _ _ => .taskCompletion
  | .command _ _ _ _ _ => .remoteCommandDelivery
  | .rotation _ _ => .rotationArrival
  | .sfuRequest _ _ _ _ _ => .sfuRequest
  | .sfuResult _ _ _ => .sfuResult
  | .tlbMiss _ _ => .tlbFill
  | .fault _ _ _ _ _ _ => .faultMessage
  | .faultReply _ _ => .faultReply
  | .ownership _ => .ownershipGrant
  | .snoop _ _ => .bisnpResponse

def Thread.moves (t : Thread) (c i : Nat) : List Move :=
  match t.waits with
  | some (.migrate _ _) => [.event .migrationDeparture { n := c, m := i }]
  | some (.checkpoint _) => [.event .checkpointSave { n := c, m := i }]
  | _ => []

/-- A move that comes next only under a condition. -/
def onlyIf (b : Bool) (m : Move) : List Move := if b then [m] else []

/-- An event of a core, a cove or a context. -/
def eventOf (i : Instr) (n : Nat) : Move := .event i { n }

/-- The move of the copy in execution. -/
def CopyRun.moves (r : CopyRun) (c : Nat) : List Move :=
  if r.todo.isEmpty then [eventOf .copyComplete c] else [.event .copyWrite { n := c, m := 8 }]

def Core.copyMoves (k : Core) (c : Nat) : List Move :=
  match k.copying with
  | some r => r.moves c
  | none => onlyIf (!k.copyq.isEmpty) (eventOf .copyStart c)

def Core.matrixMoves (k : Core) (c : Nat) : List Move :=
  match k.mx.run with
  | some _ => [eventOf .matrixOperationComplete c]
  | none => onlyIf (!(k.mx.hiQueue.isEmpty && k.mx.loQueue.isEmpty)) (eventOf .matrixOperationStart c)

def Core.moves (k : Core) (c : Nat) : List Move :=
  List.flatten [
    onlyIf (!k.vqueue.isEmpty) (eventOf .vectorCommandStart c),
    onlyIf (!k.vflight.isEmpty) (eventOf .vectorResultWrite c),
    k.copyMoves c,
    k.matrixMoves c,
    onlyIf (k.spec.toList.any fun p => p.isSome) (eventOf .orderedCommit c),
    onlyIf (!k.arrivals.isEmpty) (.event .migrationArrival { n := c, flag := true }),
    k.threads.flatMap fun q => q.2.moves c q.1,
    onlyIf (!k.threads.isEmpty) (.core c)]

def Cove.moves (v : Cove) (n : Nat) : List Move :=
  List.flatten [
    onlyIf (!v.ready.isEmpty) (eventOf .taskDispatch n),
    onlyIf (v.ready.isEmpty && v.owner.isSome) (eventOf .stealAttempt n),
    onlyIf (!v.spill.isEmpty) (.event .migrationArrival { m := n, x := 1 })]

/-- While a context is being pre-empted: the fallback and the vacating of each core that it still holds. -/
def Ctx.preemptMoves (k : Ctx) : List Move :=
  if k.preempting then
    ((k.record.coves.flatMap fun v => (upFrom 0 63).map fun n => coreOf v n).filter fun c => !k.away c).flatMap fun c =>
      [.event .preemptFallback { n := c }, .event .coreVacate { n := c }]
  else []

def Ctx.moves (k : Ctx) (x : Nat) : List Move :=
  match k.phase with
  | .loading => [eventOf .launchCompletion x]
  | .launching => [eventOf .launchCompletion x]
  | .open => List.append (onlyIf (k.shead != k.tail) (eventOf .submissionAdmission x)) k.preemptMoves
  | .closing _ _ _ => [eventOf .teardownCompletion x]

/-- The events of the packets that may be performed. -/
def State.packetMoves (s : State) : List Move :=
  (s.net.filter fun p => s.clear p.after).map fun p => eventOf p.kind.event p.id

/-- Every move that may bring the module forward by itself. -/
def State.moves (s : State) : List Move :=
  List.flatten [
    s.packetMoves,
    s.cores.flatMap fun q => q.2.moves q.1,
    s.coves.flatMap fun q => q.2.moves q.1,
    s.ctxs.flatMap fun q => q.2.moves q.1,
    onlyIf (!s.inv.queue.isEmpty) (eventOf .invalidationComplete 0),
    onlyIf (s.crt.nearBusy || s.crt.farBusy) (.event .crtCommitDone { flag := s.crt.farBusy })]

/-- The default policy: the moves take turns with the count of steps; no move: a cycle of core 0, which is idle. -/
def State.nextMove (s : State) : Move :=
  let ms := s.moves
  (ms[s.tick % ms.length]?).getD (.core 0)

end Sys2Proof.Machine
end

