-- ==== Sys2Proof/Machine/Cycle.lean ====
section
/-! DEFINITION. One cycle of a core: the search for a ready thread (R12), the issue of its next instruction and its issue point
(R13), and the charge of an idle cycle (R16); and what a move does. -/

namespace Sys2Proof.Machine

/-- The slots in the order of the search (R12). -/
def searchOrder (last : Nat) : List Nat := (upFrom (last + 1) 16).map fun i => i % 16

/-- An idle cycle charged to a stall counter (R16). -/
def State.chargeStall (s : State) (c cause : Nat) : State :=
  let k := s.core c
  s.setCore c { k with stall := k.stall.setIfInBounds cause ((k.stall[cause]?).getD 0 + 1) }

/-- The counter that a slot charges if it is the first that is not ready; `none` for an empty slot. On a core that falls back
to a whole-core save, a thread that waits for nothing else is in pre-emption service (R256; DEDUCED, log entry 86). DESIGN CHOICE (log
entry 106): the cycles between a trap's entry and its handler's first issue count as an issue point not yet passed. -/
def Slot.stallCause (v : Slot) (frozen : Bool) : Option Nat :=
  match v.occ with
  | .empty => none
  | .thread t =>
    match t.park with
    | .none => if t.range.isSome then some 14 else if t.hold ≠ 0 then some 1 else if frozen then some 15 else some 0
    | .retry n => some n
    | .await n _ => some n
  | _ => some 0

/-- The thread waits for an event or marks a range: whatever ends that in a cycle lets it issue from the next one on (R15, R181). -/
def Slot.engaged (v : Slot) : Bool :=
  match v.thread? with
  | some t => t.waits.isSome || t.range.isSome
  | none => false

/-- The counter that a slot of a core charges in a cycle; a thread engaged as the cycle began charges what it then waited for. -/
def Core.causeAt (k before : Core) (i : Nat) : Option Nat :=
  if (before.slot i).engaged then (before.slot i).stallCause before.frozen else (k.slot i).stallCause k.frozen

/-- The first slot in search order that is not empty decides (R16). -/
def stallOf (k before : Core) : List Nat → Nat
  | [] => 0
  | i :: rest =>
    match k.causeAt before i with
    | some n => n
    | none => stallOf k before rest

/-- A cycle of a core that issues nothing, charged; with the core as the cycle began. -/
def State.idle (s : State) (c : Nat) (before : Core) (order : List Nat) : State :=
  s.chargeStall c (stallOf (s.core c) before order)

/-! ## Issue points (R13) -/

/-- The instruction uses the core's one divider. -/
def usesDivider (i : Instr) : Bool :=
  match i with
  | .div _ _ _ | .divu _ _ _ | .rem _ _ _ | .remu _ _ _ | .divw _ _ _ | .divuw _ _ _ | .remw _ _ _ | .remuw _ _ _ => true
  | _ => false

/-- The cycles from an instruction's issue to the earliest next issue of its thread (R13); `gang` has its result after 16 (R173). -/
def issueGap (i : Instr) : Nat :=
  match i with
  | .fdivS _ _ _ _ | .fsqrtS _ _ _ => 24
  | .gang _ _ => 16
  | i => if usesDivider i then 40 else 8

/-- A cycle has passed: every thread of the core is one nearer to its issue point, and the divider to its end. -/
def Core.aged (k : Core) : Core :=
  { k with
    slots := eachOf k.slots fun v =>
      match v.occ with
      | .thread t => { v with occ := .thread { t with hold := t.hold - 1 } }
      | _ => v
    divider := k.divider - 1 }

/-- The issue point of the thread that has issued, if it is still in its slot, and the divider at work. A thread that has taken a
trap in place of the instruction issues its handler's first after 8 cycles, and the divider has no work. -/
def State.issuedBy (s : State) (c i uid : Nat) (instr : Instr) : State :=
  match s.holder? c i uid with
  | none => s
  | some t =>
    if t.hold ≠ 0 then s.setThread c i { t with hold := 8 }
    else
      let s := s.setThread c i { t with hold := issueGap instr }
      if usesDivider instr then s.setCore c { s.core c with divider := issueGap instr } else s

/-- What an attempt to issue from a slot came to. -/
inductive Attempt where
  | issued (s : State)
  | notReady (s : State)
  | stopped (r : Result)

/-- Whether the thread's instruction was found not ready: it is still there, to be looked at again. -/
def State.stillWaits (s : State) (c i uid : Nat) : Bool :=
  match s.holder? c i uid with
  | some t =>
    match t.park with
    | .retry _ => true
    | _ => false
  | none => false

/-- The step that takes a thread's turn: a pending asynchronous cause (R249), a fetch fault (R141), an ILLEGAL word
(R134) or the instruction decoded. -/
def turnOf (t : Thread) (f : Fetched) : Option Instr :=
  if t.pend.first.isSome && !t.handler then some .asyncTrap
  else
    match f with
    | .word w =>
      match decode w with
      | .ok i => some i
      | .error _ => some .illegalWord
    | .badPc => some .fetchFault
    | .miss => none

/-- The word of a fetch, kept while the instruction executes. -/
def Fetched.latch : Fetched → BitVec 32
  | .word w => w
  | _ => 0

/-- The state in which the thread of a slot executes: it is the current one, its word is latched, its wait is over. -/
def State.begin_ (s : State) (c i : Nat) (t : Thread) (w : BitVec 32) : State :=
  ({ s with curCore := c, curSlot := i } : State).setThread c i { t with iword := w, park := .none }

/-- The thread's own commit is still on its way: it issues nothing before, so that its accesses take effect in order (R89, log
entry 29). -/
def State.commitsOwn (s : State) (t : Thread) : Bool := s.net.any fun p => p.uid = t.uid && p.kind.isCommit

/-- The instruction of a thread of a slot executed, unless it is a divide and the divider is busy (R13). -/
def issueNext (s : State) (c i : Nat) (t : Thread) (w : BitVec 32) (instr : Instr) : Attempt :=
  if usesDivider instr && (s.core c).divider != 0 then .notReady (s.setThread c i { t with park := .retry 14 })
  else
    match exec instr (s.begin_ c i t w) with
    | .next s' => if s'.stillWaits c i t.uid then .notReady s' else .issued (s'.issuedBy c i t.uid instr)
    | r => .stopped r

/-- One attempt at a slot. A speculative task whose trap ends it goes once it is no longer speculative (R248). -/
def attempt (s : State) (c i : Nat) : Attempt :=
  match s.thread? c i with
  | none => .notReady s
  | some t =>
    match t.park with
    | .await _ _ => .notReady s
    | _ =>
      if t.hold ≠ 0 || t.range.isSome then .notReady s
      else if s.commitsOwn t then .notReady (s.setThread c i { t with park := .retry 8 })
      else
        match t.ending with
        | some cause => if t.spec.isSome then .notReady s else .notReady (s.endThread c i t 5 cause)
        | none =>
          let f := s.fetch c t
          match turnOf t f with
          | none => .notReady (s.fetchMiss c i t)
          | some instr => issueNext s c i t f.latch instr

/-- On a core whose threads issue no more (R256), the cause for which a thread's next instruction is not ready, as it now stands; a
thread that could issue waits for nothing else (DEDUCED, log entry 86). -/
def State.reviewed (s : State) (c i : Nat) : State :=
  match s.thread? c i with
  | none => s
  | some t =>
    match t.park, attempt s c i with
    | .retry _, .notReady s' =>
      (match (s'.thread? c i).map Thread.park with
        | some (.retry n) => s.setThread c i { t with park := .retry n }
        | some _ => s.setThread c i { t with park := .none }
        | none => s)
    | .retry _, _ => s.setThread c i { t with park := .none }
    | _, _ => s

/-- The search of R12 over the slots in order; the first thread that issues ends it. With the core as the cycle began. -/
def search (s : State) (c : Nat) (before : Core) (order : List Nat) : List Nat → Result
  | [] => .next (s.idle c before order)
  | i :: rest =>
    let x := (s.thread? c i).map fun t => t.ctx
    match attempt s c i with
    | .issued s' =>
      let s' := s'.setCore c { s'.core c with lastIssued := i }
      .next (match x with
        | some x => s'.onCtx x fun k => { k with stirred := true }
        | none => s')
    | .notReady s' => search s' c before order rest
    | .stopped r => r

/-- A cycle of a core counted for the stall sample (R359). -/
def State.clocked (s : State) (c : Nat) : State :=
  { s with head := { s.head with cycles := put c ((find? c s.head.cycles).getD 0 + 1) s.head.cycles } }

/-- The work of a cycle before the search: the cycle counted, every thread one nearer to its issue point, and the ranges of full-empty
bits that are being marked (R181), in the issue order of their instructions and before the one that issues now (R182). -/
def State.aged (s : State) (c : Nat) : State :=
  (s.core c).rangeSlots.foldl (fun s i => s.advanceRange c i) ((s.setCore c (s.core c).aged).clocked c)

/-- One cycle of a core. A core of a retired cove has no clock (R355). A sealed core issues nothing (R260), nor one whose
context falls back to a whole-core save (R256): their cycles are idle and charged as any other (R16). A thread that the cycle's own
events wake issues in a later one (R15). -/
def cycle (s : State) (c : Nat) : Result :=
  if s.coveOff c then .next s
  else
    let before := s.core c
    let order := searchOrder before.lastIssued
    let s := s.aged c
    if (s.core c).sealed then .next (s.idle c before order)
    else if (s.core c).frozen then .next ((slotNumbers.foldl (fun s i => s.reviewed c i) s).idle c before order)
    else search s c before order (order.filter fun i => !(before.slot i).engaged)

/-- The events that happen on their own or from outside; the others are instructions, or part of a core's cycle. -/
def isEvent (i : Instr) : Bool :=
  match i with
  | .asyncTrap | .illegalWord | .fetchFault => false
  | .ecall | .ebreak | .tret | .texit | .ungang | .tretry | .fenceLe | .vfence | .mswap | .mwait => false
  | i => (encode i).isNone && i.wellFormed

/-- What a move does. Work stopped by a thermal shutdown (R360) leaves the cores idle. -/
def act (s : State) (m : Move) : Result :=
  match m with
  | .core c => if s.powered then cycle s c else .next s
  | .event i a => if isEvent i then exec i { s with ev := a } else .next s

/-- The count of steps advanced, whatever the outcome holds. -/
def ticked : Result → Result
  | .next s => .next { s with tick := s.tick + 1 }
  | r => r

end Sys2Proof.Machine
end

