-- ==== Sys2Proof/Safety.lean ====
section
/-! DEFINITION. The terms in which statements speak: what a safe run is, when an instruction passes every check made at
issue (R26, R136), and what its retirement makes of its thread (R190, R191). -/

namespace Sys2Proof

/-- No step of a run of so many steps stops with a fault or a refusal. -/
def runsOn (s : Machine.State) : Nat → Bool
  | 0 => true
  | n + 1 =>
    match Machine.step s with
    | .next s' => runsOn s' n
    | _ => false

namespace Machine

/-! ## Issue -/

/-- The register is no queue port (R26). -/
def plainReg (r : Reg) : Bool := r != 28 && r != 29 && r != 30

/-- An instruction of the executing thread that reads and writes these registers passes the checks of R26 and R136 that do
not depend on what it does: the words and the credit it needs are there, no port it names is disabled or refused, its task
may do what is irreversible, and the queue words it reads carry no error. -/
structure Issues (s : State) (t : Thread) (reads : List Reg) (write : Reg) (irreversible : Bool) : Prop where
  cur : s.cur? = some t
  ports : s.portWait reads write = none
  open_ : s.readTrap reads = none
  room : s.writeTrap write = none
  firm : irreversible = true → s.heldBack t = false
  sound : ∀ off ∈ s.portOffsets reads, s.localError s.curCore off 8 = none

/-- The executing thread, whose instruction retires with a fold and no silent error (R190, R191). -/
structure Retires (s : State) (t : Thread) : Prop where
  cur : s.cur? = some t
  settled : s.checking t = true → t.checker.pending = false

/-- The thread behind a retired instruction: at a PC, with no wait, the word of its fetch spent, and its checker folded where it
runs. -/
def Thread.after (t : Thread) (pc : Word) (transfer checking : Bool) : Thread :=
  { t with pc, park := .none, fetched := none, checker := if checking then t.checker.foldWord t.iword transfer else t.checker }

/-- The state in which the executing thread t stands changed behind an instruction that is no control transfer. -/
def State.beyond (s : State) (t u : Thread) : State := s.setCur (u.after (t.pc + 4) false (s.checking t))

/-- R190: a field of a word by number: its first bit and its width. -/
def field (w : BitVec 32) (lo n : Nat) : Nat := w.toNat / 2 ^ lo % 2 ^ n

/-- R190, R122, R125-R133: what a word folds, by its major opcode and funct3: U and J have no funct3, rs1 and rs2; S and B no rd;
I no rs2; L only funct3; the others all four. -/
def folded (w : BitVec 32) : Nat :=
  let op := field w 0 7
  let f3 := field w 12 3
  let major := 2 ^ 20 * field w 2 5
  let function := 2 ^ 17 * f3
  let rd := 2 ^ 10 * field w 7 5
  let rs1 := 2 ^ 5 * field w 15 5
  let rs2 := field w 20 5
  if op ∈ [0x37, 0x17, 0x6F] then major + rd
  else if op ∈ [0x63, 0x23, 0x27] ∨ op = 0x0B ∧ f3 = 2 ∨ op = 0x5B ∧ f3 = 5 then major + function + rs1 + rs2
  else if op ∈ [0x03, 0x07, 0x13, 0x1B, 0x67, 0x0F, 0x73] ∨ op = 0x0B ∧ f3 = 3 ∨ op = 0x2B ∧ f3 ≤ 2 ∨ op = 0x5B ∧ f3 = 4 then
    major + function + rd + rs1
  else if op = 0x0B ∧ f3 = 7 then major + function
  else major + function + rd + rs1 + rs2

/-! ## Register results -/

/-- What a computational instruction reads, writes and computes. -/
structure Row where
  rd : Reg
  reads : List Reg
  value : State → Thread → Word

/-- A row with no, one or two g sources. -/
def row0 (rd : Reg) (f : Thread → Word) : Row := { rd, reads := [], value := fun _ t => f t }
def row1 (rd a : Reg) (f : Word → Word) : Row := { rd, reads := [a], value := fun s t => f (s.readg t [] a) }
def row2 (rd a b : Reg) (f : Word → Word → Word) : Row :=
  { rd, reads := [a, b], value := fun s t => f (s.readg t [] a) (s.readg t [a] b) }

/-- An integer modulo 2^64, and the W form of one: 32 bits, sign-extended. -/
def wide (n : Int) : Word := BitVec.ofInt 64 n
def narrow (n : Int) : Word := BitVec.ofInt 64 (n.bmod (2 ^ 32))

/-- A bit as a word. -/
def truth (p : Prop) [Decidable p] : Word := if p then 1 else 0

/-- Shifts of integers: by a multiplication and by a division that rounds down. -/
def shiftUp (n : Int) (k : Nat) : Int := n * 2 ^ k
def shiftDown (n : Int) (k : Nat) : Int := n / 2 ^ k

/-- The low 32 bits of a word, unsigned and signed. -/
def unsigned32 (a : Word) : Int := (a.toNat % 2 ^ 32 : Nat)
def signed32 (a : Word) : Int := (unsigned32 a).bmod (2 ^ 32)

/-- R138 on exact integers. -/
def integerRow : Instr → Option Row
  | .lui rd imm => some (row0 rd fun _ => wide (imm.toInt * 2 ^ 12))
  | .auipc rd imm => some (row0 rd fun t => wide (t.pc.toInt + imm.toInt * 2 ^ 12))
  | .add rd a b => some (row2 rd a b fun x y => wide (x.toInt + y.toInt))
  | .sub rd a b => some (row2 rd a b fun x y => wide (x.toInt - y.toInt))
  | .addi rd a i => some (row1 rd a fun x => wide (x.toInt + i.toInt))
  | .and rd a b => some (row2 rd a b fun x y => x &&& y)
  | .or rd a b => some (row2 rd a b fun x y => x ||| y)
  | .xor rd a b => some (row2 rd a b fun x y => x ^^^ y)
  | .andi rd a i => some (row1 rd a fun x => x &&& wide i.toInt)
  | .ori rd a i => some (row1 rd a fun x => x ||| wide i.toInt)
  | .xori rd a i => some (row1 rd a fun x => x ^^^ wide i.toInt)
  | .slt rd a b => some (row2 rd a b fun x y => truth (x.toInt < y.toInt))
  | .slti rd a i => some (row1 rd a fun x => truth (x.toInt < i.toInt))
  | .sltu rd a b => some (row2 rd a b fun x y => truth (x.toNat < y.toNat))
  | .sltiu rd a i => some (row1 rd a fun x => truth (x.toNat < (wide i.toInt).toNat))
  | .sll rd a b => some (row2 rd a b fun x y => wide (shiftUp x.toNat (y.toNat % 64)))
  | .srl rd a b => some (row2 rd a b fun x y => wide (shiftDown x.toNat (y.toNat % 64)))
  | .sra rd a b => some (row2 rd a b fun x y => wide (shiftDown x.toInt (y.toNat % 64)))
  | .slli rd a k => some (row1 rd a fun x => wide (shiftUp x.toNat k.toNat))
  | .srli rd a k => some (row1 rd a fun x => wide (shiftDown x.toNat k.toNat))
  | .srai rd a k => some (row1 rd a fun x => wide (shiftDown x.toInt k.toNat))
  | .addw rd a b => some (row2 rd a b fun x y => narrow (x.toInt + y.toInt))
  | .subw rd a b => some (row2 rd a b fun x y => narrow (x.toInt - y.toInt))
  | .addiw rd a i => some (row1 rd a fun x => narrow (x.toInt + i.toInt))
  | .sllw rd a b => some (row2 rd a b fun x y => narrow (shiftUp (unsigned32 x) (y.toNat % 32)))
  | .srlw rd a b => some (row2 rd a b fun x y => narrow (shiftDown (unsigned32 x) (y.toNat % 32)))
  | .sraw rd a b => some (row2 rd a b fun x y => narrow (shiftDown (signed32 x) (y.toNat % 32)))
  | .slliw rd a k => some (row1 rd a fun x => narrow (shiftUp (unsigned32 x) k.toNat))
  | .srliw rd a k => some (row1 rd a fun x => narrow (shiftDown (unsigned32 x) k.toNat))
  | .sraiw rd a k => some (row1 rd a fun x => narrow (shiftDown (signed32 x) k.toNat))
  | _ => none

/-- R139: a quotient and a remainder; a divisor of 0 gives −1 and the dividend. The overflow needs no case of its own: the
quotient wraps to the dividend and the remainder is 0. -/
def quotient (a b : Int) : Int := if b = 0 then -1 else a.tdiv b
def remainder (a b : Int) : Int := if b = 0 then a else a.tmod b

/-- R139 on exact integers. -/
def multiplyRow : Instr → Option Row
  | .mul rd a b => some (row2 rd a b fun x y => wide (x.toInt * y.toInt))
  | .mulh rd a b => some (row2 rd a b fun x y => wide (shiftDown (x.toInt * y.toInt) 64))
  | .mulhsu rd a b => some (row2 rd a b fun x y => wide (shiftDown (x.toInt * y.toNat) 64))
  | .mulhu rd a b => some (row2 rd a b fun x y => wide (shiftDown (x.toNat * y.toNat) 64))
  | .mulw rd a b => some (row2 rd a b fun x y => narrow (x.toInt * y.toInt))
  | .div rd a b => some (row2 rd a b fun x y => wide (quotient x.toInt y.toInt))
  | .divu rd a b => some (row2 rd a b fun x y => wide (quotient x.toNat y.toNat))
  | .rem rd a b => some (row2 rd a b fun x y => wide (remainder x.toInt y.toInt))
  | .remu rd a b => some (row2 rd a b fun x y => wide (remainder x.toNat y.toNat))
  | .divw rd a b => some (row2 rd a b fun x y => narrow (quotient (signed32 x) (signed32 y)))
  | .divuw rd a b => some (row2 rd a b fun x y => narrow (quotient (unsigned32 x) (unsigned32 y)))
  | .remw rd a b => some (row2 rd a b fun x y => narrow (remainder (signed32 x) (signed32 y)))
  | .remuw rd a b => some (row2 rd a b fun x y => narrow (remainder (unsigned32 x) (unsigned32 y)))
  | _ => none

/-- The other instructions that only write a g register: `csel` and `pmov` (R142), FMV.X.W and FCLASS.S (R156). -/
def moveRow : Instr → Option Row
  | .csel rd a b p => some
      { rd, reads := [a, b], value := fun s t => if t.pbit p then s.readg t [] a else s.readg t [a] b }
  | .pmov rd => some (row0 rd fun t => BitVec.ofNat 64 (t.p ||| 1).toNat)
  | .fmvXW rd a => some (row0 rd fun t => wide (t.getF a).toInt)
  | .fclassS rd a => some (row0 rd fun t => BitVec.ofNat 64 (classify (t.getF a).toNat))
  | _ => none

/-- The rows of every instruction that only writes a g register. -/
def resultRow (i : Instr) : Option Row := (integerRow i <|> multiplyRow i) <|> moveRow i

/-! ## Control transfers (R140, R142) -/

/-- What a jump or a branch reads, the register that receives PC + 4, and where the thread goes on. -/
structure Transfer where
  reads : List Reg := []
  link : Option Reg := none
  target : State → Thread → Word

/-- The PC some half-words away. -/
def Thread.away (t : Thread) (halves : Int) : Word := wide (t.pc.toInt + 2 * halves)

/-- A branch on two g registers. -/
def branchRow (a b : Reg) (imm : BitVec 12) (c : Word → Word → Bool) : Transfer :=
  { reads := [a, b]
    target := fun s t => if c (s.readg t [] a) (s.readg t [a] b) then t.away imm.toInt else t.pc + 4 }

/-- A branch on a predicate. -/
def predicateBranch (imm : BitVec 12) (c : Thread → Bool) : Transfer :=
  { target := fun _ t => if c t then t.away imm.toInt else t.pc + 4 }

def transferRow : Instr → Option Transfer
  | .jal rd imm => some { link := some rd, target := fun _ t => t.away imm.toInt }
  | .jalr rd a imm => some
      { reads := [a], link := some rd, target := fun s t => wide ((s.readg t [] a).toInt + imm.toInt) &&& ~~~1 }
  | .beq a b imm => some (branchRow a b imm fun x y => x = y)
  | .bne a b imm => some (branchRow a b imm fun x y => x ≠ y)
  | .blt a b imm => some (branchRow a b imm fun x y => x.toInt < y.toInt)
  | .bge a b imm => some (branchRow a b imm fun x y => y.toInt ≤ x.toInt)
  | .bltu a b imm => some (branchRow a b imm fun x y => x.toNat < y.toNat)
  | .bgeu a b imm => some (branchRow a b imm fun x y => y.toNat ≤ x.toNat)
  | .bp p imm => some (predicateBranch imm fun t => t.pbit p)
  | .bnp p imm => some (predicateBranch imm fun t => !t.pbit p)
  | _ => none

/-- Only JALR checks its target: bit 1 must be 0. -/
def targetOk (i : Instr) (target : Word) : Prop :=
  match i with
  | .jalr _ _ _ => target.getLsbD 1 = false
  | _ => True

/-- PC + 4 in the link register. -/
def State.linked (s : State) (link : Option Reg) (v : Word) : State :=
  match link with
  | some rd => s.writeg s.curCore s.curSlot rd v
  | none => s

/-! ## Changes of the executing thread -/

/-- What an instruction reads, and the change it makes: of the state and thread at issue, and the thread as it then
stands. -/
structure Change where
  reads : List Reg := []
  change : State → Thread → Thread → Thread

/-- A predicate bit from two g registers. -/
def compareRow (p a b : Reg) (c : Word → Word → Bool) : Change :=
  { reads := [a, b], change := fun s t u => u.setP p (c (s.readg t [] a) (s.readg t [a] b)) }

/-- A predicate bit from two predicate bits. -/
def logicRow (p a b : BitVec 5) (c : Bool → Bool → Bool) : Change := { change := fun _ t u => u.setP p (c (t.pbit a) (t.pbit b)) }

/-- R142, apart from the branches, `pmov` and `csel`. -/
def predicateRow : Instr → Option Change
  | .pcmpEq p a b => some (compareRow p a b fun x y => x = y)
  | .pcmpNe p a b => some (compareRow p a b fun x y => x ≠ y)
  | .pcmpLt p a b => some (compareRow p a b fun x y => x.toInt < y.toInt)
  | .pcmpGe p a b => some (compareRow p a b fun x y => y.toInt ≤ x.toInt)
  | .pcmpLtu p a b => some (compareRow p a b fun x y => x.toNat < y.toNat)
  | .pcmpGeu p a b => some (compareRow p a b fun x y => y.toNat ≤ x.toNat)
  | .pand p a b => some (logicRow p a b fun x y => x && y)
  | .por p a b => some (logicRow p a b fun x y => x || y)
  | .pxor p a b => some (logicRow p a b fun x y => x ^^ y)
  | .pandn p a b => some (logicRow p a b fun x y => x && !y)
  | .pwr a => some
      { reads := [a], change := fun s t u => { u with p := BitVec.ofNat 32 (s.readg t [] a).toNat ||| 1 } }
  | _ => none

/-! ## FP32 scalar instructions (R155, R156) -/

/-- A scalar FP instruction with a result in an f register: what it reads of the g registers, its rounding-mode field, and
the result with its flags for a rounding. -/
structure FloatRow where
  rd : Reg
  reads : List Reg := []
  rm : Option (BitVec 3) := none
  result : State → Thread → Rounding → BitVec 32 × Flags

/-- The mode that the instruction rounds in; `none`: its field or FSTAT.rm names no mode (R109). -/
def FloatRow.mode (r : FloatRow) (t : Thread) : Option Nat :=
  match r.rm with
  | some m => t.modeOf m.toNat
  | none => some 0

/-- The exact result of two finite or special values rounded to FP32. -/
def rounded (r : Rounding) (x : Exact) : BitVec 32 × Flags := (BitVec.ofNat 32 (fp32.finish r x).1, (fp32.finish r x).2)

def roundRow (rd : Reg) (rm : BitVec 3) (f : Thread → Rounding → Exact) : FloatRow :=
  { rd, rm := some rm, result := fun _ t r => rounded r (f t r) }

/-- An instruction that does not round. -/
def exactRow (rd a b : Reg) (f : BitVec 32 → BitVec 32 → BitVec 32 × Flags) : FloatRow :=
  { rd, result := fun _ t _ => f (t.getF a) (t.getF b) }

/-- A conversion of an integer. -/
def ofIntRow (rd a : Reg) (rm : BitVec 3) (f : Word → Int) : FloatRow :=
  { rd, reads := [a], rm := some rm
    result := fun s t r => let x := fp32.encode r (ofInt (f (s.readg t [] a))); (BitVec.ofNat 32 x.1, x.2) }

/-- The bits of a value with the sign bit given. -/
def signed (a : BitVec 32) (neg : Bool) : BitVec 32 := BitVec.ofBool neg ++ a.extractLsb' 0 31

def floatRow : Instr → Option FloatRow
  | .faddS rd a b rm => some (roundRow rd rm fun t r => addExact r.mode (fp32Val (t.getF a)) (fp32Val (t.getF b)))
  | .fsubS rd a b rm => some (roundRow rd rm fun t r => addExact r.mode (fp32Val (t.getF a)) (fp32Val (t.getF b)).neg)
  | .fmulS rd a b rm => some (roundRow rd rm fun t _ => mulExact (fp32Val (t.getF a)) (fp32Val (t.getF b)))
  | .fdivS rd a b rm => some (roundRow rd rm fun t _ => divExact (fp32Val (t.getF a)) (fp32Val (t.getF b)))
  | .fsqrtS rd a rm => some (roundRow rd rm fun t _ => sqrtExact (fp32Val (t.getF a)))
  | .fmaddS rd a b c rm => some
      (roundRow rd rm fun t r => fmaExact r.mode (fp32Val (t.getF a)) (fp32Val (t.getF b)) (fp32Val (t.getF c)))
  | .fmsubS rd a b c rm => some
      (roundRow rd rm fun t r => fmaExact r.mode (fp32Val (t.getF a)) (fp32Val (t.getF b)) (fp32Val (t.getF c)).neg)
  | .fnmsubS rd a b c rm => some
      (roundRow rd rm fun t r => fmaExact r.mode (fp32Val (t.getF a)).neg (fp32Val (t.getF b)) (fp32Val (t.getF c)))
  | .fnmaddS rd a b c rm => some
      (roundRow rd rm fun t r => fmaExact r.mode (fp32Val (t.getF a)).neg (fp32Val (t.getF b)) (fp32Val (t.getF c)).neg)
  | .fsgnjS rd a b => some (exactRow rd a b fun x y => (signed x y.msb, 0))
  | .fsgnjnS rd a b => some (exactRow rd a b fun x y => (signed x !y.msb, 0))
  | .fsgnjxS rd a b => some (exactRow rd a b fun x y => (signed x (x.msb ^^ y.msb), 0))
  | .fminS rd a b => some (exactRow rd a b (fpMinMax false))
  | .fmaxS rd a b => some (exactRow rd a b (fpMinMax true))
  | .fcvtSW rd a rm => some (ofIntRow rd a rm signed32)
  | .fcvtSWu rd a rm => some (ofIntRow rd a rm unsigned32)
  | .fcvtSL rd a rm => some (ofIntRow rd a rm fun x => x.toInt)
  | .fcvtSLu rd a rm => some (ofIntRow rd a rm fun x => x.toNat)
  | .fmvWX rd a => some { rd, reads := [a], result := fun s t _ => (BitVec.ofNat 32 (s.readg t [] a).toNat, 0) }
  | _ => none

/-- The draw of a scalar instruction that rounds (R110), and the thread behind it. -/
def FloatRow.change (r : FloatRow) (mode : Nat) (s : State) (t u : Thread) : Thread :=
  match r.rm with
  | some _ =>
    let v := r.result s t (u.rounding mode).1
    ((u.rounding mode).2.raiseFlags v.2).setF r.rd v.1
  | none =>
    let v := r.result s t { mode := 0, sat := false, r := 0 }
    (u.raiseFlags v.2).setF r.rd v.1

/-- A scalar FP instruction with a result in a g register: a conversion to an integer (R113) or a comparison (R156). -/
structure FloatIntRow where
  rd : Reg
  rm : Option (BitVec 3) := none
  result : Thread → Rounding → Word × Flags

def FloatIntRow.mode (r : FloatIntRow) (t : Thread) : Option Nat :=
  match r.rm with
  | some m => t.modeOf m.toNat
  | none => some 0

/-- A conversion between two bounds; W results are sign-extended. -/
def toIntRow (rd a : Reg) (rm : BitVec 3) (lo hi : Int) (f : Int → Word) : FloatIntRow :=
  { rd, rm := some rm
    result := fun t r => let x := toInt r lo hi (fp32Val (t.getF a)); (f x.1, x.2) }

def compareFRow (rd a b : Reg) (op : Nat) : FloatIntRow :=
  { rd, result := fun t _ => let x := fp32.compare op (t.getF a).toNat (t.getF b).toNat; (truth (x.1 = true), x.2) }

def floatIntRow : Instr → Option FloatIntRow
  | .fcvtWS rd a rm => some (toIntRow rd a rm (-(2 ^ 31)) (2 ^ 31 - 1) narrow)
  | .fcvtWuS rd a rm => some (toIntRow rd a rm 0 (2 ^ 32 - 1) narrow)
  | .fcvtLS rd a rm => some (toIntRow rd a rm (-(2 ^ 63)) (2 ^ 63 - 1) wide)
  | .fcvtLuS rd a rm => some (toIntRow rd a rm 0 (2 ^ 64 - 1) wide)
  | .feqS rd a b => some (compareFRow rd a b 0)
  | .fltS rd a b => some (compareFRow rd a b 1)
  | .fleS rd a b => some (compareFRow rd a b 2)
  | _ => none

/-- The generator after the conversion's draw, if it made one (R110). -/
def FloatIntRow.seed (r : FloatIntRow) (mode : Nat) (t : Thread) : Word :=
  match r.rm with
  | some _ => (t.rounding mode).2.srseed
  | none => t.srseed

def FloatIntRow.value (r : FloatIntRow) (mode : Nat) (t : Thread) : Word × Flags :=
  match r.rm with
  | some _ => r.result t (t.rounding mode).1
  | none => r.result t { mode := 0, sat := false, r := 0 }

/-! ## Exact arithmetic (R103, R111) -/

/-- A number m × 2^e in units of 2^k, for a k of at most e. -/
def inUnits (m e k : Int) : Int := m * 2 ^ (e - k).toNat

/-- A finite value in units of 2^k; `neg` is its sign. -/
def FVal.inUnits (v : FVal) (k : Int) : Int :=
  match v with
  | .fin neg m e => Machine.inUnits (if neg then -(m : Int) else m) e k
  | _ => 0

/-- A finite value whose exponent is at least k. -/
def FVal.finite (v : FVal) (k : Int) : Prop :=
  match v with
  | .fin _ _ e => k ≤ e
  | _ => False

/-- One value lies below another: −∞ below all others, +∞ above, finite values by their numbers. -/
def FVal.below (v w : FVal) : Prop :=
  (v = .inf true ∧ w ≠ .inf true) ∨ (w = .inf false ∧ v ≠ .inf false) ∨
  (v.finite (-149) ∧ w.finite (-149) ∧ v.inUnits (-149) < w.inUnits (-149))

/-- The class of an FP32 code, by its exponent and mantissa fields: the bit of FCLASS.S. -/
def classBit (x : Nat) : Nat :=
  let e : Nat := x / 2 ^ 23 % 2 ^ 8
  let m : Nat := x % 2 ^ 23
  let neg := 2 ^ 31 ≤ x
  if e = 255 then (if m = 0 then (if neg then 0 else 7) else if m < 2 ^ 22 then 8 else 9)
  else if e = 0 then (if m = 0 then (if neg then 3 else 4) else if neg then 2 else 5)
  else if neg then 1 else 6

/-- The value of an FP32 code (R103). -/
def fp32Value (x : Nat) : FVal :=
  let e : Nat := x / 2 ^ 23 % 2 ^ 8
  let m : Nat := x % 2 ^ 23
  let neg : Bool := decide (2 ^ 31 ≤ x)
  if e = 255 then (if m = 0 then .inf neg else .nan (decide (m < 2 ^ 22)))
  else if e = 0 then .fin neg m (-149)
  else .fin neg (2 ^ 23 + m) ((e : Int) - 150)

/-- The value of a code of a format with so many exponent and mantissa bits (R103, R104). -/
def floatValue (ebits mbits x : Nat) : FVal :=
  let e : Nat := x / 2 ^ mbits % 2 ^ ebits
  let m : Nat := x % 2 ^ mbits
  let neg : Bool := decide (2 ^ (ebits + mbits) ≤ x)
  let least : Int := 2 - 2 ^ (ebits - 1) - mbits
  if e = 2 ^ ebits - 1 then (if m = 0 then .inf neg else .nan (decide (m < 2 ^ (mbits - 1))))
  else if e = 0 then .fin neg m least
  else .fin neg (2 ^ mbits + m) (least + (e - 1 : Nat))

/-- maximumNumber of FP32 codes (R111, R119): the greatest number, +0 above −0; the canonical NaN where every code is a NaN. -/
def greatestOf (xs : List Nat) (r : Nat) : Prop :=
  let v (x : Nat) : FVal := fp32Value x
  ((∀ x ∈ xs, (v x).isNan = true) → r = 0x7FC00000) ∧
  ((∃ x ∈ xs, (v x).isNan = false) → r ∈ xs ∧ (v r).isNan = false ∧ (∀ x ∈ xs, (v x).isNan = true ∨ ¬(v r).below (v x)) ∧
    (r = 0x80000000 → 0 ∉ xs))

/-- minimumNumber or maximumNumber of two codes with these values (R111): a number before a NaN, −0 below +0. -/
def numberOf (greatest : Bool) (canonical x y : Nat) (a b : FVal) (r : Nat) : Prop :=
  (a.isNan = true → b.isNan = true → r = canonical) ∧ (a.isNan = true → b.isNan = false → r = y) ∧
  (a.isNan = false → b.isNan = true → r = x) ∧
  (a.isNan = false → b.isNan = false →
    (a.below b → r = if greatest then y else x) ∧ (b.below a → r = if greatest then x else y) ∧
    (a.isZero = true → b.isZero = true → a.sign = true → b.sign = false → r = if greatest then y else x) ∧
    (a.isZero = true → b.isZero = true → a.sign = false → b.sign = true → r = if greatest then x else y))

/-- The flags of n results, each ORed in. -/
def flagsOf (fl : Flags) (n : Nat) (of : Nat → Flags) : Prop :=
  ∀ b, fl.getLsbD b = true ↔ ∃ i, i < n ∧ (of i).getLsbD b = true

/-- A NaN result: it is quiet, and nv is set for a signalling operand. -/
def Exact.isNanOf (r : Exact) (signalling : Bool) : Prop := r.v = .nan false ∧ r.flags = if signalling then 0b10000 else 0

/-- The result of an invalid operation. -/
def Exact.isInvalid (r : Exact) : Prop := r.v = .nan false ∧ r.flags = 0b10000

/-- A result that is exact and raises nothing. -/
def Exact.is (r : Exact) (v : FVal) : Prop := r.v = v ∧ r.flags = 0 ∧ r.sticky = false

/-! ## Loads, stores and atomics (R145, R149) -/

/-- A load: its base and offset, its size, the g register it writes, and where the value goes. -/
structure LoadRow where
  base : Reg
  imm : BitVec 12
  n : Nat
  write : Reg := 0
  dest : Dest

def LoadRow.address (r : LoadRow) (s : State) (t : Thread) : Word := wide ((s.readg t [] r.base).toInt + r.imm.toInt)

def loadRow : Instr → Option LoadRow
  | .lb rd a i => some { base := a, imm := i, n := 1, write := rd, dest := .g rd 1 true }
  | .lh rd a i => some { base := a, imm := i, n := 2, write := rd, dest := .g rd 2 true }
  | .lw rd a i => some { base := a, imm := i, n := 4, write := rd, dest := .g rd 4 true }
  | .ld rd a i => some { base := a, imm := i, n := 8, write := rd, dest := .g rd 8 false }
  | .lbu rd a i => some { base := a, imm := i, n := 1, write := rd, dest := .g rd 1 false }
  | .lhu rd a i => some { base := a, imm := i, n := 2, write := rd, dest := .g rd 2 false }
  | .lwu rd a i => some { base := a, imm := i, n := 4, write := rd, dest := .g rd 4 false }
  | .flw rd a i => some { base := a, imm := i, n := 4, dest := .f rd }
  | _ => none

/-- The thread with a value in a load's destination. -/
def Thread.given (t : Thread) (d : Dest) (v : Word) : Thread :=
  match d with
  | .none => t
  | .g rd n true => t.setG rd (wide ((v.toNat : Int).bmod (2 ^ (8 * n))))
  | .g rd n false => t.setG rd (wide (v.toNat % 2 ^ (8 * n) : Nat))
  | .f rd => t.setF rd (BitVec.ofNat 32 v.toNat)

/-- A store: its base and offset, what it reads, its size, and the value. -/
structure StoreRow where
  base : Reg
  imm : BitVec 12
  reads : List Reg
  n : Nat
  value : State → Thread → Word

def StoreRow.address (r : StoreRow) (s : State) (t : Thread) : Word := wide ((s.readg t [] r.base).toInt + r.imm.toInt)

/-- The low n bytes of a word. -/
def lowBytes (v : Word) (n : Nat) : Word := wide (v.toNat % 2 ^ (8 * n) : Nat)

def storeFrom (a b : Reg) (imm : BitVec 12) (n : Nat) : StoreRow :=
  { base := a, imm, reads := [a, b], n, value := fun s t => lowBytes (s.readg t [a] b) n }

def storeRow : Instr → Option StoreRow
  | .sb a b i => some (storeFrom a b i 1)
  | .sh a b i => some (storeFrom a b i 2)
  | .sw a b i => some (storeFrom a b i 4)
  | .sd a b i => some (storeFrom a b i 8)
  | .fsw a b i => some { base := a, imm := i, reads := [a], n := 4, value := fun _ t => wide (t.getF b).toNat }
  | _ => none

/-- An atomic: its registers, size and operation. -/
structure AtomicRow where
  op : AtomicOp
  rd : Reg
  base : Reg
  operand : Reg
  n : Nat
  scope : BitVec 2

def atomicRow : Instr → Option AtomicRow
  | .atmSwap rd a b size scope => some { op := .swap, rd, base := a, operand := b, n := 4 + 4 * size.toNat, scope }
  | .atmAdd rd a b size scope => some { op := .add, rd, base := a, operand := b, n := 4 + 4 * size.toNat, scope }
  | .atmAnd rd a b size scope => some { op := .and, rd, base := a, operand := b, n := 4 + 4 * size.toNat, scope }
  | .atmOr rd a b size scope => some { op := .or, rd, base := a, operand := b, n := 4 + 4 * size.toNat, scope }
  | .atmXor rd a b size scope => some { op := .xor, rd, base := a, operand := b, n := 4 + 4 * size.toNat, scope }
  | .atmMin rd a b size scope => some { op := .min, rd, base := a, operand := b, n := 4 + 4 * size.toNat, scope }
  | .atmMax rd a b size scope => some { op := .max, rd, base := a, operand := b, n := 4 + 4 * size.toNat, scope }
  | .atmMinu rd a b size scope => some { op := .minu, rd, base := a, operand := b, n := 4 + 4 * size.toNat, scope }
  | .atmMaxu rd a b size scope => some { op := .maxu, rd, base := a, operand := b, n := 4 + 4 * size.toNat, scope }
  | .atmCas rd a b size scope => some { op := .cas, rd, base := a, operand := b, n := 4 + 4 * size.toNat, scope }
  | .atmFadd rd a b scope => some { op := .fadd, rd, base := a, operand := b, n := 4, scope }
  | _ => none

/-- What an atomic reads: the address, the operand, and for `cas` the expected value. -/
def AtomicRow.reads (r : AtomicRow) : List Reg := if r.op = .cas then [r.base, r.operand, r.rd] else [r.base, r.operand]

def AtomicRow.address (r : AtomicRow) (s : State) (t : Thread) : Word := s.readg t [] r.base

/-- The atomic as it goes to its home; rd = 0 awaits no result (R150). -/
def AtomicRow.atomic (r : AtomicRow) (s : State) (t : Thread) : Atomic :=
  { op := r.op, n := r.n, scope := r.scope, b := s.readg t [r.base] r.operand
    e := if r.op = .cas then s.readg t [r.base, r.operand] r.rd else 0
    dest := if r.rd = 0 then .none else .g r.rd r.n true }

/-- What the integer atomics write over an old value of 8 n bits, on exact integers; `none`: nothing (R149). -/
def atomicNew (op : AtomicOp) (n : Nat) (old b e : Nat) : Option Nat :=
  let size := 2 ^ (8 * n)
  let sgn (x : Nat) : Int := (x : Int).bmod size
  match op with
  | .swap => some b
  | .add => some ((old + b) % size)
  | .and => some (old &&& b)
  | .or => some (old ||| b)
  | .xor => some (old ^^^ b)
  | .min => some (if sgn b < sgn old then b else old)
  | .max => some (if sgn old < sgn b then b else old)
  | .minu => some (min old b)
  | .maxu => some (max old b)
  | .cas => if old = e then some b else none
  | .fadd => none

/-! ## Where an access is served (R145) -/

/-- The access passes the checks of R145 and its address names the target. -/
structure Reaches (s : State) (t : Thread) (a : Word) (n : Nat) (write : Bool) (tgt : Target) : Prop where
  checked : s.accessTrap t.ctx s.curCore a n write = none
  found : s.reach t.ctx s.curCore a { write } = .target tgt

/-- The access passes the checks of R145 and the TLB lacks its page. -/
structure Misses (s : State) (t : Thread) (a : Word) (n : Nat) (write : Bool) : Prop where
  checked : s.accessTrap t.ctx s.curCore a n write = none
  missed : s.reach t.ctx s.curCore a { write } = .miss

/-- A packet of the executing thread. -/
def State.packetOf (s : State) (t : Thread) (kind : Kind) : Packet :=
  { id := 0, ctx := t.ctx, core := s.curCore, slot := s.curSlot, uid := t.uid, kind }

/-- The executing thread parked, with its request on the way. -/
def State.asks (s : State) (t : Thread) (cause : Nat) (w : Wait) (kind : Kind) : State :=
  (s.setCur { t with park := .await cause w }).send (s.packetOf t kind)

/-- The stall counter and the request of a load that another unit serves: STALL3 for a core, STALL2 for memory. -/
def loadCause : Target → Nat
  | .local _ _ => 3
  | .phys _ => 2

def loadKind (tgt : Target) (n : Nat) (va : Word) : Kind :=
  match tgt with
  | .local c off => .remoteLoad c off n va
  | .phys pa => .load pa n va

/-- A word of n bytes at an offset of the executing core's local store. -/
def State.ownWord (s : State) (off n : Nat) : Word := s.here.mem.load off n

/-- A word of n bytes put there; what engine commands may still read shows it (R88, log entry 14). -/
def State.putOwn (s : State) (off n : Nat) (v : Word) : State :=
  (s.setHere { s.here with mem := s.here.mem.save off n v }).amend (.local s.curCore off) (leBytes n v.toNat)

/-! ## Ordered and speculative tasks (R69) -/

/-- A store of the thread that nothing of R69 concerns: its task is not ordered. -/
def Thread.plain (t : Thread) : Prop := t.spec = none ∧ t.task.ordered = false

/-! ## Fences (R90, R91, R152) -/

/-- The scope of a fence: 0 core, 1 and 2 cove and device, 3 system; FENCE and `fence.le` act as device. -/
def fenceScope : Instr → Option Nat
  | .fence _ _ _ => some 2
  | .fenceSc scope => some scope.toNat
  | .fenceLe => some 2
  | _ => none

/-- What the fence waits for is done. -/
def State.fencePasses (s : State) (t : Thread) (scope : Nat) : Bool :=
  scope = 0 || (if scope = 3 then s.clearSystem (s.fenced t) else s.clear (s.fenced t))

/-! ## CSR instructions (R153) -/

/-- A CSR instruction: the register written, the g registers read, the CSR, its operand, whether it reads and writes the CSR,
and the value it writes. -/
structure CsrRow where
  rd : Reg
  reads : List Reg
  csr : Nat
  operand : State → Thread → Word
  does_read : Bool
  does_write : Bool
  new : Word → Word → Word

def csrRow : Instr → Option CsrRow
  | .csrrw rd a c => some
      { rd, reads := [a], csr := c.toNat, operand := fun s t => s.readg t [] a, does_read := rd ≠ 0, does_write := true
        new := fun _ v => v }
  | .csrrs rd a c => some
      { rd, reads := [a], csr := c.toNat, operand := fun s t => s.readg t [] a, does_read := true, does_write := a ≠ 0
        new := fun old v => old ||| v }
  | .csrrc rd a c => some
      { rd, reads := [a], csr := c.toNat, operand := fun s t => s.readg t [] a, does_read := true, does_write := a ≠ 0
        new := fun old v => old &&& ~~~v }
  | .csrrwi rd c u => some
      { rd, reads := [], csr := c.toNat, operand := fun _ _ => wide u.toNat, does_read := rd ≠ 0, does_write := true
        new := fun _ v => v }
  | .csrrsi rd c u => some
      { rd, reads := [], csr := c.toNat, operand := fun _ _ => wide u.toNat, does_read := true, does_write := u ≠ 0
        new := fun old v => old ||| v }
  | .csrrci rd c u => some
      { rd, reads := [], csr := c.toNat, operand := fun _ _ => wide u.toNat, does_read := true, does_write := u ≠ 0
        new := fun old v => old &&& ~~~v }
  | _ => none

/-- R29, R68: the ring of 2^(d + 3) bytes that a control word with en = 1 describes may be configured. -/
def ringFits (ordered : Bool) (v : Word) : Prop :=
  let d := v.toNat / 2 ^ 6 % 2 ^ 4
  let first := 32 * (v.toNat / 2 ^ 10 % 2 ^ 12)
  let last := first + 2 ^ (d + 3)
  2 ≤ d ∧ d ≤ 10 ∧ first % 2 ^ (d + 3) = 0 ∧ 0x4800 ≤ first ∧ last ≤ 0x18000 ∧ (ordered = true → last ≤ 0x17000)

/-- R31, R68: the map that a KMAPCFG value with en = 1 describes may be configured, apart from the entries' states. -/
def mapFits (ordered : Bool) (v : Word) : Prop :=
  let n := v.toNat / 2 ^ 16 % 2 ^ 7
  let lg := v.toNat / 2 ^ 12 % 2 ^ 4
  let first := 2 ^ 8 * (v.toNat % 2 ^ 9)
  let last := first + n * 2 ^ lg
  1 ≤ n ∧ n ≤ 64 ∧ 8 ≤ lg ∧ lg ≤ 14 ∧ 0x4800 ≤ first ∧ last ≤ 0x18000 ∧ (ordered = true → last ≤ 0x17000)

/-- R243: the region and the output that a CMBCFG value with en = 1 describes may be configured. -/
def combineFits (ordered : Bool) (v : Word) : Prop :=
  let row := 4 * (8 * (v.toNat / 2 ^ 48 % 2 ^ 5 + 1))
  let tokens := v.toNat / 2 ^ 42 % 2 ^ 6 + 1
  let ranks := v.toNat / 2 ^ 53 % 2 ^ 3 + 1
  let region := 32 * (v.toNat / 2 ^ 18 % 2 ^ 12)
  let output := 32 * (v.toNat / 2 ^ 30 % 2 ^ 12)
  let inside (first len : Nat) : Prop := 0x4800 ≤ first ∧ first + len ≤ 0x18000 ∧ (ordered = true → first + len ≤ 0x17000)
  inside region (tokens * ranks * row) ∧ inside output (tokens * row) ∧
  (region + tokens * ranks * row ≤ output ∨ output + tokens * row ≤ region)

/-- The register that the instruction writes, if it reads the CSR. -/
def CsrRow.write (r : CsrRow) : Reg := if r.does_read then r.rd else 0

/-- The writable bits of the per-thread CSRs whose other bits read 0 (R18, R108, R221, R246). -/
def csrMask : Nat → Option Word
  | 0x001 => some 0x1F
  | 0x002 => some 0x7
  | 0x003 => some 0x1FF
  | 0x805 => some 0xFFFFFFFFFFFFFFFD
  | 0x818 => some 0xFFFFFFFFFFFFFFFF
  | 0x819 => some 0xFFFFFFFFFFFFFFFF
  | 0x820 => some 0xFFFFFFFFFFFFFFFF
  | 0x821 => some 0x3F00001FFF
  | 0x822 => some 0xFFFFFFFFFFFFFFFF
  | 0x828 => some 0x1FF
  | 0x838 => some 0x1
  | 0x841 => some 0xFFFFFFFFFFFFFFFF
  | 0x842 => some 0xE000FFFF
  | 0x843 => some 0xFFFFFFFFFFFFFFFF
  | _ => none

/-! ## Traps (R246, R247) -/

/-- UCAUSE of a trap: code, sub, gang, nested, async. -/
def causeWord (code sub : Nat) (gang nested async : Bool) : Word :=
  BitVec.ofNat 64 (code + sub * 2 ^ 8 + gang.toNat * 2 ^ 29 + nested.toNat * 2 ^ 30 + async.toNat * 2 ^ 31)

/-- The thread in its handler, whose first instruction issues in a later cycle. -/
def Thread.trapped (t : Thread) (code sub : Nat) (utval : Word) (async : Bool) : Thread :=
  { t with
    uepc := t.pc
    ucause := causeWord code sub t.gang.isSome t.handler async
    utval
    handler := true
    checker := { t.checker with suspended := true }
    pc := BitVec.ofNat 64 (t.utvec.toNat / 4 * 4)
    park := .none
    fetched := none
    hold := max t.hold 1
    gang := none }

/-- The trap enters the thread's handler: UTVEC.en is set. -/
structure Enters (s : State) (t : Thread) : Prop where
  cur : s.cur? = some t
  enabled : t.utvec.getLsbD 0 = true

/-- The gang that the executing thread leads, if it leads one, broken (R47). -/
def State.alone (s : State) (t : Thread) : State := if t.gang.isSome then s.breakGang s.curCore else s

/-- The executing thread at its handler's first instruction. -/
def State.enters (s : State) (t : Thread) (code sub : Nat) (utval : Word) (async : Bool) : State :=
  (s.alone t).setCur (t.trapped code sub utval async)

/-! ## What an instruction does once it issues -/

/-- The state that an act of the executing thread leaves: a trap in place of the instruction, a wait, or its effect, with
the queue words that it has read popped. -/
def Act.leaves (a : Act) (s : State) (t : Thread) (reads : List Reg) : State :=
  match a with
  | .trap cause utval => s.trap cause utval
  | .notReady cause => s.retry t cause
  | .go f => f (s.popPorts t reads)

/-- An instruction's registers, whether it is irreversible (R136), and its act. -/
structure ActRow where
  reads : List Reg := []
  write : Reg := 0
  once : Bool := true
  act : State → Thread → Act

/-- A trap if there is one, else the act. -/
def orTrap (trap : Option (Nat × Word)) (a : Act) : Act :=
  match trap with
  | some (cause, utval) => .trap cause utval
  | none => a

/-- An act that waits unless a condition holds. -/
def whenReady (ready : Bool) (cause : Nat) (f : State → State) : Act := if ready then .go f else .notReady cause

/-- The same for an act that may be a trap. -/
def onceReady (ready : Bool) (cause : Nat) (a : Act) : Act := if ready then a else .notReady cause

/-- The executing thread, as it then stands, parks with a request on the way. -/
def State.park (s : State) (cause : Nat) (w : Wait) (kind : Thread → Kind)
    (after : Thread → List Nat := fun _ => []) : State :=
  match s.cur? with
  | some u => (s.setCur { u with park := .await cause w }).send { s.packetOf u (kind u) with after := after u }
  | none => s

/-- The executing thread parks. -/
def State.waitFor (s : State) (cause : Nat) (w : Wait) : State :=
  match s.cur? with
  | some u => s.setCur { u with park := .await cause w }
  | none => s

/-! ## Threads: migration, gangs, ends, signatures, checkpoints (R160-R163, R65, R45, R173, R189-R192) -/

/-- The executing thread parks to depart for a core (R42), unless the core is out of its reach or it leads a gang. -/
def State.departs (s : State) (t : Thread) (form : MigrForm) (dest : Nat) (operand : Word) : Act :=
  orTrap (if dest ≠ s.curCore ∧ s.reachable t.ctx dest = false then some (11, operand)
    else if t.gang.isSome then some (12, 0) else none)
    (.go fun s' => s'.waitFor 13 (.migrate form dest))

/-- `migr.s`, `migr.l` and `migr.h`. -/
def migrationRow (a : Reg) (form : MigrForm) : ActRow :=
  { reads := [a]
    act := fun s t =>
      let x := s.readg t [] a
      if 2 ^ 16 ≤ x.toNat then .trap 11 x else s.departs t form x.toNat x }

/-- `texit` and `tretry`: they wait for the commands of a gang that the thread leads, and disband it; a checker that awaits a
block signature, or a bad block, is a silent error. -/
def endRow (bad : State → Thread → Bool) (f : State → Thread → State) : ActRow :=
  { once := false
    act := fun s t => whenReady (!(t.gang.isSome && s.gangBusy s.curCore t)) 11 fun s' =>
      let s' := s'.alone t
      if s'.checking t && bad s' t then s'.silentError t.ctx s'.curCore else f s' t }

def threadRow : Instr → Option ActRow
  | .migrS a => some (migrationRow a .short)
  | .migrL a => some (migrationRow a .long)
  | .migrH a => some (migrationRow a .hatbox)
  | .migrA a => some
      { reads := [a]
        act := fun s t =>
          let x := s.readg t [] a
          match s.reach t.ctx s.curCore x {} with
          | .bad => .trap 11 x
          | .miss => .go fun s' => s'.park 12 (.translate .migrA x) fun _ => .tlbMiss x .migrA
          | .target (.local c _) => s.departs t .hatbox c x
          | .target (.phys pa) =>
            match s.home pa with
            | some c => s.departs t .hatbox c x
            | none => .trap 11 x }
  | .ldf rd a imm => some
      { reads := [a], write := rd
        act := fun s t =>
          let x := wide ((s.readg t [] a).toInt + imm.toInt)
          orTrap (s.accessTrap t.ctx s.curCore x 8 false)
            (match s.window t.ctx s.curCore x with
            | .store c off =>
              if c = s.curCore then .go fun s' => s'.onCur fun u => s'.loadOwn u off 8 (.g rd 8 false)
              else if t.gang.isSome then .trap 12 0
              else if (s.core c).sealed then .trap 19 x
              else .go fun s' => s'.waitFor 13 (.migrate .ldf c)
            | _ => .trap 4 x) }
  | .gang rd a => some
      { reads := [a], write := rd
        act := fun s t =>
          let n := s.readg t [] a
          let code := s.gangCode s.curCore s.curSlot t n
          .go fun s' => (if code = 0 then s'.formGang s'.curCore n.toNat else s').finish rd (wide code) }
  | .ungang => some
      { act := fun s t => whenReady (!(t.gang.isSome && s.gangBusy s.curCore t)) 11 fun s' => (s'.alone t).done }
  | .texit => some (endRow (fun s t => t.checker.pending || s.badBlock t) fun s t => s.exitThread s.curCore s.curSlot t)
  | .tretry => some (endRow (fun _ t => t.checker.pending) fun s t => s.endThread s.curCore s.curSlot t 2 0)
  | .bsig n => some
      { once := false
        act := fun _ t => .go fun s' =>
          if s'.checking t then
            if s'.badSig t n.toNat then s'.silentError t.ctx s'.curCore
            else s'.onThread s'.curCore s'.curSlot fun u =>
              { u with pc := u.pc + 4, park := .none, fetched := none, checker := { u.checker with fold := 0, cur := some n.toNat, pending := false } }
          else s'.done }
  | .ckpt n => some
      { act := fun _ t => .go fun s' => if s'.takesCkpt t n.toNat then s'.waitFor 15 (.checkpoint n.toNat) else s'.done }
  | _ => none

/-! ## Tasks, groups, iterations (R54, R63, R67, R171, R174, R175) -/

/-- An access to an object that may miss the TLB: its checks, then a fill, or what it does at its target; peer memory serves
none. -/
def State.atObject (s : State) (t : Thread) (x : Word) (trap : Option (Nat × Word)) (need : Need) (acc : Access)
    (f : Target → Act) : Act :=
  orTrap trap
    (match s.reach t.ctx s.curCore x need with
    | .target tgt => if s.peerTarget tgt then .trap 4 x else f tgt
    | .miss => .go fun s' => s'.park 12 (.translate acc x) fun _ => .tlbMiss x acc
    | .bad => .trap 4 x)

/-- The executing thread parks for the home's reply, behind the entries of its core that overlap the object and what it
releases. -/
def State.asksHome (s : State) (cause : Nat) (dest : Dest) (tgt : Target) (n : Nat) (release : Bool) (kind : Kind) : State :=
  s.park cause (.data dest) (fun _ => kind) fun u =>
    (s.overlapping s.curCore tgt n).map (fun p => p.id) ++ if release then s.fenced u else []

def groupRow (op : GroupOp) (a : Reg) : ActRow :=
  { reads := [a]
    act := fun s t =>
      let x := s.readg t [] a
      s.atObject t x (s.objectTrap t.ctx s.curCore x 64) { write := true } (.group op) fun tgt =>
        .go fun s' => s'.asksHome (if op = .bar then 8 else 3) .none tgt 64 (op = .bar) (.group tgt op x) }

/-- The chunk of iterations of the thread (R67): the extents, the next index and the end. -/
def Thread.nest (t : Thread) : Nat × Nat × Nat × Nat :=
  (t.itcur.toNat / 2 ^ 40, t.itend.toNat / 2 ^ 40, t.itcur.toNat % 2 ^ 40, t.itend.toNat % 2 ^ 40)

/-- The coordinates of the next iteration in gx, gx + 1 and gx + 2, and the index advanced. -/
def Thread.iterated (t : Thread) (x : Reg) : Thread :=
  let (nx, ny, i, _) := t.nest
  { ((t.setG x (wide (i % nx : Nat))).setG (x + 1) (wide (i / nx % ny : Nat))).setG (x + 2) (wide (i / (nx * ny) : Nat)) with
    itcur := wide (nx * 2 ^ 40 + (i + 1) % 2 ^ 40 : Nat) }

def taskRow : Instr → Option ActRow
  | .tspawn rd a => some
      { reads := [a], write := rd
        act := fun s t =>
          let x := s.readg t [] a
          s.atObject t x (s.tcbTrap t.ctx s.curCore x) {} (.spawn rd) fun tgt =>
            match tgt with
            | .phys pa => .go fun s' => s'.asksHome 3 (.g rd 8 false) tgt 64 false (.spawn x pa (coveOf s'.curCore))
            | .local _ _ => .trap 14 x }
  | .tdec a => some
      { reads := [a]
        act := fun s t =>
          let x := s.readg t [] a
          if s.bufferBusy s.curCore then orTrap (s.tcbTrap t.ctx s.curCore x) (.notReady 14)
          else s.atObject t x (s.tcbTrap t.ctx s.curCore x) {} .dec fun tgt =>
            match tgt with
            | .phys pa => whenReady (!s.missesOver s.curCore (.phys (pa + 48)) 8) 14 fun s' => s'.onCur fun u =>
                (s'.send { s'.packetOf u (.dec x (some pa) (coveOf s'.curCore)) with
                  buffered := true, broadcast := u.broadcasts s'.curCore x
                  after := (s'.overlapping s'.curCore tgt 64).map (fun p => p.id) ++ s'.fenced u }).done
            | .local _ _ => .trap 14 x }
  | .twait rd a => some
      { reads := [a], write := rd
        act := fun s t =>
          let x := s.readg t [] a
          s.atObject t x (s.tcbTrap t.ctx s.curCore x) {} (.wait rd) fun tgt =>
            match tgt with
            | .phys pa => .go fun s' => s'.asksHome 8 (.g rd 8 false) tgt 64 false (.taskWait x pa)
            | .local _ _ => .trap 14 x }
  | .gjoin a => some (groupRow .join a)
  | .gleave a => some (groupRow .leave a)
  | .gbar a => some (groupRow .bar a)
  | .itclaim rd a => some
      { reads := [a], write := rd
        act := fun s t =>
          let x := s.readg t [] a
          s.atObject t x (s.objectTrap t.ctx s.curCore x 32) { write := true } (.claim rd) fun tgt =>
            .go fun s' => s'.asksHome 3 (.g rd 8 false) tgt 32 false (.claim tgt x) }
  | .itnext x imm => some
      { once := false
        act := fun _ t =>
          let (nx, ny, i, e) := t.nest
          if i = e then .go fun s' => s'.goTo (t.away imm.toInt)
          else if nx = 0 ∨ ny = 0 then .trap 2 t.itcur
          else .go fun s' => (s'.onThread s'.curCore s'.curSlot fun u => u.iterated x).goTo (t.pc + 4) }
  | _ => none

/-! ## Messages (R165-R167) -/

/-- The message of the executing thread sent and its thread parked until it is accepted or refused (R23). -/
def State.sends (s : State) (tid tag : Word) (payload : List Word) : State :=
  s.park 5 (.message tid) (fun u => .message tid.toNat { core := s.curCore, slot := s.curSlot, uid := u.uid, payload
                                                         header := wide (tag.toNat / 2 ^ 32 * 2 ^ 32 + payload.length * 2 ^ 20 + s.curTid : Nat) })
    s.fenced

def messageRow : Instr → Option ActRow
  | .msend rd a b n => some
      { reads := [a, b, rd]
        act := fun s t =>
          let tid := s.readg t [] a
          orTrap (s.tidTrap t tid)
            (.go fun s' => s'.sends tid (s.readg t [a] b) ((upFrom rd.toNat (n.toNat + 1)).map fun r => t.getG (BitVec.ofNat 5 r))) }
  | .msendr rd a b => some
      { reads := [a, b, rd]
        act := fun s t =>
          let tid := s.readg t [] a
          let tag := s.readg t [a] b
          let x := s.readg t [a, b] rd
          let n := tag.toNat % 16
          orTrap (s.tidTrap t tid)
            (if tag.toNat % 2 ^ 32 ≠ n ∨ n = 0 ∨ 8 < n then .trap 2 tid
            else if x.toNat % 8 ≠ 0 then .trap 3 x
            else if x.toNat < 0x800 ∨ 0x18000 < x.toNat + 8 * n ∨ s.specOff t.ctx x.toNat (8 * n) then .trap 4 x
            else .go fun s' => s'.readWords t.ctx ((upFrom 0 n).map fun k => x.toNat + 8 * k) [] fun ws s'' =>
              s''.sends tid tag ws) }
  | .mpoll rd => some
      { write := rd
        act := fun s t =>
          if s.queues.rx.en = false then .trap 10 28
          else
            match s.queues.msgs with
            | [] => .go fun s' => s'.finish rd 0
            | (_, false) :: _ => .go fun s' => s'.readLocal t.ctx (s.queues.rx.offset 0) 8 fun w s'' => s''.finish rd w
            | (_, true) :: _ => .go fun s' =>
                ({ s' with free := s'.free + 1 } : State).finish rd (Config.freeWord s'.free) }
  | _ => none

/-! ## The key map (R32-R37, R168, R169) -/

/-- R34: the result word of a map instruction. -/
def statusWord (status slot pin : Nat) : Word := wide (slot + 2 ^ 8 * status + 2 ^ 16 * pin : Nat)

/-- A map step answers with a status, leaves the entries given, wakes the waiters on a slot or for an unpin, and changes nothing
else of the core. -/
structure MapStep.Gives (m : MapStep) (k : Core) (status slot pin : Nat) (entries : Nat → KEntry) (wakes : Option Nat := none)
    (unpins : Bool := false) : Prop where
  word : m.word = statusWord status slot pin
  entries : ∀ j, j < 64 → m.core.entry j = entries j
  rest : { m.core with kmap := k.kmap } = k
  wakes : m.slot = wakes
  unpins : m.unpin = unpins

/-- An entry of the map changed. -/
def Core.entriesWith (k : Core) (i : Nat) (e : KEntry) (j : Nat) : KEntry := if j = i then e else k.entry j

/-- R36: an entry i whose age becomes 0, changed besides; every other BOUND entry is one older, up to 255. -/
def Core.entriesAged (k : Core) (i : Nat) (e : KEntry) (j : Nat) : KEntry :=
  if j = i then { e with age := 0 }
  else if (k.entry j).state = .bound then { k.entry j with age := min 255 ((k.entry j).age + 1) } else k.entry j

/-- The first entry of the first n that is PENDING or BOUND with a key. -/
structure Core.Holds (k : Core) (n : Nat) (key : Word) (i : Nat) : Prop where
  inside : i < n
  used : (k.entry i).state ≠ .free
  keyed : (k.entry i).key = key
  first : ∀ j, j < i → (k.entry j).state = .free ∨ (k.entry j).key ≠ key

/-- R36: the entry of the first n that `kvict` names while none is FREE. -/
structure Core.Oldest (k : Core) (n i : Nat) : Prop where
  inside : i < n
  bound : (k.entry i).state = .bound
  unpinned : (k.entry i).pin = 0
  oldest : ∀ j, j < n → (k.entry j).state = .bound → (k.entry j).pin = 0 →
    (k.entry j).age < (k.entry i).age ∨ (k.entry j).age = (k.entry i).age ∧ i ≤ j

/-- No entry of the first n holds the key. -/
def Core.lacks (k : Core) (n : Nat) (key : Word) : Prop := ∀ j, j < n → (k.entry j).state = .free ∨ (k.entry j).key ≠ key

/-- A map instruction: while the map is disabled it raises ILLEGAL_CONFIG with KMAPCFG in UTVAL. -/
def mapRow (reads : List Reg) (rd : Reg) (f : State → Thread → Core → Nat → MapStep) : ActRow :=
  { reads, write := rd
    act := fun s t =>
      if s.here.kmapcfg.getLsbD 31 = false then .trap 2 s.here.kmapcfg
      else .go fun s' => s'.applyMap rd (f s t s'.here (s'.here.kmapcfg.toNat / 2 ^ 16 % 2 ^ 7)) }

def keyRow : Instr → Option ActRow
  | .klook rd a => some (mapRow [a] rd fun s t k n => k.look n (s.readg t [] a) false)
  | .klookP rd a => some (mapRow [a] rd fun s t k n => k.look n (s.readg t [] a) true)
  | .klookC rd a b => some (mapRow [a, b] rd fun s t k n => k.claim n (s.readg t [] a) (s.readg t [a] b) s.curTid)
  | .kbind rd b => some (mapRow [b] rd fun s t k n => k.bind n (s.readg t [] b) s.curTid)
  | .kabandon rd b => some (mapRow [b] rd fun s t k n => k.abandon n (s.readg t [] b) s.curTid)
  | .kpin rd b => some (mapRow [b] rd fun s t k n => k.pinSlot n (s.readg t [] b))
  | .kunpin rd b => some (mapRow [b] rd fun s t k n => k.unpinSlot n (s.readg t [] b))
  | .kunbind rd b => some (mapRow [b] rd fun s t k n => k.unbindSlot n (s.readg t [] b))
  | .kvict rd => some (mapRow [] rd fun _ _ k n => k.victim n)
  | .kwait rd b => some
      { reads := [b], write := rd
        act := fun s t =>
          let j := (s.readg t [] b).toNat
          if s.here.kmapcfg.getLsbD 31 = false then .trap 2 s.here.kmapcfg
          else .go fun s' =>
            let e := s'.here.entry j
            if s'.here.kmapcfg.toNat / 2 ^ 16 % 2 ^ 7 ≤ j then s'.finish rd (statusWord 12 0 0)
            else
              match e.state with
              | .pending => s'.waitFor 6 (.kwait rd j)
              | .bound => s'.finish rd (statusWord 0 j e.pin)
              | .free => s'.finish rd (statusWord 1 0 0) }
  | .kwaitU rd => some
      { write := rd
        act := fun s _ =>
          if s.here.kmapcfg.getLsbD 31 = false then .trap 2 s.here.kmapcfg else .go fun s' => s'.waitFor 6 (.kwaitU rd) }
  | _ => none

/-! ## Counters, full-empty words, copies (R176-R186) -/

/-- A counter of the executing core changed. -/
def State.onCounter (s : State) (n : BitVec 5) (f : Counter → Counter) : State :=
  s.setCounter s.curCore n.toNat (f (s.here.counter n.toNat))

def counterRow : Instr → Option ActRow
  | .acpost a n => some
      { reads := [a]
        act := fun s t => .go fun s' => ((s'.onCounter n fun v => { v with
          expected := (s.readg t [] a).toNat % 2 ^ 32, posted := true, overrun := false, done := none }).settleCounter
            s'.curCore n.toNat).done }
  | .acadd a b => some
      { reads := [a, b]
        act := fun s t =>
          let name := s.readg t [] a
          let amount := (s.readg t [a] b).toNat % 2 ^ 32
          let core := name.toNat / 32 % 2 ^ 16
          orTrap (s.nameTrap t name)
            (if core = s.curCore then .go fun s' => (s'.addCounter core (name.toNat % 32) amount).done
            else whenReady (!s.bufferBusy s.curCore) 14 fun s' =>
              (s'.send { s'.packetOf t (.counter core (name.toNat % 32) amount) with buffered := true }).done) }
  | .acwait rd n => some
      { write := rd
        act := fun _ _ => .go fun s' =>
          match (s'.here.counter n.toNat).done with
          | some x => (s'.onCounter n fun v => { v with done := none }).finish rd (wide x)
          | none => s'.waitFor 7 (.counter rd n.toNat) }
  | .actrig a n => some
      { reads := [a]
        act := fun s t =>
          let x := s.readg t [] a
          s.atObject t x (s.tcbTrap t.ctx s.curCore x) {} (.trigger n.toNat) fun _ =>
            .go fun s' => (s'.onCounter n fun v => { v with armed := true, trigger := x, trigCtx := t.ctx }).done }
  | .acread rd n => some
      { write := rd
        act := fun _ _ => .go fun s' =>
          let v := s'.here.counter n.toNat
          s'.finish rd (wide (v.count + v.posted.toNat * 2 ^ 32 + v.overrun.toNat * 2 ^ 33 + v.armed.toNat * 2 ^ 34 : Nat)) }
  | _ => none

/-- `ldsync` and `ldsync.c`: the thread joins the waiters of a word of its own core, or asks another core. -/
def syncRow (rd a : Reg) (imm : BitVec 12) (consume : Bool) : ActRow :=
  { reads := [a], write := rd
    act := fun s t =>
      let x := wide ((s.readg t [] a).toInt + imm.toInt)
      orTrap (s.accessTrap t.ctx s.curCore x 8 false)
        (match s.window t.ctx s.curCore x with
        | .store c off => .go fun s' =>
          if c = s'.curCore then (s'.waitFor 10 (.data (.g rd 8 false))).syncAt t.ctx c (off / 8) consume c s'.curSlot t.uid
          else s'.park 10 (.data (.g rd 8 false)) (fun _ => .remoteSync c off consume x) fun _ =>
            (s'.overlapping s'.curCore (.local c off) 8).map fun p => p.id
        | _ => .trap 4 x) }

/-- Words of the executing core marked: 64 in the issue cycle, and as many in each cycle that follows, for which the thread is not
ready (R181). -/
def State.marksOwn (s : State) (first words : Nat) (full : Bool) : State :=
  let left : Option FeRest :=
    if 64 < words then some { next := first + 64, left := words - 64, set := full, issued := s.tick } else none
  ((s.onThread s.curCore s.curSlot fun t => { t with range := left }).markWords s.curCore first (min 64 words) full).done

/-- `feset` and `feclr`. -/
def markRow (a b : Reg) (full : Bool) : ActRow :=
  { reads := [a, b]
    act := fun s t =>
      let x := s.readg t [] a
      let len := (s.readg t [a] b).toNat
      orTrap (s.feTrap t x (s.readg t [a] b))
        (match s.window t.ctx s.curCore x with
        | .store c off => .go fun s' =>
          if c = s'.curCore then s'.marksOwn (off / 8) (len / 8) full
          else if len = 0 then s'.done
          else s'.park 3 (.data .none) fun _ => .remoteFe c (off / 8) (len / 8) full x false
        | _ => .trap 4 x) }

/-- A copy: room in the engine's queue of 8, its checks, then an entry. -/
def copyRow (a b c : Reg) (tk : Option Reg) (form : CopyForm) : ActRow :=
  { reads := [a, b, c] ++ tk.toList
    act := fun s t =>
      let d := s.readg t [] a
      let src := s.readg t [a] b
      let len := s.readg t [a, b] c
      let tcb := match tk with
        | some r => s.readg t [a, b, c] r
        | none => 0
      onceReady (s.here.copyq.length < 8) 11
        (orTrap (s.copyTrap t form d src len tcb) (.go fun s' => (s'.setHere { s'.here with copyq := s'.here.copyq ++ [{
          ctx := t.ctx, core := s.curCore, slot := s.curSlot, uid := t.uid, cove := coveOf s.curCore, dst := d, src
          len := len.toNat, signal := s.copySignal t form d tcb, issued := s.issueOf t }] }).done)) }

def syncCopyRow : Instr → Option ActRow
  | .ldsync rd a imm => some (syncRow rd a imm false)
  | .ldsyncC rd a imm => some (syncRow rd a imm true)
  | .feset a b => some (markRow a b true)
  | .feclr a b => some (markRow a b false)
  | .copy a b c => some (copyRow a b c none .plain)
  | .copyFe a b c => some (copyRow a b c none .fe)
  | .copyAc a b c n => some (copyRow a b c none (.ac n))
  | .copyTk a b c rd => some (copyRow a b c (some rd) .tk)
  | _ => none

/-! ## Vector commands (R194, R201-R217) -/

/-- A vector instruction: its registers, a check of its own, how many values it draws in stochastic mode if it rounds, the
command that each member of a gang receives, and the wait of its thread, if it waits. -/
structure VectorRow where
  reads : List Reg := []
  write : Reg := 0
  trap : Thread → Option (Nat × Word) := fun _ => none
  draws : Thread → Option Nat := fun _ => none
  op : State → Thread → Nat → List (BitVec 16) → Nat → VOp
  waits : Option (Nat × (Thread → Nat → Wait)) := none

/-- The size of the gang that a thread leads; 1 without one. -/
def Thread.members (t : Thread) : Nat := t.gang.getD 1

/-- The command placed, and the instruction ended or its thread parked for the result. -/
def VectorRow.place (r : VectorRow) (s s' : State) (t : Thread) (mode : Nat) (draws : List (BitVec 16)) : State :=
  let placed := s'.pushVector t (r.op s t mode draws)
  match r.waits with
  | some (cause, w) => placed.waitFor cause (w t s'.serial)
  | none => placed.done

/-- Room in the queues of 8 entries, then its check, then the rounding mode, then its effect. -/
def VectorRow.act (r : VectorRow) (s : State) (t : Thread) : Act :=
  onceReady (s.vectorRoom s.curCore t) 11 <| orTrap (r.trap t)
    (match r.draws t with
    | none => .go fun s' => r.place s s' t 0 []
    | some n =>
      match t.modeOf 7 with
      | none => .trap 1 (t.iword.zeroExtend 64)
      | some mode => .go fun s' =>
          r.place s (s'.onThread s'.curCore s'.curSlot fun u => { u with srseed := (t.drawFor mode n).2.srseed }) t mode
            (t.drawFor mode n).1)

/-- A thread's wait for the result of a command; SRSEED as it was stands by (R197). -/
def resultOf (dest : Dest) (t : Thread) (serial : Nat) : Wait := .vector dest serial t.srseed

/-- A command without operands of its thread. -/
def plainCommand (op : VOp) : VectorRow := { op := fun _ _ _ _ _ => op }

/-- A command with a g operand. -/
def scalarCommand (a : Reg) (op : Word → VOp) : VectorRow := { reads := [a], op := fun s t _ _ _ => op (s.readg t [] a) }

/-- A command that rounds n elements for each member; member j uses its share of the draws. -/
def roundingCommand (n : Nat) (op : Thread → Nat → List (BitVec 16) → VOp) : VectorRow :=
  { draws := fun t => some (n * t.members), op := fun _ t mode draws j => op t mode ((draws.drop (j * n)).take n) }

/-- An integer command on elements of 8, 16, 32 or 64 bits. -/
def laneCommand (op : Nat) (vd v1 v2 : Reg) (w : BitVec 2) : VectorRow := plainCommand (.int op (8 * 2 ^ w.toNat) vd v1 v2)

/-- A rounding FP command on the elements of a format. -/
def fpCommand (op : Nat) (vd v1 v2 : Reg) (fmt : BitVec 2) : VectorRow :=
  roundingCommand (256 / widthOf fmt.toNat) fun _ mode draws => .fp op fmt.toNat mode draws vd v1 v2

def vectorRow : Instr → Option VectorRow
  | .vadd vd a b w => some (laneCommand 0 vd a b w)
  | .vsub vd a b w => some (laneCommand 1 vd a b w)
  | .vmul vd a b w => some (laneCommand 2 vd a b w)
  | .vand vd a b w => some (laneCommand 3 vd a b w)
  | .vor vd a b w => some (laneCommand 4 vd a b w)
  | .vxor vd a b w => some (laneCommand 5 vd a b w)
  | .vsll vd a b w => some (laneCommand 6 vd a b w)
  | .vsrl vd a b w => some (laneCommand 7 vd a b w)
  | .vsra vd a b w => some (laneCommand 8 vd a b w)
  | .vmin vd a b w => some (laneCommand 9 vd a b w)
  | .vmax vd a b w => some (laneCommand 10 vd a b w)
  | .vminu vd a b w => some (laneCommand 11 vd a b w)
  | .vmaxu vd a b w => some (laneCommand 12 vd a b w)
  | .vfadd vd a b fmt => some (fpCommand 0 vd a b fmt)
  | .vfsub vd a b fmt => some (fpCommand 1 vd a b fmt)
  | .vfmul vd a b fmt => some (fpCommand 2 vd a b fmt)
  | .vfma vd a b fmt => some (fpCommand 3 vd a b fmt)
  | .vfmin vd a b fmt => some (plainCommand (.fp 4 fmt.toNat 0 [] vd a b))
  | .vfmax vd a b fmt => some (plainCommand (.fp 5 fmt.toNat 0 [] vd a b))
  | .vaddm vd a b => some (plainCommand (.modular 0 vd a b))
  | .vsubm vd a b => some (plainCommand (.modular 1 vd a b))
  | .vmulm vd a b => some (plainCommand (.modular 2 vd a b))
  | .vmont vd a b => some (plainCommand (.modular 3 vd a b))
  | .vbfly vd a => some (plainCommand (.bfly false vd a))
  | .vbflyi vd a => some (plainCommand (.bfly true vd a))
  | .vqset a b => some (plainCommand (.qset a b))
  | .vpermBf vd a k => some
      { trap := fun t => if 4 * t.members ≤ 2 ^ k.toNat then some (2, wide k.toNat) else none
        op := fun _ _ _ _ _ => .perm k.toNat vd a }
  | .vmvx rd a n => some
      { write := rd, op := fun _ _ _ _ _ => .mvx n.toNat rd a, waits := some (11, resultOf (.g rd 8 false)) }
  | .vins vd a n => some (scalarCommand a fun x => .ins n.toNat x vd)
  | .vbcast vd a => some (scalarCommand a fun x => .bcast x vd)
  | .vredsumS fd a => some
      { draws := fun t => some (8 * t.members - 1), op := fun _ _ mode draws _ => .redsum mode draws fd a
        waits := some (11, resultOf (.f fd)) }
  | .vredmaxS fd a => some { op := fun _ _ _ _ _ => .redmax fd a, waits := some (11, resultOf (.f fd)) }
  | .vcmpeqS vd a b => some (plainCommand (.cmp 0 vd a b))
  | .vcmpltS vd a b => some (plainCommand (.cmp 1 vd a b))
  | .vcmpleS vd a b => some (plainCommand (.cmp 2 vd a b))
  | .vsel vd a b => some (plainCommand (.sel vd a b))
  | .vld vd a imm => some (scalarCommand a fun x => .load (wide (x.toInt + imm.toInt)) vd)
  | .vst a vs imm => some (scalarCommand a fun x => .store (wide (x.toInt + imm.toInt)) vs)
  | .vcvt vd a dst src part => some
      (if neverRounds dst.toNat src.toNat then
        { op := fun _ t _ _ _ => .cvt dst.toNat src.toNat part.toNat 0 t.sat [] vd a }
      else roundingCommand (256 / max (widthOf dst.toNat) (widthOf src.toNat)) fun t mode draws =>
        .cvt dst.toNat src.toNat part.toNat mode t.sat draws vd a)
  | .vsfu vd a op => some { op := fun _ _ _ _ _ => .sfu op.toNat vd a, waits := some (9, fun _ => .sfu) }
  | .gathb a vs => some
      { reads := [a], op := fun s t _ _ _ => .gather (s.readg t [] a) t.gbase t.gblk (wide (t.gbound.toNat % 2 ^ 48 : Nat)) vs }
  | .vquant a vs => some (scalarCommand a fun x => .quant x vs)
  | .vdquant vd a => some (scalarCommand a fun x => .dquant x vd)
  | _ => none

/-! ## Matrix commands (R222, R227-R244) -/

/-- A matrix instruction: the g registers it reads, a check, whether it rounds, and its command. -/
structure MatrixRow where
  reads : List Reg := []
  trap : State → Thread → Option (Nat × Word) := fun _ _ => none
  rounds : Bool := false
  op : State → Thread → Nat → List (BitVec 16) → MOp

/-- Room in the queues that MPRI chooses, then its check, then the rounding mode, then the command; one that rounds draws 256
values in stochastic mode. -/
def MatrixRow.act (r : MatrixRow) (s : State) (t : Thread) : Act :=
  onceReady (s.matrixRoom s.curCore t) 11 <| orTrap (r.trap s t)
    (if r.rounds then
      match t.modeOf 7 with
      | none => .trap 1 (t.iword.zeroExtend 64)
      | some mode => .go fun s' =>
          ((s'.onThread s'.curCore s'.curSlot fun u => { u with srseed := (t.drawFor mode 256).2.srseed }).pushMatrix t
            (r.op s t mode (t.drawFor mode 256).1)).done
    else .go fun s' => (s'.pushMatrix t (r.op s t 0 [])).done)

/-- `mma`: 1 to 16 rows. -/
def multiplyCommand (fa fw : Nat) (acc a b : Reg) (f : Thread → BitVec 32) : MatrixRow :=
  { reads := [a, b]
    trap := fun s t => let rows := s.readg t [a] b; if rows = 0 ∨ 16 < rows.toNat then some (2, rows) else none
    op := fun s t _ _ => .mma fa fw acc.toNat (s.readg t [] a) (s.readg t [a] b) (f t) }

/-- `topk`: a row of 1 to 256 values and not fewer than k. -/
def topkCommand (e : Nat) (count : Bool) (a b : Reg) (k : BitVec 5) : MatrixRow :=
  { reads := [a, b]
    trap := fun _ t =>
      let n := t.tkn.toNat % 2 ^ 9
      if n = 0 ∨ 256 < n ∨ n < k.toNat then some (2, t.tkn) else none
    op := fun s t _ _ => .topk e count k.toNat (t.tkn.toNat % 2 ^ 9) (s.readg t [] a) (s.readg t [a] b) }

/-- `comb.put`: an enabled configuration, a rank below its k and a token below its count. -/
def putCommand (bf : Bool) (a b c : Reg) (rank : BitVec 5) : MatrixRow :=
  { reads := [a, b]
    trap := fun s t => putTrap t.cmbcfg rank.toNat (s.readg t [] a)
    op := fun s t _ _ => .put bf rank.toNat (s.readg t [] a) (s.readg t [a] b) (t.getF c) t.cmbcfg }

def matrixRow : Instr → Option MatrixRow
  | .mldw a fmt => some { reads := [a], op := fun s t _ _ => .ldw fmt.toNat (s.readg t [] a) }
  | .mswap => some { op := fun _ _ _ _ => .swap }
  | .mzero acc => some { op := fun _ _ _ _ => .zero acc.toNat }
  | .mmaE43E43 acc a b c => some (multiplyCommand 3 3 acc a b fun t => t.getF c)
  | .mmaE43E52 acc a b c => some (multiplyCommand 3 4 acc a b fun t => t.getF c)
  | .mmaE52E43 acc a b c => some (multiplyCommand 4 3 acc a b fun t => t.getF c)
  | .mmaE52E52 acc a b c => some (multiplyCommand 4 4 acc a b fun t => t.getF c)
  | .mmaE21xE21x acc a b c => some (multiplyCommand 7 7 acc a b fun t => t.getF c)
  | .mmaE43E21x acc a b c => some (multiplyCommand 3 7 acc a b fun t => t.getF c)
  | .mmaBfBf acc a b c => some (multiplyCommand 1 1 acc a b fun t => t.getF c)
  | .mmaSS acc a b c => some (multiplyCommand 0 0 acc a b fun t => t.getF c)
  | .mmaI8I8 acc a b => some (multiplyCommand 5 5 acc a b fun t => t.getF 0)
  | .mrd acc a fmt => some
      { reads := [a], rounds := mrdRounds fmt.toNat
        op := fun s t mode draws => .read fmt.toNat acc.toNat (s.readg t [] a) mode t.sat draws }
  | .mrdExp acc a b => some { reads := [a], op := fun s t _ _ => .readExp acc.toNat (s.readg t [] a) (t.getF b) }
  | .mrmax acc a => some { reads := [a], op := fun s t _ _ => .rowMax acc.toNat (s.readg t [] a) }
  | .mtmask acc a b c => some
      { reads := [a, b], op := fun s t _ _ => .mask acc.toNat (s.readg t [] a) (s.readg t [a] b) (t.getF c) }
  | .mrot a => some
      { reads := [a], trap := fun s t => s.rotTrap s.curCore t (s.readg t [] a), op := fun s t _ _ => .rot (s.readg t [] a) }
  | .topkS a b k => some (topkCommand 32 false a b k)
  | .topkSC a b k => some (topkCommand 32 true a b k)
  | .topkBf a b k => some (topkCommand 16 false a b k)
  | .topkBfC a b k => some (topkCommand 16 true a b k)
  | .rcsnap a => some { reads := [a], op := fun s t _ _ => .snap (s.readg t [] a) }
  | .combPutS a b c rank => some (putCommand false a b c rank)
  | .combPutBf a b c rank => some (putCommand true a b c rank)
  | _ => none

/-! ## Fences of the units and remote commands (R197, R198, R236-R238) -/

def unitRow : Instr → Option ActRow
  | .vfence => some
      { act := fun s t =>
          if s.vectorBusy s.curCore t then .notReady 11
          else if t.vdpend then .go fun s' => (s'.setCur { t with vdpend := false }).trapAt s'.curCore s'.curSlot
            { cause := 16, utval := t.vdpc, sub := t.vdcode.toNat }
          else if t.gpend then .go fun s' => (s'.setCur { t with gpend := false }).trapAt s'.curCore s'.curSlot
            { cause := 18, utval := t.gpc }
          else .go fun s' => s'.done }
  | .mwait => some
      { act := fun s t =>
          if s.matrixIdle s.curCore t = false then .notReady 11
          else if t.mdpend then .go fun s' => (s'.setCur { t with mdpend := false }).trapAt s'.curCore s'.curSlot
            { cause := 17, utval := t.mdpc, sub := t.mdcode.toNat }
          else .go fun s' => s'.done }
  | .mcmd a b => some
      { reads := [a, b]
        act := fun s t =>
          let x := s.readg t [] a
          let d := s.readg t [a] b
          orTrap (s.mcmdTrap t x d)
            (.go fun s' => s'.readWords t.ctx [d.toNat, d.toNat + 8, d.toNat + 16, d.toNat + 24] [] fun ws s'' =>
              (s''.sendCommand t x ws).done) }
  | _ => none

/-! ## Events -/

/-- The event's packet, of a kind, with everything it must follow performed: no core from which its context is vacated keeps it, and what
has waited longer for the same core has gone (R20). -/
structure Brings (s : State) (p : Packet) (k : Kind) : Prop where
  found : s.packet? s.ev.n = some p
  kind : p.kind = k
  clear : s.clear p.after = true
  free : s.keeps p = false
  turn : s.inTurn p = true

/-- The thread that the packet's sender still is. -/
def State.sender? (s : State) (p : Packet) : Option Thread := s.holder? p.core p.slot p.uid

/-- A thread changed in the slot that the packet came from. -/
def State.setSender (s : State) (p : Packet) (t : Thread) : State := s.setThread p.core p.slot t

/-- R343, R345, R346: an aligned 64-bit write to a context's notify page: of TAIL, of CHEAD, or ignored. A page whose context has
not been launched, or has ended, keeps its registers; its queue is not open. -/
def State.writesPage (s : State) (x off : Nat) (v : Word) : State :=
  match s.live? x with
  | some k =>
    if off = 0x00 then
      s.setCtx x (if k.accepts v then { k with tail := v.extractLsb' 0 32 } else { k with ignored := k.ignored + 1 })
    else if off = 0x18 then s.setCtx x { k with chead := v.extractLsb' 0 16 }
    else s
  | none =>
    if off = 0x00 then s.setPage x { s.pageAt x with ignored := (s.pageAt x).ignored + 1 }
    else if off = 0x18 then s.setPage x { s.pageAt x with chead := v.extractLsb' 0 16 }
    else s

/-- The packet turned into a reply with a value. -/
def State.answers (s : State) (p : Packet) (v : Word) : State := s.turnPacket p.id (.reply (.value v))

/-- A packet of the part itself, of no thread. -/
def partPacket (x core slot : Nat) (kind : Kind) : Packet := { id := 0, ctx := x, core, slot, uid := 0, kind }

/-- The queues of a slot. -/
def State.queuesOf (s : State) (c i : Nat) : SlotQueues := (s.slot c i).q

def State.setQueues (s : State) (c i : Nat) (q : SlotQueues) : State := s.setSlot c i { s.slot c i with q }

/-- The next of a core's matrix unit changed. -/
def State.setMatrix (s : State) (c : Nat) (m : Matrix) : State := s.setCore c { s.core c with mx := m }

/-- The mailbox takes a command: none is in progress, the module is powered and booted, its input has the right length. -/
structure TakesCommand (s : State) (length : Nat) : Prop where
  idle : s.mbox.busy = none
  powered : s.powered = true
  booted : s.head.boot = 2
  input : s.ev.bytes.length = length

/-- The output of a command. -/
def State.puts (s : State) (status : Nat) (rest : List Byte := []) : State :=
  { s with mbox := { s.mbox with out := leBytes 4 status ++ rest } }

/-- The vector commands that compute from registers alone, within one member (R201-R209). -/
def computes : VOp → Bool
  | .int _ _ _ _ _ | .fp _ _ _ _ _ _ _ | .modular _ _ _ _ | .bfly _ _ _ | .mvx _ _ _ | .ins _ _ _ | .bcast _ _
  | .cmp _ _ _ _ | .sel _ _ _ => true
  | .perm k _ _ => decide (k < 2)
  | _ => false

/-- A request to the octet's special-function unit. -/
def Kind.isSfuRequest : Kind → Bool
  | .sfuRequest _ _ _ _ _ => true
  | _ => false

/-! ## Scheduling and migration (R17, R39, R42-R44, R59-R61) -/

/-- R17, R18, R39: what a thread carries; every other register and CSR has its value after arrival. -/
def Thread.travels (t : Thread) (form : MigrForm) (uid : Nat) : Thread :=
  { ctx := t.ctx, task := t.task, uid, pc := t.pc, p := t.p, fstat := t.fstat, srseed := t.srseed, utvec := t.utvec
    handler := t.handler, pend := t.pend, checker := t.checker, f := Vector.replicate 32 0
    g := Vector.ofFn fun r => if 1 ≤ r.val ∧ r.val ≤ 16 ∨ 17 ≤ r.val ∧ r.val ≤ 24 ∧ form ≠ .short then t.g.get r else 0 }

/-- R42: the thread of a slot leaves it for a core. It has a new uid; what its stores may still hold back, the words that its engine
commands may read and the remote commands ahead of its own go with it (log entries 14, 47). -/
def State.setsOut (s : State) (c i : Nat) (t : Thread) (form : MigrForm) (dest : Nat) : State :=
  let uid := s.serial
  let thread : Thread := { t.travels form uid with
    loaded := s.fenced t
    leFence := t.leFence
    sent := (s.net.filter fun p => (p.uid = t.uid || t.sent.contains p.id) && p.kind.isCommand).map fun p => p.id }
  let hatbox := if form = .hatbox ∨ form = .ldf then (s.core c).mem.bytes (0x800 + 0x400 * i) 256 else []
  let olds := s.olds.flatMap fun e => if e.uid = t.uid then [e, { e with uid }] else [e]
  (({ s with serial := uid + 1, olds } : State).leave c i).send { partPacket t.ctx c i (.migrate { thread, form, hatbox, dest }) with uid }

/-- R43, R44: a context in a slot: `lsp` at the top of the thread area, the moduli to be reset, the hatbox at its start. -/
def State.lands (s : State) (a : Carried) (c i : Nat) : State :=
  let t := { a.thread with g := a.thread.g.set 25 (wide (0x800 + 0x400 * (i + 1) : Nat)) }
  let placed := s.setThread c i t
  let ready := placed.setCore c { placed.core c with
    vqueue := (placed.core c).vqueue ++ [{ ctx := t.ctx, slot := i, uid := 0, pc := 0, op := .qreset }] }
  if a.form = .hatbox ∨ a.form = .ldf then ready.storeRange t.ctx c (0x800 + 0x400 * i) a.hatbox else ready

/-- R43: the lowest-numbered empty slot of a core below the thread count granted to a context. -/
structure State.Free (s : State) (x c i : Nat) : Prop where
  granted : ∃ k, s.ctx? x = some k ∧ i < k.record.tpc
  empty : (s.slot c i).occ = .empty
  lowest : ∀ j, j < i → (s.slot c j).occ ≠ .empty

/-- No slot of the core is free for the context. -/
def State.noneFree (s : State) (x c : Nat) : Prop :=
  ∀ k, s.ctx? x = some k → ∀ i, i < k.record.tpc → (s.slot c i).occ ≠ .empty

/-- R20, R43, R260: an arriving context goes to the spill area: its core is sealed or vacated by its context, or earlier contexts
wait there for the core. -/
def State.spills (s : State) (a : Carried) : Prop :=
  (s.core a.dest).sealed = true ∨ s.away a.thread.ctx a.dest = true ∨
  ∃ b ∈ (s.cove (coveOf a.dest)).spill, b.dest = a.dest ∧ s.away b.thread.ctx a.dest = false

/-- A context put behind the others of the spill area, and of the arrival buffer. -/
def State.spilled (s : State) (a : Carried) : State :=
  s.setCove (coveOf a.dest) { s.cove (coveOf a.dest) with spill := (s.cove (coveOf a.dest)).spill ++ [a] }
def State.buffered (s : State) (a : Carried) : State :=
  s.setCore a.dest { s.core a.dest with arrivals := (s.core a.dest).arrivals ++ [a] }

/-- R60: a thread at its start. -/
def Task.starts (t : Task) (c i uid : Nat) : Thread :=
  { ctx := t.ctx, uid, task := t, pc := t.entry, p := 1, f := Vector.replicate 32 0, fstat := 0x100
    srseed := wide (16 * c + i + 1 : Nat)
    g := Vector.ofFn fun r =>
      if r.val = 2 then t.arg0 else if r.val = 3 then t.arg1 else if r.val = 4 then t.arg2 else if r.val = 5 then t.arg3
      else if r.val = 6 then t.tcb else if r.val = 25 then wide (0x800 + 0x400 * (i + 1) : Nat) else 0 }

/-- R59: a core that takes a task of a context: neither sealed, vacated nor behind on its arrivals, with a part of its speculative
buffer for an ordered task. -/
structure State.Takes (s : State) (x c : Nat) (ordered : Bool) : Prop where
  open_ : (s.core c).sealed = false
  here : s.away x c = false
  arrived : (s.core c).arrivals = []
  returned : ∀ b ∈ (s.cove (coveOf c)).spill, b.dest = c → s.away b.thread.ctx c = true
  part : ordered = true → ∃ j : Nat, (s.core c).spec[j]? = some none

/-- R61: the next granted cove in ring order after one, passing over the stealer. -/
def NextCove (granted : List Nat) (after stealer w : Nat) : Prop :=
  ∃ d, 1 ≤ d ∧ d ≤ 1024 ∧ w = ringCove ((ringCove after + d) % 1024) ∧ w ∈ granted ∧ w ≠ stealer ∧
    ∀ e, 1 ≤ e → e < d → ringCove ((ringCove after + e) % 1024) ∈ granted → ringCove ((ringCove after + e) % 1024) = stealer

/-! ## Steps -/

/-- A slot that the search passes over: no thread, a thread whose instruction an event completes, one whose previous instruction has
not passed its issue point, or one whose `feset` or `feclr` is in progress (R12, R13, R181); and one that waited for such an event or
range as the cycle began, which issues from the next cycle on (R15). -/
def State.passedOver (s : State) (before : Core) (c i : Nat) : Prop :=
  (before.slot i).engaged = true ∨
  match s.thread? c i with
  | none => True
  | some t => t.hold ≠ 0 ∨ t.range.isSome = true ∨ ∃ cause w, t.park = .await cause w

/-- The next move is a cycle of a core with a clock. -/
structure Clocked (s : State) (c : Nat) (rest : List Move) : Prop where
  agenda : s.agenda = .core c :: rest
  powered : s.powered = true
  live : (s.cove (coveOf c)).health.state ≠ .retired

/-- The state at the search of a core's cycle: the move taken from the agenda, every issue point one cycle nearer, the ranges in
progress advanced. -/
def State.wakes (s : State) (c : Nat) (rest : List Move) : State := ({ s with agenda := rest } : State).aged c

/-- The next move is a cycle of a core that issues. -/
structure CoreTurn (s : State) (c : Nat) (rest : List Move) : Prop extends Clocked s c rest where
  open_ : ((s.wakes c rest).core c).sealed = false
  running : ((s.wakes c rest).core c).frozen = false

/-- In the next cycle of a core the search reaches a slot whose thread may issue. -/
structure Turn (s : State) (c k : Nat) (t : Thread) (rest : List Move) : Prop extends CoreTurn s c rest where
  holds : (s.wakes c rest).thread? c k = some t
  order : ∃ before behind, searchOrder (s.core c).lastIssued = before ++ k :: behind ∧
    ∀ i ∈ before, (s.wakes c rest).passedOver (s.core c) c i
  fresh : ((s.core c).slot k).engaged = false
  passed : t.hold = 0
  marked : t.range = none
  awake : ∀ cause w, t.park ≠ .await cause w
  settled : (s.wakes c rest).commitsOwn t = false
  going : t.ending = none

/-- The state in which a thread's turn executes its instruction. -/
def State.turn (s : State) (c k : Nat) (t : Thread) (w : BitVec 32) (rest : List Move) : State :=
  (s.wakes c rest).begin_ c k t w

/-- What a cycle leaves after an instruction has issued from a slot for a thread: the issue point of the thread, if it is still
there, and the divider at work (R13); the slot that issued last (R12). -/
def State.issued (s : State) (c k : Nat) (t : Thread) (i : Instr) : State :=
  let s := s.issuedBy c k t.uid i
  let u := (s.setCore c { s.core c with lastIssued := k }).onCtx t.ctx fun k => { k with stirred := true }
  { u with tick := u.tick + 1 }

/-- R13, R173: the cycles from an instruction's issue to the next issue of its thread; `gang` has its result after 16. -/
def nextIssue : Instr → Nat
  | .gang _ _ => 16
  | .fdivS _ _ _ _ | .fsqrtS _ _ _ => 24
  | .div _ _ _ | .divu _ _ _ | .rem _ _ _ | .remu _ _ _ | .divw _ _ _ | .divuw _ _ _ | .remw _ _ _ | .remuw _ _ _ => 40
  | _ => 8

/-! ## Invariants -/

/-- A core's local store and its full-empty bits are in canonical form. -/
def Core.sound (k : Core) : Prop := k.mem.wf = true ∧ k.full.wf = true

/-- Memory everywhere is in canonical form: equal contents are equal data. -/
def State.sound (s : State) : Prop :=
  s.phys.wf = true ∧ (∀ c k, (c, k) ∈ s.cores → k.sound) ∧
  ∀ x k, (x, k) ∈ s.ctxs → ∀ c v, (c, v) ∈ k.savedCores → v.core.sound

end Machine

end Sys2Proof
end

