-- ==== Sys2Proof/Certificates/Slice0/Obligations.lean ====
section
/-! DEFINITION. The statements for the provers. -/

section Statements

open Sys2Proof Sys2Proof.Machine

/-! ## Register results -/

/-- R138, R139: what every integer instruction, multiply and divide writes, for every operand form, a queue port among them. So do
`csel` and `pmov` (of R142) and FMV.X.W and FCLASS.S (of R156), whose ten classes are read off the fields of the code. -/
def Obligations.ResultValues : Prop :=
  (∀ (i : Instr) (r : Row) (s : State) (t : Thread), integerRow i = some r → Issues s t r.reads r.rd false →
     exec i s = .next ((s.popPorts t r.reads).finish r.rd (r.value s t))) ∧
  (∀ (i : Instr) (r : Row) (s : State) (t : Thread), multiplyRow i = some r → Issues s t r.reads r.rd false →
     exec i s = .next ((s.popPorts t r.reads).finish r.rd (r.value s t))) ∧
  (∀ (i : Instr) (r : Row) (s : State) (t : Thread), moveRow i = some r → Issues s t r.reads r.rd false →
     exec i s = .next ((s.popPorts t r.reads).finish r.rd (r.value s t))) ∧
  (∀ x : Nat, x < 2 ^ 32 → classify x = 2 ^ classBit x)

/-- The frames of the instructions that write registers only, transfer control, set predicates or compute FP32 numbers,
where they name no queue port: the whole next state. Only the executing thread changes: its destination, the PC, its wait, the
word of its fetch, the checker's fold, and of the FP ones the flags and the generator. -/
def Obligations.RegisterFrames : Prop :=
  (∀ (i : Instr) (r : Row) (s : State) (t : Thread), resultRow i = some r → Retires s t →
     (∀ q ∈ r.reads, plainReg q = true) → plainReg r.rd = true →
     exec i s = .next (s.setCur ((t.setG r.rd (r.value s t)).after (t.pc + 4) false (s.checking t)))) ∧
  (∀ (i : Instr) (r : Transfer) (s : State) (t : Thread), transferRow i = some r → targetOk i (r.target s t) → Retires s t →
     (∀ q ∈ r.reads, plainReg q = true) → (∀ q ∈ r.link, plainReg q = true) →
     exec i s = .next (s.setCur ((match r.link with
       | some rd => t.setG rd (t.pc + 4)
       | none => t).after (r.target s t) true (s.checking t)))) ∧
  (∀ (i : Instr) (r : Change) (s : State) (t : Thread), predicateRow i = some r → Retires s t →
     (∀ q ∈ r.reads, plainReg q = true) →
     exec i s = .next (s.setCur ((r.change s t t).after (t.pc + 4) false (s.checking t)))) ∧
  (∀ (i : Instr) (r : FloatRow) (mode : Nat) (s : State) (t : Thread), floatRow i = some r → r.mode t = some mode →
     Retires s t → (∀ q ∈ r.reads, plainReg q = true) →
     exec i s = .next (s.setCur ((r.change mode s t t).after (t.pc + 4) false (s.checking t))))

/-- R140, R142: every jump and branch: the link register receives PC + 4, and the thread goes on at the target; a JALR whose
target has bit 1 set raises MISALIGNED with the target in UTVAL. -/
def Obligations.ControlTransfers : Prop :=
  (∀ (i : Instr) (r : Transfer) (s : State) (t : Thread), transferRow i = some r → targetOk i (r.target s t) →
     Issues s t r.reads (r.link.getD 0) false →
     exec i s = .next (((s.popPorts t r.reads).linked r.link (t.pc + 4)).goTo (r.target s t))) ∧
  (∀ (rd a : Reg) (imm : BitVec 12) (r : Transfer) (s : State) (t : Thread), transferRow (.jalr rd a imm) = some r →
     (r.target s t).getLsbD 1 = true → Issues s t [a] rd false →
     exec (.jalr rd a imm) s = .next (s.trap 3 (r.target s t)))

/-- R142: what the predicate instructions write; a queue port that they name is popped. -/
def Obligations.PredicateResults : Prop :=
  ∀ (i : Instr) (r : Change) (s : State) (t : Thread), predicateRow i = some r → Issues s t r.reads 0 false →
    exec i s = .next ((s.popPorts t r.reads).finishWith (r.change s t))

/-! ## FP32 scalars -/

/-- R155, R156, R113: every scalar FP instruction: one draw in stochastic mode (R110), the flags ORed into FSTAT, the
result in its register, for a result in a g register a queue port among them (R25, R26). R103: the value of an FP32 code. R104, R111,
R156: what each operation gives before it is rounded: a NaN for
a NaN operand, with nv for a signalling one; the infinities and the invalid cases; of finite operands the exact sum, product and
fused sum, and quotient and root to 64 and 50 bits with a mark for what lies below; dz. R113: a conversion to an integer. R111, R156:
minimum, maximum and the comparisons. -/
def Obligations.FloatResults : Prop :=
  (∀ (i : Instr) (r : FloatRow) (mode : Nat) (s : State) (t : Thread), floatRow i = some r → r.mode t = some mode →
     Issues s t r.reads 0 false →
     exec i s = .next ((s.popPorts t r.reads).finishWith (r.change mode s t))) ∧
  (∀ (i : Instr) (r : FloatIntRow) (mode : Nat) (s : State) (t : Thread), floatIntRow i = some r → r.mode t = some mode →
     Issues s t [] r.rd false →
     exec i s = .next ((s.setCur { t with
       srseed := r.seed mode t, fstat := t.fstat ||| (r.value mode t).2.zeroExtend 64 }).finish r.rd (r.value mode t).1)) ∧
  (∀ (i : Instr) (r : FloatIntRow) (mode : Nat) (s : State) (t : Thread), floatIntRow i = some r → r.mode t = some mode →
     Retires s t → plainReg r.rd = true →
     exec i s = .next (s.setCur ((({ t with
       srseed := r.seed mode t
       fstat := t.fstat ||| (r.value mode t).2.zeroExtend 64 } : Thread).setG r.rd (r.value mode t).1).after (t.pc + 4) false
         (s.checking t)))) ∧
  (∀ x : BitVec 32, fp32Val x = fp32Value x.toNat) ∧
  (∀ (mode : Nat) (a b : FVal),
     let sum := addExact mode a b
     let product := mulExact a b
     let ratio := divExact a b
     let signalling : Bool := a.isSignalling || b.isSignalling
     ((a.isNan = true ∨ b.isNan = true) → sum.isNanOf signalling ∧ product.isNanOf signalling ∧ ratio.isNanOf signalling) ∧
     (∀ n k, a = .inf n → b = .inf k →
       (n = k → sum.is (.inf n)) ∧ (n ≠ k → sum.isInvalid) ∧ product.is (.inf (n != k)) ∧ ratio.isInvalid) ∧
     (∀ n k m e, a = .inf n → b = .fin k m e →
       sum.is (.inf n) ∧ (m = 0 → product.isInvalid) ∧ (m ≠ 0 → product.is (.inf (n != k))) ∧ ratio.is (.inf (n != k))) ∧
     (∀ n k m e, a = .fin k m e → b = .inf n →
       sum.is (.inf n) ∧ (m = 0 → product.isInvalid) ∧ (m ≠ 0 → product.is (.inf (k != n))) ∧ ratio.is (.fin (k != n) 0 0)) ∧
     (∀ n m e k l f, a = .fin n m e → b = .fin k l f →
       sum.flags = 0 ∧ sum.sticky = false ∧
       (∀ u, u ≤ e → u ≤ f → u ≤ 0 → sum.v.finite u ∧ sum.v.inUnits u = a.inUnits u + b.inUnits u) ∧
       (∀ u, u ≤ e → u ≤ f → a.inUnits u + b.inUnits u = 0 → sum.v.sign = if n = k then n else decide (mode = 2)) ∧
       product.is (.fin (n != k) (m * l) (e + f)) ∧
       (l = 0 → m = 0 → ratio.isInvalid) ∧
       (l = 0 → m ≠ 0 → ratio.v = .inf (n != k) ∧ ratio.flags = 0b01000) ∧
       (l ≠ 0 → ratio.flags = 0 ∧ ∃ z q : Nat, 2 ^ z ≤ 2 ^ 64 * l ∧ 2 ^ 63 * l ≤ 2 ^ z ∧ ratio.v = .fin (n != k) q (e - f - z) ∧
         q * l ≤ m * 2 ^ z ∧ m * 2 ^ z < (q + 1) * l ∧ (ratio.sticky = true ↔ q * l ≠ m * 2 ^ z)))) ∧
  (∀ (mode : Nat) (a b c : FVal),
     let product := mulExact a b
     (product.v.isNan = false → c.isNan = false → fmaExact mode a b c = addExact mode product.v c) ∧
     ((product.v.isNan = true ∨ c.isNan = true) → (fmaExact mode a b c).v = .nan false ∧
       ((fmaExact mode a b c).flags = if product.flags ≠ 0 ∨ c.isSignalling = true then 0b10000 else 0))) ∧
  (∀ x : BitVec 32, let root := sqrtExact (fp32Val x)
     (∀ signalling, fp32Val x = .nan signalling → root.isNanOf signalling) ∧
     (fp32Val x = .inf true → root.isInvalid) ∧ (fp32Val x = .inf false → root.is (.inf false)) ∧
     (∀ n m e, fp32Val x = .fin n m e →
       (m = 0 → root.is (.fin n 0 0)) ∧ (m ≠ 0 → n = true → root.isInvalid) ∧
       (m ≠ 0 → n = false → root.flags = 0 ∧ ∃ r z : Nat, ∃ h : Int, e - (z : Int) = 2 * h ∧ root.v = .fin false r h ∧
         r * r ≤ m * 2 ^ z ∧ m * 2 ^ z < (r + 1) * (r + 1) ∧ 2 ^ 50 ≤ r ∧ (root.sticky = true ↔ r * r ≠ m * 2 ^ z)))) ∧
  (∀ (rd : Rounding) (lo hi : Int) (v : FVal),
     (v.isNan = true → toInt rd lo hi v = (0, 0b10000)) ∧ (v = .inf false → toInt rd lo hi v = (hi, 0b10000)) ∧
     (v = .inf true → toInt rd lo hi v = (lo, 0b10000)) ∧
     (∀ n m e, v = .fin n m e →
       let units := roundUnits rd n m e false 0
       let x : Int := if n then -(units.1 : Int) else units.1
       (lo ≤ x → x ≤ hi → toInt rd lo hi v = (x, if units.2 then 0b00001 else 0)) ∧
       (x < lo → toInt rd lo hi v = (lo, 0b10000)) ∧ (lo ≤ x → hi < x → toInt rd lo hi v = (hi, 0b10000)))) ∧
  (∀ x y : BitVec 32,
     let a := fp32Val x
     let b := fp32Val y
     let nan : Bool := a.isNan || b.isNan
     let signalling : Bool := a.isSignalling || b.isSignalling
     let below (v w : FVal) : Prop := v.below w
     (nan = true →
       fp32.compare 0 x.toNat y.toNat = (false, if signalling then 0b10000 else 0) ∧
       fp32.compare 1 x.toNat y.toNat = (false, 0b10000) ∧ fp32.compare 2 x.toNat y.toNat = (false, 0b10000)) ∧
     (nan = false →
       ((fp32.compare 0 x.toNat y.toNat).1 = true ↔ ¬below a b ∧ ¬below b a) ∧
       ((fp32.compare 1 x.toNat y.toNat).1 = true ↔ below a b) ∧ ((fp32.compare 2 x.toNat y.toNat).1 = true ↔ ¬below b a) ∧
       ∀ op, op < 3 → (fp32.compare op x.toNat y.toNat).2 = 0) ∧
     (∀ greatest : Bool, let r := fp32.minMax greatest x.toNat y.toNat
       r.2 = (if signalling then 0b10000 else 0) ∧
       (a.isNan = true → b.isNan = true → r.1 = 0x7FC00000) ∧ (a.isNan = true → b.isNan = false → r.1 = y.toNat) ∧
       (a.isNan = false → b.isNan = true → r.1 = x.toNat) ∧
       (nan = false →
         (below a b → r.1 = if greatest then y.toNat else x.toNat) ∧ (below b a → r.1 = if greatest then x.toNat else y.toNat) ∧
         (a.isZero = true → b.isZero = true → a.sign = true → b.sign = false → r.1 = if greatest then y.toNat else x.toNat) ∧
         (a.isZero = true → b.isZero = true → a.sign = false → b.sign = true → r.1 = if greatest then x.toNat else y.toNat))))

/-- R109: a scalar FP instruction whose rounding mode is illegal raises ILLEGAL with its word in UTVAL, and reads nothing. -/
def Obligations.IllegalRounding : Prop :=
  (∀ (i : Instr) (r : FloatRow) (s : State) (t : Thread), floatRow i = some r → r.mode t = none → Issues s t r.reads 0 false →
    exec i s = .next (s.trap 1 (t.iword.zeroExtend 64))) ∧
  (∀ (i : Instr) (r : FloatIntRow) (s : State) (t : Thread), floatIntRow i = some r → r.mode t = none → Issues s t [] r.rd false →
    exec i s = .next (s.trap 1 (t.iword.zeroExtend 64)))

/-- R109, R110: a magnitude m rounded to a multiple of d: to nearest with ties to even, toward zero, down, up, to nearest with
ties away, stochastically with the drawn value r; what lies below the bits kept counts as if it were a half of the last. R110: a
draw of the generator.
R104, R109, R111: an exact result of FP32, BF16 or FP16 rounded: a NaN gives the canonical one, an infinity and a zero themselves;
another the multiple of its unit in the last place that the mode gives, a subnormal honoured, with nx where it is inexact and uf where it
is tiny after rounding besides; beyond the range an infinity or the largest number, as the mode says, with of and nx. -/
def Obligations.RoundingModes : Prop :=
  (∀ (neg : Bool) (m d r n : Nat) (sat : Bool) (q : Int), d = 2 ^ n → r < 2 ^ 16 →
    let k (mode : Nat) : Nat := (roundUnits { mode, sat, r } neg m (q - n) false q).1
    let near (x : Nat) : Prop := 2 * (x * d) ≤ 2 * m + d ∧ 2 * m ≤ 2 * (x * d) + d
    (near (k 0) ∧ (2 * (m % d) = d → k 0 % 2 = 0)) ∧ k 1 = m / d ∧
    k 2 = (if neg then (m + d - 1) / d else m / d) ∧ k 3 = (if neg then m / d else (m + d - 1) / d) ∧
    (near (k 4) ∧ (2 * (m % d) = d → k 4 = m / d + 1)) ∧ k 5 = (m * 2 ^ 16 + r * d) / (d * 2 ^ 16) ∧
    (∀ mode, (roundUnits { mode, sat, r } neg m (q - n) false q).2 = true ↔ m % d ≠ 0)) ∧
  (∀ (rd : Rounding) (neg : Bool) (m : Nat) (e q : Int), e ≤ q - 16 →
    roundUnits rd neg m e true q = roundUnits rd neg (2 * m + 1) (e - 1) false q) ∧
  (∀ seed : Word,
    let a := seed ^^^ (seed <<< 13)
    let b := a ^^^ (a >>> 7)
    let c := b ^^^ (b <<< 17)
    (draw seed).1 = c ∧ (draw seed).2.toNat = c.toNat / 2 ^ 48) ∧
  (∀ (f : Fmt) (ebits mbits : Nat) (rd : Rounding) (x : Exact), (f, ebits, mbits) ∈ [(fp32, 8, 23), (bf16, 8, 7), (fp16, 5, 10)] →
    rd.mode ≤ 5 → rd.r < 2 ^ 16 →
    let r := f.finish rd x
    let coded (neg : Bool) (code : Nat) : Nat := if neg then 2 ^ (ebits + mbits) + code else code
    let infinity : Nat := (2 ^ ebits - 1) * 2 ^ mbits
    let most : Int := 2 ^ (ebits - 1) - 1
    let least : Int := 1 - most
    (∀ signalling, x.v = .nan signalling → r = (infinity + 2 ^ (mbits - 1), (if signalling then 0b10000 else 0) ||| x.flags)) ∧
    (∀ neg, x.v = .inf neg → r = (coded neg infinity, x.flags)) ∧
    (∀ neg e, x.v = .fin neg 0 e → r = (coded neg 0, x.flags)) ∧
    (∀ neg m e, x.v = .fin neg m e → m ≠ 0 →
      let p : Int := e + (Nat.log2 m : Int)
      let q : Int := max p least - mbits
      let k := roundUnits rd neg m e x.sticky q
      let tooLarge : Prop := most < p ∨ (p = most ∧ k.1 = 2 ^ (mbits + 1))
      let carry : Int := if (roundUnits rd neg m e x.sticky (p - mbits)).1 = 2 ^ (mbits + 1) then 1 else 0
      (¬tooLarge → (∃ n g, floatValue ebits mbits r.1 = .fin neg n g ∧ q ≤ g ∧ inUnits n g q = k.1) ∧
        r.2 = (if k.2 then 0b00001 else 0) ||| (if k.2 = true ∧ p + carry < least then 0b00010 else 0) ||| x.flags) ∧
      (tooLarge → r = (coded neg (if rd.mode = 1 ∨ (rd.mode = 2 ∧ neg = false) ∨ (rd.mode = 3 ∧ neg = true) then infinity - 1
        else infinity), 0b00101 ||| x.flags))))

/-! ## Memory accesses -/

/-- R143, R145, R69: a load of the executing core's own local store, and the constant-window loads: the whole next state. Only
the destination, the PC, the wait, the word of the fetch and the fold change; of a speculative ordered task also its read signature,
and the words it has buffered are read in place of memory; every ordered task waits for a commit of its cove under way to the bytes
it reads (R70, log entry 29). -/
def Obligations.LocalLoads : Prop :=
  (∀ (i : Instr) (r : LoadRow) (off : Nat) (s : State) (t : Thread), loadRow i = some r → Retires s t →
     plainReg r.base = true → plainReg r.write = true → t.spec = none →
     Reaches s t (r.address s t) r.n false (.local s.curCore off) → s.localError s.curCore off r.n = none →
     exec i s = .next (if (s.commitsBefore s.curCore t (.local s.curCore off) r.n).isEmpty then
       s.beyond t (t.given r.dest (s.ownWord off r.n)) else s.retry t 14)) ∧
  (∀ (i : Instr) (r : LoadRow) (off : Nat) (s : State) (t : Thread), loadRow i = some r → Retires s t →
     plainReg r.base = true → plainReg r.write = true → t.spec.isSome = true →
     Reaches s t (r.address s t) r.n false (.local s.curCore off) → s.localError s.curCore off r.n = none →
     exec i s = .next (if (s.commitsBefore s.curCore t (.local s.curCore off) r.n).isEmpty then
       (s.noteRead s.curCore t (r.address s t)).beyond t
         (t.given r.dest (overlay (s.specWords s.curCore t) (.local s.curCore off) r.n (s.ownWord off r.n)))
       else s.retry t 14)) ∧
  (∀ (s : State) (c : Nat) (t : Thread) (tgt : Target) (n : Nat), (s.commitsBefore c t tgt n).isEmpty = false ↔
     t.task.ordered = true ∧ ∃ p ∈ s.net, p.ctx = t.ctx ∧ coveOf p.core = coveOf c ∧ ∃ w, p.kind = .commit w ∧
       w.target.overlaps 8 tgt n = true) ∧
  (∀ (n : BitVec 8) (s : State) (t : Thread), Retires s t → s.localError s.curCore (8 * n.toNat) 8 = none →
     (∀ rd, plainReg rd = true → exec (.ldk rd n) s = .next (s.beyond t (t.setG rd (s.ownWord (8 * n.toNat) 8)))) ∧
     (∀ rd, exec (.fldk rd n) s = .next (s.beyond t (t.setF rd (BitVec.ofNat 32 (s.ownWord (8 * n.toNat) 8).toNat)))))

/-- R145, R146, R251: a load of another core's local store or of translated memory parks its thread behind a request, takes
its value from the youngest overlapping store of the store buffer that covers it, or waits for one that does not; a load
whose page the TLB lacks parks behind a fill. An ordered task's waits for a commit under way to its bytes (R70, log entry 29).
R69: a speculative one's takes the bytes that its task has buffered from there, and asks for nothing where that is all of them; the
line's bit enters its read signature. R146: what the store buffer answers: nothing where no entry of the core overlaps; a wait where an
atomic does, or where the youngest overlapping store does not cover every byte; else that store's bytes. -/
def Obligations.RemoteLoads : Prop :=
  (∀ (i : Instr) (r : LoadRow) (s : State) (t : Thread), loadRow i = some r → Retires s t →
    plainReg r.base = true → plainReg r.write = true → t.spec = none →
    (∀ tgt, Reaches s t (r.address s t) r.n false tgt → tgt.isOwn s.curCore = false →
      ((s.commitsBefore s.curCore t tgt r.n).isEmpty = true →
        (s.forward s.curCore tgt r.n = .none →
          exec i s = .next (s.asks t (loadCause tgt) (.data r.dest) (loadKind tgt r.n (r.address s t)))) ∧
        (∀ id v, s.forward s.curCore tgt r.n = .value id v →
          exec i s = .next (s.beyond t ((t.noteLoaded s.net id).given r.dest v)))) ∧
      ((s.commitsBefore s.curCore t tgt r.n).isEmpty = false ∨ s.forward s.curCore tgt r.n = .wait →
        exec i s = .next (s.retry t 14))) ∧
    (Misses s t (r.address s t) r.n false →
      exec i s = .next (s.asks t 12 (.translate (.load r.n r.dest) (r.address s t)) (.tlbMiss (r.address s t) (.load r.n r.dest))))) ∧
  (∀ (i : Instr) (r : LoadRow) (s : State) (t : Thread), loadRow i = some r → Retires s t →
    plainReg r.base = true → plainReg r.write = true → t.spec.isSome = true →
    let va := r.address s t
    let ws := s.specWords s.curCore t
    let noted := s.noteRead s.curCore t va
    (∀ tgt, Reaches s t va r.n false tgt → tgt.isOwn s.curCore = false →
      let held : Prop := ∀ k, k < r.n → (specByte ws (tgt.plus k)).isSome = true
      ((s.commitsBefore s.curCore t tgt r.n).isEmpty = false → exec i s = .next (s.retry t 14)) ∧
      ((s.commitsBefore s.curCore t tgt r.n).isEmpty = true →
        (held → exec i s = .next (noted.beyond t (t.given r.dest (overlay ws tgt r.n 0)))) ∧
        (¬held →
          (s.forward s.curCore tgt r.n = .wait → exec i s = .next (s.retry t 14)) ∧
          (∀ id v, s.forward s.curCore tgt r.n = .value id v →
            exec i s = .next (noted.beyond t ((t.noteLoaded s.net id).given r.dest (overlay ws tgt r.n v)))) ∧
          (s.forward s.curCore tgt r.n = .none →
            exec i s = .next (noted.asks t (loadCause tgt) (.data r.dest) (loadKind tgt r.n va)))))) ∧
    (Misses s t va r.n false →
      exec i s = .next (noted.asks t 12 (.translate (.load r.n r.dest) va) (.tlbMiss va (.load r.n r.dest))))) ∧
  (∀ (ws : List SpecWord) (tgt : Target) (n k : Nat) (v : Word), n ≤ 8 → k < n →
    (overlay ws tgt n v).extractLsb' (8 * k) 8 = (specByte ws (tgt.plus k)).getD (v.extractLsb' (8 * k) 8)) ∧
  (∀ (s : State) (c i : Nat) (t : Thread) (p : SpecPart) (a : Word), t.spec = some i → (s.core c).spec[i]? = some (some p) →
    let va := formOf c a
    let f (lo : Nat) : Nat := va.toNat / 2 ^ lo % 2 ^ 9
    ∃ sig, s.noteRead c t a = s.setCore c { s.core c with spec := (s.core c).spec.setIfInBounds i (some { p with sig }) } ∧
      ∀ j, j < 512 → sig.getLsbD j = (p.sig.getLsbD j || decide (j = f 6 ^^^ f 15 ^^^ f 24 ^^^ f 33 ^^^ f 42))) ∧
  (∀ (s : State) (c : Nat) (tgt : Target) (n : Nat),
    let meets (p : Packet) : Prop := p.buffered = true ∧ p.core = c ∧ p.touches tgt n = true
    ((∀ p ∈ s.net, ¬meets p) → s.forward c tgt n = .none) ∧
    ((∃ p ∈ s.net, meets p ∧ p.kind.isAtomic = true) → s.forward c tgt n = .wait) ∧
    (∀ before p behind u m v, s.net = before ++ p :: behind → meets p → (∀ q ∈ behind, ¬meets q) →
      (∀ q ∈ s.net, meets q → q.kind.isAtomic = false) → p.kind = .store u m v →
      (∀ k, u.plus k = tgt → k + n ≤ m → s.forward c tgt n = .value p.id (v >>> (8 * k))) ∧
      ((∀ k, u.plus k = tgt → m < k + n) → s.forward c tgt n = .wait)))

/-- R145, R69: a store to the executing core's own local store: its whole next state, and byte by byte: the n bytes at the
address hold the value, little-endian; every other byte and every full-empty bit stay. A non-speculative ordered task's store
broadcasts its line and shows in what the cove's ordered tasks have buffered of the word (log entry 76); it waits for a commit under
way to its bytes (log entry 29). R88, R91: what the word held before is noted beside, for the engine commands of the thread; the
thread's earlier notes of the word stay, and a write shows in every other note that it meets (log entry 14). -/
def Obligations.LocalStores : Prop :=
  (∀ (i : Instr) (r : StoreRow) (off : Nat) (s : State) (t : Thread), storeRow i = some r → Retires s t →
     (∀ q ∈ r.reads, plainReg q = true) → t.plain →
     Reaches s t (r.address s t) r.n true (.local s.curCore off) → s.localError s.curCore off r.n = none →
     exec i s = .next ((s.noting t.uid s.tick (.local s.curCore off) fun u => u.putOwn off r.n (r.value s t)).beyond t t)) ∧
  (∀ (s : State) (uid step : Nat) (tgt : Target) (f : State → State),
     let before := s.wordAt tgt.word
     let behind := (f s).wordAt tgt.word
     let note : OldWord := { uid, target := tgt.word, step, old := before, new := behind }
     let kept := (s.olds.zip (f s).olds).map fun e => if e.1.uid = uid ∧ e.1.target = tgt.word then e.1 else e.2
     s.noting uid step tgt f = { f s with olds := if behind = before then kept else note :: kept }) ∧
  (∀ (s : State) (tgt : Target) (bs : List Byte), ∃ olds : List OldWord,
     s.amend tgt bs = { s with olds } ∧ olds.length = s.olds.length ∧
     ∀ (j : Nat) (e : OldWord), s.olds[j]? = some e → ∃ e', olds[j]? = some e' ∧ e'.uid = e.uid ∧ e'.target = e.target ∧ e'.step = e.step ∧
       ∀ k, k < 8 → let after (w w' : Word) : Prop :=
           (∀ d, tgt.plus d = e.target.plus k → d < bs.length → bs[d]? = some (w'.extractLsb' (8 * k) 8)) ∧
           ((∀ d, tgt.plus d = e.target.plus k → bs.length ≤ d) → w'.extractLsb' (8 * k) 8 = w.extractLsb' (8 * k) 8)
         after e.old e'.old ∧ after e.new e'.new) ∧
  (∀ (i : Instr) (r : StoreRow) (off : Nat) (s s' : State) (t : Thread), storeRow i = some r → Retires s t →
     (∀ q ∈ r.reads, plainReg q = true) → t.plain → s.here.mem.wf = true →
     Reaches s t (r.address s t) r.n true (.local s.curCore off) → s.localError s.curCore off r.n = none →
     exec i s = .next s' →
     (∀ b, b < off ∨ off + r.n ≤ b → s'.here.mem.read b = s.here.mem.read b) ∧
     s'.ownWord off r.n = r.value s t ∧
     (∀ c, c ≠ s.curCore → s'.core c = s.core c) ∧ s'.phys = s.phys ∧ s'.here.full = s.here.full) ∧
  (∀ (i : Instr) (r : StoreRow) (off : Nat) (s : State) (t : Thread), storeRow i = some r →
     Issues s t r.reads 0 false → t.spec = none → t.task.ordered = true →
     Reaches s t (r.address s t) r.n true (.local s.curCore off) →
     let u := (s.popPorts t r.reads).noting t.uid s.tick (.local s.curCore off) fun u =>
       u.storeLocal t.ctx s.curCore off r.n (r.value s t)
     exec i s = .next (if (s.commitsBefore s.curCore t (.local s.curCore off) r.n).isEmpty then
       ((u.broadcastLine s.curCore t.task (formOf s.curCore (r.address s t))).refresh s.curCore t.task.ctx (.local s.curCore off) r.n
         (u.wordAt (.local s.curCore (off / 8 * 8)) >>> (8 * (off % 8)))).done
       else s.retry t 14))

/-- R146: a store to another core or to translated memory takes an entry of the store buffer behind the entries that it
overlaps, and its thread goes on; with no entry free it waits, and behind an earlier store of its core to overlapping bytes that has
missed the TLB (log entry 96). One whose page the TLB lacks parks behind a fill. -/
def Obligations.BufferedStores : Prop :=
  ∀ (i : Instr) (r : StoreRow) (s : State) (t : Thread), storeRow i = some r → Retires s t →
    (∀ q ∈ r.reads, plainReg q = true) → t.plain →
    (∀ tgt, Reaches s t (r.address s t) r.n true tgt → tgt.isOwn s.curCore = false →
      (s.bufferBusy s.curCore = false → s.missesOver s.curCore tgt r.n = false →
        exec i s = .next ((s.send { s.packetOf t (.store tgt r.n (r.value s t)) with
          buffered := true, after := (s.overlapping s.curCore tgt r.n).map fun p => p.id }).beyond t t)) ∧
      (s.bufferBusy s.curCore = true ∨ s.missesOver s.curCore tgt r.n = true → exec i s = .next (s.retry t 14))) ∧
    (Misses s t (r.address s t) r.n true →
      exec i s = .next (if s.bufferBusy s.curCore then s.retry t 14
        else s.asks t 12 (.translate (.store r.n (r.value s t)) (r.address s t)) (.tlbMiss (r.address s t) (.store r.n (r.value s t)))))

/-- R69: a store of a speculative ordered task goes to its part of the speculative buffer, wherever it leads; it waits while
the part holds 128 other words. R68, R73: what the part then holds: the bytes of the store, the other bytes of the word as they were
there, or as memory has them where the word is new (log entry 76), every other word unchanged; what an ordered task of the cove writes
shows in the bytes that the part's own task has not stored. R69, R71: a line that an ordered task writes aborts the later ordered tasks of
its context whose read signature holds the line's bit: those with a greater key, or the same key and a greater TCB address. -/
def Obligations.SpeculativeStores : Prop :=
  (∀ (i : Instr) (r : StoreRow) (tgt : Target) (s : State) (t : Thread), storeRow i = some r → Retires s t →
    (∀ q ∈ r.reads, plainReg q = true) → t.spec.isSome = true → Reaches s t (r.address s t) r.n true tgt →
    exec i s = .next (if bufferFull (s.specWords s.curCore t) (formOf s.curCore (r.address s t)) then s.retry t 8
      else (s.bufferStore s.curCore t tgt r.n (r.value s t) (r.address s t)).beyond t t)) ∧
  (∀ (ws : List SpecWord) (va : Word), bufferFull ws va = true ↔ 128 ≤ ws.length ∧ ∀ w ∈ ws, w.va.toNat ≠ va.toNat / 8 * 8) ∧
  (∀ (s : State) (c i n : Nat) (t : Thread) (p : SpecPart) (tgt : Target) (v va : Word), t.spec = some i →
    (s.core c).spec[i]? = some (some p) → s.specWords c t = p.words ∧
    (s.bufferStore c t tgt n v va).specWords c t = bufferWord (formOf c va) tgt n v (s.wordAt tgt.word) p.words) ∧
  (∀ (ws : List SpecWord) (va v fill : Word) (tgt : Target) (n : Nat), tgt.byte + n ≤ 8 →
    let after := bufferWord va tgt n v fill ws
    after.length = (if ws.any fun w => w.target = tgt.word then ws.length else ws.length + 1) ∧
    (∀ k, k < n → specByte after (tgt.plus k) = some (v.extractLsb' (8 * k) 8)) ∧
    (∀ u : Target, u.word = tgt.word → (u.byte < tgt.byte ∨ tgt.byte + n ≤ u.byte) →
      specByte after u = some ((specByte ws u).getD (fill.extractLsb' (8 * u.byte) 8))) ∧
    ∀ u : Target, u.word ≠ tgt.word → specByte after u = specByte ws u) ∧
  (∀ (w : SpecWord) (tgt : Target) (n k : Nat) (v : Word), tgt.byte + n ≤ 8 → k < 8 →
    let r := w.refresh tgt n v
    let shows : Prop := w.target = tgt.word ∧ w.mask.getLsbD k = false ∧ tgt.byte ≤ k ∧ k < tgt.byte + n
    r.va = w.va ∧ r.target = w.target ∧ r.mask = w.mask ∧
    (shows → r.data.extractLsb' (8 * k) 8 = v.extractLsb' (8 * (k - tgt.byte)) 8) ∧
    (¬shows → r.data.extractLsb' (8 * k) 8 = w.data.extractLsb' (8 * k) 8)) ∧
  (∀ (task : Task) (va : Word) (p : SpecPart), hitBy task va (some p) = true ↔
    p.task.ctx = task.ctx ∧ (task.key.toNat < p.task.key.toNat ∨ task.key = p.task.key ∧ task.tcb.toNat < p.task.tcb.toNat) ∧
    let f (lo : Nat) : Nat := va.toNat / 2 ^ lo % 2 ^ 9
    p.sig.getLsbD (f 6 ^^^ f 15 ^^^ f 24 ^^^ f 33 ^^^ f 42) = true)

/-- R22: what an address names: the executing core's local store, another core's through its window, translated memory where it is
canonical for the context's format, or nothing; a core in reach is a worker of a cove granted. R68: the speculative buffer.
R145: the first failing check of an access: MISALIGNED, then ADDRESS for an address that names nothing, WINDOW for a core
out of reach, RESERVED for the first 2 KiB of a local store written, ADDRESS for the speculative buffer; a load, a store or an
atomic that fails a check raises its trap with the address in UTVAL and reads no queue. -/
def Obligations.AccessChecks : Prop :=
  (∀ (s : State) (x core : Nat) (a : Word),
     let n := a.toNat
     let half := if s.levelsOf x = 5 then 2 ^ 56 else 2 ^ 47
     let canonical : Prop := n < half ∨ 2 ^ 64 - half ≤ n
     let inWindow : Prop := 0xFE00000000000000 ≤ n ∧ n ≤ 0xFE000001FFFFFFFF
     (n < 0x18000 → s.window x core a = .store core n) ∧
     (inWindow → n % 2 ^ 17 < 0x18000 → s.window x core a = .store (n / 2 ^ 17 % 2 ^ 16) (n % 2 ^ 17)) ∧
     (inWindow → 0x18000 ≤ n % 2 ^ 17 → s.window x core a = .nothing) ∧
     (0x18000 ≤ n → ¬inWindow → canonical → s.window x core a = .translated) ∧
     (0x18000 ≤ n → ¬inWindow → ¬canonical → s.window x core a = .nothing)) ∧
  (∀ (s : State) (x c : Nat), s.reachable x c = true ↔
     c < 65536 ∧ ¬(c % 8 = 7 ∧ c / 256 % 8 = 7) ∧ ∃ k, s.ctx? x = some k ∧ c / 2048 * 32 + c % 256 / 8 ∈ k.record.coves) ∧
  (∀ (s : State) (x off n : Nat), s.specOff x off n = true ↔
     0x17000 < off + n ∧ off < 0x18000 ∧ ∃ k, s.ctx? x = some k ∧ k.record.flags.getLsbD 0 = true) ∧
  (∀ (s : State) (x core n : Nat) (a : Word) (write : Bool),
     (a.toNat % n ≠ 0 → s.accessTrap x core a n write = some (3, a)) ∧
     (a.toNat % n = 0 → s.window x core a = .nothing → s.accessTrap x core a n write = some (4, a)) ∧
     (a.toNat % n = 0 → s.window x core a = .translated → s.accessTrap x core a n write = none) ∧
     (∀ c off, a.toNat % n = 0 → s.window x core a = .store c off →
       (c ≠ core → s.reachable x c = false → s.accessTrap x core a n write = some (5, a)) ∧
       ((c = core ∨ s.reachable x c = true) →
         (write = true → off < 0x800 → s.accessTrap x core a n write = some (6, a)) ∧
         (write = false ∨ 0x800 ≤ off →
           s.accessTrap x core a n write = if s.specOff x off n then some (4, a) else none)))) ∧
  ((∀ (i : Instr) (r : LoadRow) (cause : Nat) (utval : Word) (s : State) (t : Thread), loadRow i = some r →
     Issues s t [r.base] r.write false → s.accessTrap t.ctx s.curCore (r.address s t) r.n false = some (cause, utval) →
     exec i s = .next (s.trap cause utval)) ∧
   (∀ (i : Instr) (r : StoreRow) (cause : Nat) (utval : Word) (s : State) (t : Thread), storeRow i = some r →
     Issues s t r.reads 0 false → s.accessTrap t.ctx s.curCore (r.address s t) r.n true = some (cause, utval) →
     exec i s = .next (s.trap cause utval)) ∧
   (∀ (i : Instr) (r : AtomicRow) (cause : Nat) (utval : Word) (s : State) (t : Thread), atomicRow i = some r →
     Issues s t r.reads r.rd true → s.accessTrap t.ctx s.curCore (r.address s t) r.n true = some (cause, utval) →
     exec i s = .next (s.trap cause utval)))

/-- R149, R150, R326: an atomic in the executing core's own local store: its whole next state, the old value in rd; one served
elsewhere parks its thread if it has a result, else takes a store-buffer entry; it waits for overlapping entries, for an overlapping
store that has missed the TLB (log entry 96) and for a free entry; peer memory serves none. -/
def Obligations.Atomics : Prop :=
  (∀ (i : Instr) (r : AtomicRow) (off : Nat) (s : State) (t : Thread), atomicRow i = some r → Retires s t →
     (∀ q ∈ r.reads, plainReg q = true) → plainReg r.rd = true → t.plain →
     Reaches s t (r.address s t) r.n true (.local s.curCore off) → s.localError s.curCore off r.n = none →
     let writes (u : State) : State := match (r.atomic s t).result (s.ownWord off r.n) with
       | some new => u.putOwn off r.n new
       | none => u
     exec i s = .next ((if r.rd = 0 then s.noting t.uid s.tick (.local s.curCore off) writes else writes s).beyond t
       (t.given (r.atomic s t).dest (s.ownWord off r.n)))) ∧
  (∀ (i : Instr) (r : AtomicRow) (s : State) (t : Thread), atomicRow i = some r → Retires s t →
     (∀ q ∈ r.reads, plainReg q = true) → plainReg r.rd = true → t.plain →
     (∀ tgt, Reaches s t (r.address s t) r.n true tgt → tgt.isOwn s.curCore = false →
       (s.peerTarget tgt = true → exec i s = .next (s.trap 4 (r.address s t))) ∧
       (s.peerTarget tgt = false → s.overlapping s.curCore tgt r.n ≠ [] ∨ s.missesOver s.curCore tgt r.n = true →
         exec i s = .next (s.retry t 14)) ∧
       (s.peerTarget tgt = false → s.overlapping s.curCore tgt r.n = [] → s.missesOver s.curCore tgt r.n = false →
         (r.rd ≠ 0 → exec i s = .next
           (s.asks t 3 (.data (.g r.rd r.n true)) (.atomic tgt (r.atomic s t) (r.address s t)))) ∧
         (r.rd = 0 → s.bufferBusy s.curCore = false → exec i s = .next ((s.send
           { s.packetOf t (.atomic tgt (r.atomic s t) (r.address s t)) with buffered := true }).beyond t t)) ∧
         (r.rd = 0 → s.bufferBusy s.curCore = true → exec i s = .next (s.retry t 14)))) ∧
     (Misses s t (r.address s t) r.n true → (r.rd ≠ 0 ∨ s.bufferBusy s.curCore = false) →
       exec i s = .next (s.asks t 12 (.translate (.atomic (r.atomic s t)) (r.address s t))
         (.tlbMiss (r.address s t) (.atomic (r.atomic s t))))))

/-- R149: what an atomic writes, on exact integers of its size; `cas` writes nothing unless the old value is the expected
one; `fadd` adds FP32 numbers, rounding to nearest even. -/
def Obligations.AtomicValues : Prop :=
  (∀ (a : Atomic) (old : Word), a.n = 4 ∨ a.n = 8 → a.op ≠ .fadd →
    a.result old = (atomicNew a.op a.n (old.toNat % 2 ^ (8 * a.n)) (a.b.toNat % 2 ^ (8 * a.n)) (a.e.toNat % 2 ^ (8 * a.n))).map
      (BitVec.ofNat 64)) ∧
  (∀ (a : Atomic) (old : Word), a.n = 4 → a.op = .fadd →
    a.result old = some (BitVec.ofNat 64
      (fp32.finish .rne (addExact 0 (fp32Val (BitVec.ofNat 32 old.toNat)) (fp32Val (BitVec.ofNat 32 a.b.toNat)))).1))

/-- R90, R91, R152: a fence ends once nothing of its thread's fenced set is undone, `fence.sc system` once it has reached
system scope, `fence.sc core` at once; till then it waits. It changes nothing else, but for `fence.le`'s mark of its step, behind
which the thread's engine commands see its stores (R91, log entry 14). -/
def Obligations.Fences : Prop :=
  ∀ (i : Instr) (scope : Nat) (s : State) (t : Thread), fenceScope i = some scope → Retires s t → s.heldBack t = false →
    exec i s = .next (if s.fencePasses t scope then
      s.beyond t (if i = .fenceLe then { t with leFence := s.tick + 1 } else t) else s.retry t 14)

/-! ## CSRs, traps, queue ports, retirement -/

/-- R153, R154, R86, R205: what a CSR instruction does: the moduli wait for the vector unit, and for what waits in the queues of
the cores that they reach for the same slot (log entry 40); a write that its CSR refuses raises ILLEGAL_CONFIG with the value in
UTVAL; a read of EBUD parks behind a request; else the write, if it makes one, and the old value in rd, if it reads; the old value is
that after the instruction's own operands were popped. R18, R108, R221, R246, R110: a per-thread CSR written reads back in its
writable bits and changes no other CSR and nothing outside its thread; SRSEED written with 0 becomes 1. R29, R31, R68, R243: which
values QCWRX, QCWUP, KMAPCFG and CMBCFG refuse. R27, R28, R31, R205, R243: what those CSRs, VQ0-VQ3 and VMU0-VMU3 read as when
written: a ring is then empty, the map's entries FREE with age 0, CMBCFG's clr clears the fill bits, and a modulus reaches every
member of a gang. -/
def Obligations.ControlRegisters : Prop :=
  (∀ (i : Instr) (r : CsrRow) (s : State) (t : Thread), csrRow i = some r → Issues s t r.reads r.write r.does_write →
     let old := s.csrOld t r.reads r.csr
     let new := r.new old (r.operand s t)
     let busy := 0x830 ≤ r.csr ∧ r.csr ≤ 0x837 ∧ (s.vectorBusy s.curCore t = true ∨
       ∃ d ∈ memberCores s.curCore t, ∃ q ∈ (s.core d).vqueue, q.slot = s.curSlot)
     (busy → exec i s = .next (s.retry t 11)) ∧
     (¬busy → r.does_write = true → s.csrRefuses t.ctx r.csr new = true → exec i s = .next (s.trap 2 new)) ∧
     (¬busy → (r.does_write = false ∨ s.csrRefuses t.ctx r.csr new = false) →
       (r.csr = 0xCC3 → r.does_read = true →
         exec i s = .next ((s.popPorts t r.reads).park 3 (.data (.g r.rd 8 false)) fun _ => .ebud)) ∧
       (r.csr ≠ 0xCC3 ∨ r.does_read = false →
         exec i s = .next (
           let s' := s.popPorts t r.reads
           let s' := if r.does_write then s'.onCur fun u => s'.csrWrite u r.csr new else s'
           if r.does_read then s'.finish r.rd old else s'.done))) ∧
     (readsOf 28 r.reads = 0 → readsOf 29 r.reads = 0 → old = s.csrRead t r.csr)) ∧
  (∀ (csr : Nat) (m v : Word) (s : State) (t : Thread), csrMask csr = some m → s.cur? = some t →
     ∃ u : Thread, s.csrWrite t csr v = s.setCur u ∧ (s.setCur u).csrRead u csr = v &&& m ∧
       (∀ other, other ≠ csr → (3 < csr ∨ 3 < other) → (s.setCur u).csrRead u other = s.csrRead t other) ∧
       u.g = t.g ∧ u.f = t.f ∧ u.p = t.p ∧ u.pc = t.pc ∧ u.park = t.park ∧ u.handler = t.handler) ∧
  (∀ (v : Word) (s : State) (t : Thread), s.cur? = some t →
     s.csrWrite t 0x800 v = s.setCur { t with srseed := if v = 0 then 1 else v }) ∧
  (∀ (s : State) (x n : Nat) (v : Word),
     ((n = 0x810 ∨ n = 0x811) → (s.csrRefuses x n v = true ↔ v.getLsbD 63 = true ∧ ¬ringFits (s.orderedOn x) v)) ∧
     (n = 0x8C0 → (s.csrRefuses x n v = true ↔ (∃ j, j < 64 ∧ (s.here.entry j).state ≠ .free) ∨
       (v.getLsbD 31 = true ∧ ¬mapFits (s.orderedOn x) v))) ∧
     (n = 0x829 → (s.csrRefuses x n v = true ↔ v.getLsbD 63 = true ∧ ¬combineFits (s.orderedOn x) v)) ∧
     (n ≠ 0x810 → n ≠ 0x811 → n ≠ 0x8C0 → n ≠ 0x829 → s.csrRefuses x n v = false)) ∧
  (∀ (v : Word) (s : State) (t : Thread), s.cur? = some t →
     let rx := s.csrWrite t 0x810 v
     let up := s.csrWrite t 0x811 v
     let map := s.csrWrite t 0x8C0 v
     let put := s.csrWrite t 0x829 v
     (s.queues.waiting = [] → rx.csrRead t 0x810 = v &&& 0x80000000003FFFC0 ∧ rx.queues.msgs = []) ∧
     up.csrRead t 0x811 = v &&& 0xBFFFFFFFFFFFFFC0 ∧ up.queues.up.count = 0 ∧ up.queues.refused = false ∧
     (v.getLsbD 63 = true → up.queues.credits = 0) ∧
     map.csrRead t 0x8C0 = v &&& 0x807FF1FF ∧ (∀ j, j < 64 → map.here.entry j = {}) ∧
     put = (if v.getLsbD 62 then s.setHere { s.here with mx := { s.here.mx with fills := [] } } else s).setCur
       { t with cmbcfg := (v &&& 0x9FFFFFFFFFFC0000) ||| (if v.getLsbD 61 then 0 else t.cmbcfg &&& 0x2000000000000000) } ∧
     (∀ l d, l < 4 → d ∈ memberCores s.curCore t →
       let q := s.csrWrite t (0x830 + l) v
       let mu := s.csrWrite t (0x834 + l) v
       (q.slot d s.curSlot).mod.qAt l = v ∧ (mu.slot d s.curSlot).mod.mu[l]? = some v ∧
       q.csrRead t (0x830 + l) = v ∧ mu.csrRead t (0x834 + l) = v))

/-- R247, R249, R134, R141, R157: what enters a handler: UEPC the PC, UCAUSE the cause, UTVAL its value, h set, the checker
suspended, the PC UTVEC's base, a gang that the thread leads broken; nothing else changes. R248: with UTVEC.en = 0, or on a fetch
fault at the handler's own first instruction, the task ends as faulted with the cause. R47, R263: what the break of a gang leaves: its
commands that have not started are gone from every member, those started and the units' state stay, the held slots are free, no other core
is touched; a fault or containment of a member raises GANGBREAK at the leader with the core, the code and the member, once. R249: an
asynchronous cause is recorded; a thread outside a handler that is parked is woken and its wait withdrawn, but not in a miss or a page
fault, nor once its request has taken effect: a message accepted, a range begun, an operation of a home that has changed something; data
that it has read and a refusal on the way back are no effect. A wait for a vector result that is withdrawn takes the draws of its command
back (R203; its flags: log entry 98). -/
def Obligations.TrapEntry : Prop :=
  (∀ (s : State) (t : Thread), Enters s t →
     (s.heldBack t = false → exec .ecall s = .next (s.enters t 7 0 0 false)) ∧
     (s.heldBack t = false → exec .ebreak s = .next (s.enters t 8 0 0 false)) ∧
     exec .illegalWord s = .next (s.enters t 1 0 (t.iword.zeroExtend 64) false) ∧
     ((t.handler = false ∨ t.pc ≠ BitVec.ofNat 64 (t.utvec.toNat / 4 * 4)) →
       exec .fetchFault s = .next (s.enters t 4 0 t.pc false)) ∧
     (∀ k rest, t.handler = false → t.pend.first = some (k, rest) → k.fetch = false →
       exec .asyncTrap s = .next (s.enters { t with pend := rest } k.cause k.sub k.utval k.async))) ∧
  (∀ (s : State) (t : Thread), s.cur? = some t → t.spec = none →
     (t.utvec.getLsbD 0 = false →
       (s.heldBack t = false → exec .ecall s = .next ((s.alone t).endThread s.curCore s.curSlot { t with gang := none } 5 7)) ∧
       (s.heldBack t = false → exec .ebreak s = .next ((s.alone t).endThread s.curCore s.curSlot { t with gang := none } 5 8)) ∧
       exec .illegalWord s = .next ((s.alone t).endThread s.curCore s.curSlot { t with gang := none } 5 1)) ∧
     ((t.utvec.getLsbD 0 = false ∨ (t.handler = true ∧ t.pc = BitVec.ofNat 64 (t.utvec.toNat / 4 * 4))) →
       exec .fetchFault s = .next ((s.alone t).endThread s.curCore s.curSlot { t with gang := none } 5 4))) ∧
  (∀ (s : State) (l size c dcode : Nat) (t : Thread), s.thread? l 15 = some t →
     let u := s.breakGang l
     let k := s.core c
     (t.gang = some size →
       u.thread? l 15 = some { t with gang := none } ∧
       (l ≤ c → c < l + size → let m := u.core c
         (∀ q, q ∈ m.vqueue ↔ q ∈ k.vqueue ∧ (ofGang l q.gang = false ∨ q.op.started = true)) ∧
         (∀ q, q ∈ m.mx.hiQueue ↔ q ∈ k.mx.hiQueue ∧ ofGang l q.gang = false) ∧
         (∀ q, q ∈ m.mx.loQueue ↔ q ∈ k.mx.loQueue ∧ ofGang l q.gang = false) ∧
         m.vflight = k.vflight ∧ m.v = k.v ∧ m.mem = k.mem ∧ m.mx.run = k.mx.run ∧ m.mx.acc = k.mx.acc ∧
         ((k.slot 15).occ = .held l → (m.slot 15).occ = .empty) ∧ ∀ i, i < 15 → m.slot i = k.slot i) ∧
       (¬(l ≤ c ∧ c < l + size) → c ≠ l → u.core c = k) ∧
       ∃ w : Word, w.toNat = (c * 2 ^ 16 + dcode * 2 ^ 8 + (c - l)) % 2 ^ 64 ∧
         s.breakGangBy l c dcode = u.raise l 15 fun p => { p with gangBreak := some (p.gangBreak.getD w) }) ∧
     (t.gang = none → u = s ∧ s.breakGangBy l c dcode = s)) ∧
  (∀ (s : State) (c i : Nat) (t : Thread) (f : Pending → Pending), s.thread? c i = some t →
     let u : Thread := { t with pend := f t.pend }
     let parked (n : Nat) : Prop := ∃ w, t.park = .await n w
     (t.handler = true ∨ parked 12 ∨ (∃ n, parked n) ∧ s.answered t.uid = true → s.raise c i f = s.setThread c i u) ∧
     (t.handler = false → (∀ n, ¬parked n) → s.raise c i f = s.setThread c i { u with park := .none }) ∧
     (∀ n w, t.handler = false → n ≠ 12 → t.park = .await n w → s.answered t.uid = false →
       s.raise c i f = (s.withdraw t.uid).setThread c i { u with
         park := .none
         srseed := match w with
           | .vector _ _ seed => seed
           | _ => t.srseed })) ∧
  (∀ (s : State) (uid : Nat), s.answered uid = true ↔ ∃ p ∈ s.net, p.uid = uid ∧
     ((∃ v, p.kind = .reply (.value v)) ∨ (∃ cur last n, n ≠ 0 ∧ p.kind = .reply (.claim cur last n)) ∨ p.kind = .messageReply true ∨
       ∃ c first words full va, p.kind = .remoteFe c first words full va true))

/-- R158: `tret` goes to UEPC with h clear. One that ends a handler resumes the checker and folds nothing; one outside a
handler is a control transfer. A misaligned UEPC raises MISALIGNED; a pending cause is taken at once (R249). -/
def Obligations.TrapReturns : Prop :=
  ∀ (s : State) (t : Thread), Issues s t [] 0 true →
    (t.uepc.toNat % 4 ≠ 0 → exec .tret s = .next (s.trap 3 t.uepc)) ∧
    (t.uepc.toNat % 4 = 0 → t.checker.suspended = true →
      exec .tret s = .next ((s.setCur { t with
        pc := t.uepc, handler := false, park := .none, fetched := none
        checker := { t.checker with suspended := false } }).takeAsync
          s.curCore s.curSlot)) ∧
    (t.uepc.toNat % 4 = 0 → t.checker.suspended = false → (s.checking t = true → t.checker.pending = false) →
      exec .tret s = .next ((s.setCur (({ t with handler := false } : Thread).after t.uepc true (s.checking t))).takeAsync
        s.curCore s.curSlot))

/-- R25-R27: an instruction that names a queue port waits for the words it reads and the credit it spends; a disabled queue
raises QUEUE_OFF with the register number, a refused chain MSG_REFUSED with the TID (shown for ADD; every instruction with
register operands issues through the same checks); `qrx` and `qup` read the oldest words and pop them, a word of the chain sends
one credit upstream; `qdn` reads as the credits held, and a write spends one and sends the word behind the earlier ones. That the wait
for words comes before the trap for another port that is disabled is the model's choice (log entry 85).
R147: a load, a store and an atomic that names a port as its base, its data or its destination: the words read are popped, the base
first, and the destination discards the value, or sends it downstream. The order behind an earlier store of the core that has missed
the TLB rests on log entry 96. -/
def Obligations.QueuePorts : Prop :=
  (∀ (rd a b : Reg) (s : State) (t : Thread), s.cur? = some t →
     (∀ cause, s.portWait [a, b] rd = some cause → exec (.add rd a b) s = .next (s.retry t cause)) ∧
     (∀ cause utval, s.portWait [a, b] rd = none → s.readTrap [a, b] = some (cause, utval) →
       exec (.add rd a b) s = .next (s.trap cause utval)) ∧
     (∀ cause utval, s.portWait [a, b] rd = none → s.readTrap [a, b] = none → s.writeTrap rd = some (cause, utval) →
       exec (.add rd a b) s = .next (s.trap cause utval))) ∧
  (∀ (s : State) (t : Thread) (before : List Reg),
     s.readg t before 28 = s.here.mem.load (s.queues.rx.base.toNat * 32 + 8 * ((s.queues.rx.head + (before.filter (· = 28)).length) % 2 ^ s.queues.rx.lg.toNat)) 8 ∧
     s.readg t before 29 = s.here.mem.load (s.queues.up.base.toNat * 32 + 8 * ((s.queues.up.head + (before.filter (· = 29)).length) % 2 ^ s.queues.up.lg.toNat)) 8 ∧
     s.readg t before 30 = BitVec.ofNat 64 s.queues.credits ∧
     (s.curSlot < 16 → s.queues.waiting = [] → ∀ (a : Reg),
       ((s.popPorts t [a]).queues.rx = if a = 28 then s.queues.rx.pop 1 else s.queues.rx) ∧
       ((s.popPorts t [a]).queues.up = if a = 29 then s.queues.up.pop 1 else s.queues.up) ∧
       ((s.popPorts t [a]).net = if a = 29 then s.net ++ [{ s.packetOf t (.creditGrant s.queues.upTid.toNat 1) with id := s.serial, issued := s.tick }]
         else s.net))) ∧
  (∀ (v : Word) (s : State) (t : Thread), s.cur? = some t →
     s.writeg s.curCore s.curSlot 30 v =
       ((s.setSlot s.curCore s.curSlot { s.slot s.curCore s.curSlot with
         q := { s.queues with credits := s.queues.credits - 1 } }).send
         { s.packetOf t (.push s.queues.dnTid.toNat s.curTid v) with
           after := (s.net.filter fun p => match p.kind with
             | .push d f _ => d = s.queues.dnTid.toNat && f = s.curTid
             | _ => false).map fun p => p.id })) ∧
  (∀ (i : Instr) (r : LoadRow) (s : State) (t : Thread), loadRow i = some r → Issues s t [r.base] r.write false → t.plain →
     let s' := s.popPorts t [r.base]
     (∀ off, Reaches s t (r.address s t) r.n false (.local s.curCore off) → s.localError s.curCore off r.n = none →
       exec i s = .next (s'.loaded s.curCore s.curSlot r.dest (s'.ownWord off r.n))) ∧
     (∀ tgt, Reaches s t (r.address s t) r.n false tgt → tgt.isOwn s.curCore = false → s.forward s.curCore tgt r.n = .none →
       exec i s = .next (s'.park (loadCause tgt) (.data r.dest) fun _ => loadKind tgt r.n (r.address s t)))) ∧
  (∀ (c i : Nat) (d : Dest) (v : Word) (s : State), s.loaded c i d v = (match d with
     | .none => s
     | .g rd n true => s.writeg c i rd (wide ((v.toNat : Int).bmod (2 ^ (8 * n))))
     | .g rd n false => s.writeg c i rd (lowBytes v n)
     | .f rd => s.onThread c i fun u => u.setF rd (BitVec.ofNat 32 v.toNat)).retire c i) ∧
  (∀ (i : Instr) (r : StoreRow) (s : State) (t : Thread), storeRow i = some r → Issues s t r.reads 0 false → t.plain →
     let s' := s.popPorts t r.reads
     (∀ off, Reaches s t (r.address s t) r.n true (.local s.curCore off) →
       exec i s = .next (s'.noting t.uid s.tick (.local s.curCore off) fun u =>
         u.storeLocal t.ctx s.curCore off r.n (r.value s t)).done) ∧
     (∀ tgt, Reaches s t (r.address s t) r.n true tgt → tgt.isOwn s.curCore = false → s.bufferBusy s.curCore = false →
       s.missesOver s.curCore tgt r.n = false → exec i s = .next (s'.send { s.packetOf t (.store tgt r.n (r.value s t)) with
         buffered := true, after := (s'.overlapping s.curCore tgt r.n).map fun p => p.id }).done)) ∧
  (∀ (i : Instr) (r : AtomicRow) (s : State) (t : Thread), atomicRow i = some r → Issues s t r.reads r.rd true → t.plain →
     let s' := s.popPorts t r.reads
     (∀ off, Reaches s t (r.address s t) r.n true (.local s.curCore off) → s.localError s.curCore off r.n = none →
       let old := s'.ownWord off r.n
       let writes (u : State) : State := match (r.atomic s t).result old with
         | some new => u.putOwn off r.n new
         | none => u
       exec i s = .next ((if r.rd = 0 then s'.noting t.uid s.tick (.local s.curCore off) writes else writes s').loaded
         s.curCore s.curSlot (r.atomic s t).dest old)) ∧
     (∀ tgt, Reaches s t (r.address s t) r.n true tgt → tgt.isOwn s.curCore = false → s.peerTarget tgt = false →
       s.overlapping s.curCore tgt r.n = [] → s.missesOver s.curCore tgt r.n = false →
       (r.rd ≠ 0 → exec i s = .next
         (s'.park 3 (.data (r.atomic s t).dest) fun _ => .atomic tgt (r.atomic s t) (r.address s t))) ∧
       (r.rd = 0 → s.bufferBusy s.curCore = false → exec i s = .next (s'.send
         { s.packetOf t (.atomic tgt (r.atomic s t) (r.address s t)) with buffered := true }).done)))

/-- R190, R191: what retiring changes: the PC, the wait, the word of the fetch and the checker's fold, and nothing else; a retirement
while the checker waits for a block signature is a silent error (R262). R190: the fold of a word. -/
def Obligations.Retirement : Prop :=
  (∀ (rd : Reg) (v : Word) (s : State) (t : Thread), Retires s t → rd ≠ 30 → s.finish rd v = s.beyond t (t.setG rd v)) ∧
  (∀ (s : State) (t : Thread), Retires s t → s.done = s.beyond t t) ∧
  (∀ (pc : Word) (s : State) (t : Thread), Retires s t → s.goTo pc = s.setCur (t.after pc true (s.checking t))) ∧
  (∀ (pc : Word) (s : State) (t : Thread), s.cur? = some t → s.checking t = true → t.checker.pending = true →
    s.done = s.silentError t.ctx s.curCore ∧ s.goTo pc = s.silentError t.ctx s.curCore) ∧
  (∀ (k : Checker) (w : BitVec 32) (transfer : Bool), k.foldWord w transfer =
    { k with fold := k.fold.rotateLeft 3 ^^^ BitVec.ofNat 32 (folded w), pending := k.pending || transfer })

/-! ## What the other instructions do once they issue

Each statement gives the act of every form: the traps and waits that it finds at issue, in the spec's order, and else its
effect, with the queue words it has read popped. -/

/-- R160-R163, R65: a migration parks its thread to depart, `ldf` loads or brings the thread to the word's core, `texit` and
`tretry` end the thread; R45, R173: `gang` and `ungang`; R189-R192: `bsig` and `ckpt`. R54, R63, R67, R171, R174, R175: `tspawn`,
`twait`, the group instructions and `itclaim` check their object's address and park for its home's reply; `tdec` takes a
store-buffer entry behind what it releases; `itnext` hands out one iteration or branches. The trap for an address that names nothing
or a hole (log entry 32), the order behind overlapping buffered stores (log entry 33) and `gang`'s code for a sealed follower (log
entry 31) are the model's, and so are `tdec`'s wait for an earlier store of its core that has missed the TLB and will overlap the TCB
(log entry 96) and its broadcast of the TCB's line (log entry 28). R45: what `gang` answers: 2 for a size, slot, place, context or
member that allows no gang, else 1 where a follower's slot 15 is not empty, else 0. R46: a formed gang: the leader marked with its size,
the followers' slots 15 held, nothing else changed. R62, R70: the end of a thread: its slot left, and its task's end on its way behind
the stores released; a speculative one leaves its part of the buffer behind, to commit. -/
def Obligations.ThreadEffects : Prop :=
  (∀ (i : Instr) (r : ActRow) (s : State) (t : Thread), threadRow i = some r → Issues s t r.reads r.write r.once →
     exec i s = .next ((r.act s t).leaves s t r.reads)) ∧
  (∀ (i : Instr) (r : ActRow) (s : State) (t : Thread), taskRow i = some r → Issues s t r.reads r.write r.once →
     exec i s = .next ((r.act s t).leaves s t r.reads)) ∧
  (∀ (s : State) (c i : Nat) (t : Thread) (size : Word),
     let n := size.toNat
     let member (d : Nat) : Prop := c ≤ d ∧ d < c + n
     let ineligible : Prop := n ∉ [2, 4, 8] ∨ i ≠ 15 ∨ c % 8 % n ≠ 0 ∨ t.gang.isSome = true ∨
       (∀ k, s.ctx? t.ctx = some k → k.record.tpc ≠ 16) ∨ ∃ d, member d ∧ d % 8 = 7 ∧ d / 256 % 8 = 7
     let taken : Prop := ∃ d, member d ∧ d ≠ c ∧ ((s.slot d 15).occ ≠ .empty ∨ (s.core d).sealed = true)
     (ineligible → s.gangCode c i t size = 2) ∧ (¬ineligible → taken → s.gangCode c i t size = 1) ∧
     (¬ineligible → ¬taken → s.gangCode c i t size = 0)) ∧
  (∀ (s : State) (c n : Nat) (t : Thread), s.thread? c 15 = some t →
     let u := s.formGang c n
     u.thread? c 15 = some { t with gang := some n } ∧ (∀ i, i ≠ 15 → (u.core c).slot i = (s.core c).slot i) ∧
     (∀ d, c < d → d < c + n → (u.slot d 15).occ = .held c ∧ ∀ i, i ≠ 15 → (u.core d).slot i = (s.core d).slot i) ∧
     (∀ d, d ≠ c → (d < c ∨ c + n ≤ d) → u.core d = s.core d) ∧
     { u with cores := s.cores } = s) ∧
  (∀ (s : State) (c i : Nat) (t : Thread), s.thread? c i = some t →
     (∀ status cause, s.endThread c i t status cause = (s.leave c i).send { partPacket t.task.ctx c 0
       (.ended t.task status cause c (coveOf c)) with after := s.fenced t }) ∧
     (t.spec = none → s.exitThread c i t = s.endThread c i t 4 0) ∧
     (∀ j p, t.spec = some j → (s.core c).spec[j]? = some (some p) → s.exitThread c i t =
       (({ s with serial := s.serial + 1 } : State).setCore c { s.core c with
         spec := (s.core c).spec.setIfInBounds j (some { p with ended := true, uid := s.serial, after := s.fenced t }) }).leave c i))

/-- R165-R167: `msend` and `msendr` send a message and park; `mpoll` reads the oldest header, a free value where it is partly
popped (log entry 13). R197, R198, R238: `vfence` and `mwait` wait for their unit and report its deferred fault; R236: `mcmd`
reads a descriptor of 32 bytes and sends it. -/
def Obligations.MessageEffects : Prop :=
  (∀ (i : Instr) (r : ActRow) (s : State) (t : Thread), messageRow i = some r → Issues s t r.reads r.write r.once →
     exec i s = .next ((r.act s t).leaves s t r.reads)) ∧
  (∀ (i : Instr) (r : ActRow) (s : State) (t : Thread), unitRow i = some r → Issues s t r.reads r.write r.once →
     exec i s = .next ((r.act s t).leaves s t r.reads))

/-- R168, R169: every key-map instruction: its step on the map of the core, its result word, the waiters it wakes.
R176-R178: the arrival counters' instructions; the excess that `acwait` returns is kept until it is read or posted
(log entry 8), and a trigger's TCB is checked and translated as a `tspawn`'s is, and found afresh by the decrement
(log entry 33). R179-R185: `ldsync`, `ldsync.c`, `feset`, `feclr`, and the four forms of `copy` at issue: a word of
the own core joins the waiters at once (log entry 18), a range of the own core is marked 64 words a cycle (log entry
95), a length of 0 is accepted (log entry 34). R34-R37: what each step of the map answers and makes of the entries, by
the rows of R35 in their order, and what it wakes. R181, R184: the checks of `feset` and `feclr`, and of the four copies, in their
order, with UTVAL; which range's address a trap of a copy names is log entry 79, and that a trigger's TCB at an
address that names nothing raises ADDRESS is log entry 32. -/
def Obligations.CoreUnitEffects : Prop :=
  (∀ (s : State) (t : Thread) (b len : Word),
     let n := len.toNat
     let c := s.curCore
     (b.toNat % 8 ≠ 0 ∨ n % 8 ≠ 0 → s.feTrap t b len = some (3, b)) ∧
     (b.toNat % 8 = 0 → n % 8 = 0 →
       (2 ^ 17 ≤ n → s.feTrap t b len = some (4, b)) ∧
       ((s.window t.ctx c b = .nothing ∨ s.window t.ctx c b = .translated) → s.feTrap t b len = some (4, b)) ∧
       (∀ d off, n < 2 ^ 17 → s.window t.ctx c b = .store d off →
         (0x18000 < off + n ∨ 0 < n ∧ s.specOff t.ctx off n = true → s.feTrap t b len = some (4, b)) ∧
         (off + n ≤ 0x18000 → n = 0 ∨ s.specOff t.ctx off n = false →
           s.feTrap t b len = if d ≠ c ∧ s.reachable t.ctx d = false then some (5, b) else none)))) ∧
  (∀ (s : State) (t : Thread) (form : CopyForm) (d src len tcb : Word),
     let n := len.toNat
     let range (a : Word) := s.rangeTrap t.ctx s.curCore a n
     let traps (cause : Nat) (utval : Word) : Prop := s.copyTrap t form d src len tcb = some (cause, utval)
     (d.toNat % 8 ≠ 0 → traps 3 d) ∧ (d.toNat % 8 = 0 → src.toNat % 8 ≠ 0 → traps 3 src) ∧
     (d.toNat % 8 = 0 → src.toNat % 8 = 0 →
       (n % 8 ≠ 0 → traps 3 len) ∧
       (n % 8 = 0 → 2 ^ 32 ≤ n → traps 2 len) ∧
       (n % 8 = 0 → n < 2 ^ 32 →
         (∀ cause utval, range d = some (cause, utval) → traps cause utval) ∧
         (∀ cause utval, range d = none → range src = some (cause, utval) → traps cause utval) ∧
         (range d = none → range src = none →
           (∀ c off, s.window t.ctx s.curCore d = .store c off → 0 < n → off < 0x800 → traps 6 d) ∧
           (s.window t.ctx s.curCore d = .translated → form = .fe → traps 4 d) ∧
           ((∀ c off, s.window t.ctx s.curCore d = .store c off → n = 0 ∨ 0x800 ≤ off) →
             (s.window t.ctx s.curCore d = .translated → form ≠ .fe) →
             s.copyTrap t form d src len tcb = if form = .tk then s.tcbTrap t.ctx s.curCore tcb else none))))) ∧
  (∀ (s : State) (x core n : Nat) (a : Word), n < 2 ^ 32 →
     (s.window x core a = .nothing → s.rangeTrap x core a n = some (4, a)) ∧
     (s.window x core a = .translated → let last := a + BitVec.ofNat 64 (n - 1)
       s.rangeTrap x core a n = if s.window x core last = .translated ∧ a.toNat ≤ last.toNat then none else some (4, a)) ∧
     (∀ c off, s.window x core a = .store c off →
       (0x18000 < off + n → s.rangeTrap x core a n = some (4, a)) ∧
       (off + n ≤ 0x18000 → c ≠ core → s.reachable x c = false → s.rangeTrap x core a n = some (5, a)) ∧
       (off + n ≤ 0x18000 → c = core ∨ s.reachable x c = true →
         s.rangeTrap x core a n = if 0 < n ∧ s.specOff x off n = true then some (4, a) else none))) ∧
  (∀ (s : State) (x core : Nat) (a : Word),
     (a.toNat % 64 ≠ 0 → s.tcbTrap x core a = some (3, a)) ∧
     (a.toNat % 64 = 0 → a.toNat < 0x18000 ∨ 0xFE00000000000000 ≤ a.toNat ∧ a.toNat ≤ 0xFE000001FFFFFFFF →
       s.tcbTrap x core a = some (14, a)) ∧
     (a.toNat % 64 = 0 → s.window x core a = .translated → s.tcbTrap x core a = none) ∧
     (a.toNat % 64 = 0 → ¬(0xFE00000000000000 ≤ a.toNat ∧ a.toNat ≤ 0xFE000001FFFFFFFF) → s.window x core a = .nothing →
       s.tcbTrap x core a = some (4, a))) ∧
  (∀ (i : Instr) (r : ActRow) (s : State) (t : Thread), keyRow i = some r → Issues s t r.reads r.write r.once →
     exec i s = .next ((r.act s t).leaves s t r.reads)) ∧
  (∀ (i : Instr) (r : ActRow) (s : State) (t : Thread), counterRow i = some r → Issues s t r.reads r.write r.once →
     exec i s = .next ((r.act s t).leaves s t r.reads)) ∧
  (∀ (i : Instr) (r : ActRow) (s : State) (t : Thread), syncCopyRow i = some r → Issues s t r.reads r.write r.once →
     exec i s = .next ((r.act s t).leaves s t r.reads)) ∧
  (∀ (k : Core) (n : Nat) (key : Word), n ≤ 64 →
     (∀ pin, key = 0 → (k.look n key pin).Gives k 13 0 0 k.entry) ∧
     (∀ pin, key ≠ 0 → k.lacks n key → (k.look n key pin).Gives k 1 0 0 k.entry) ∧
     (∀ i, key ≠ 0 → k.Holds n key i →
       let e := k.entry i
       (∀ pin, e.state = .pending → (k.look n key pin).Gives k 3 i 0 k.entry) ∧
       (e.state = .bound → (k.look n key false).Gives k 0 i e.pin (k.entriesAged i e)) ∧
       (e.state = .bound → e.pin < 63 →
         (k.look n key true).Gives k 0 i (e.pin + 1) (k.entriesAged i { e with pin := e.pin + 1 })) ∧
       (e.state = .bound → e.pin = 63 → (k.look n key true).Gives k 8 i 63 (k.entriesAged i e)))) ∧
  (∀ (k : Core) (n : Nat) (key slot : Word) (tid : Nat), n ≤ 64 →
     let i := slot.toNat
     let e := k.entry i
     let shown := if e.state = .bound then e.pin else 0
     (n ≤ i → (k.claim n key slot tid).Gives k 12 0 0 k.entry ∧ (k.bind n slot tid).Gives k 12 0 0 k.entry ∧
       (k.abandon n slot tid).Gives k 12 0 0 k.entry ∧ (k.pinSlot n slot).Gives k 12 0 0 k.entry ∧
       (k.unpinSlot n slot).Gives k 12 0 0 k.entry ∧ (k.unbindSlot n slot).Gives k 12 0 0 k.entry) ∧
     (i < n →
       (key = 0 → (k.claim n key slot tid).Gives k 13 0 0 k.entry) ∧
       (∀ j, key ≠ 0 → k.Holds n key j →
         ((k.entry j).state = .bound → (k.claim n key slot tid).Gives k 0 j (k.entry j).pin (k.entriesAged j (k.entry j))) ∧
         ((k.entry j).state = .pending → (k.claim n key slot tid).Gives k 3 j 0 k.entry)) ∧
       (key ≠ 0 → k.lacks n key → e.state = .free → (k.claim n key slot tid).Gives k 2 i 0
         (k.entriesWith i { e with key, state := .pending, owner := tid, pin := 0 })) ∧
       (key ≠ 0 → k.lacks n key → e.state ≠ .free → (k.claim n key slot tid).Gives k 5 i shown k.entry) ∧
       (e.state = .pending → e.owner = tid →
         (k.bind n slot tid).Gives k 4 i 0 (k.entriesAged i { e with state := .bound, pin := 0 }) (some i) ∧
         (k.abandon n slot tid).Gives k 4 i 0 (k.entriesWith i { age := e.age }) (some i)) ∧
       (e.state ≠ .pending ∨ e.owner ≠ tid →
         (k.bind n slot tid).Gives k 6 i shown k.entry ∧ (k.abandon n slot tid).Gives k 6 i shown k.entry) ∧
       (e.state ≠ .bound → (k.pinSlot n slot).Gives k 9 i 0 k.entry ∧ (k.unpinSlot n slot).Gives k 9 i 0 k.entry ∧
         (k.unbindSlot n slot).Gives k 9 i 0 k.entry) ∧
       (e.state = .bound →
         (e.pin < 63 → (k.pinSlot n slot).Gives k 4 i (e.pin + 1) (k.entriesWith i { e with pin := e.pin + 1 })) ∧
         (e.pin = 63 → (k.pinSlot n slot).Gives k 8 i 63 k.entry) ∧
         (0 < e.pin → (k.unpinSlot n slot).Gives k 4 i (e.pin - 1) (k.entriesWith i { e with pin := e.pin - 1 }) none true ∧
           (k.unbindSlot n slot).Gives k 7 i e.pin k.entry) ∧
         (e.pin = 0 → (k.unpinSlot n slot).Gives k 10 i 0 k.entry ∧
           (k.unbindSlot n slot).Gives k 4 i 0 (k.entriesWith i { age := e.age }) none true)))) ∧
  (∀ (k : Core) (n i : Nat), n ≤ 64 →
     (i < n → (k.entry i).state = .free → (∀ j, j < i → (k.entry j).state ≠ .free) → (k.victim n).Gives k 4 i 0 k.entry) ∧
     ((∀ j, j < n → (k.entry j).state ≠ .free) →
       (k.Oldest n i → (k.victim n).Gives k 0 i 0 k.entry) ∧
       ((∀ j, j < n → (k.entry j).state = .bound → (k.entry j).pin ≠ 0) → (k.victim n).Gives k 11 0 0 k.entry))) ∧
  (∀ (s : State) (c i slot cause : Nat) (rd : Reg) (t : Thread), s.thread? c i = some t → plainReg rd = true →
     (s.checking t = true → t.checker.pending = false) →
     let goesOn (v : Word) : State := s.setThread c i ((t.setG rd v).after (t.pc + 4) false (s.checking t))
     (t.park = .await cause (.kwait rd slot) →
       (∀ j u r, j ≠ i → s.thread? c j = some u → u.waits ≠ some (.kwait r slot)) →
       ((s.core c).entry slot).state ≠ .pending →
       s.wakeSlot c slot = goesOn (if ((s.core c).entry slot).state = .bound then statusWord 0 slot ((s.core c).entry slot).pin
         else statusWord 1 0 0)) ∧
     (t.park = .await cause (.kwaitU rd) → (∀ j u r, j ≠ i → s.thread? c j = some u → u.waits ≠ some (.kwaitU r)) →
       s.wakeUnpin c = goesOn (statusWord 4 0 0)))

/-- R194, R201-R217: every vector instruction at issue: its check, its rounding mode and draws, its wait for room, the command
that every member of the gang receives, and the thread's own wait for a result. R12: it waits for room whatever ports it names,
once their words are there; that it does so before a trap for one that is disabled, and before a speculative task's wait, is log entry 85. -/
def Obligations.VectorIssue : Prop :=
  (∀ (i : Instr) (r : VectorRow) (s : State) (t : Thread), vectorRow i = some r → Issues s t r.reads r.write true →
    exec i s = .next ((r.act s t).leaves s t r.reads)) ∧
  (∀ (i : Instr) (r : VectorRow) (s : State) (t : Thread), vectorRow i = some r → s.cur? = some t →
    s.portWait r.reads r.write = none → r.act s t = .notReady 11 → exec i s = .next (s.retry t 11))

/-- R222, R227-R244: every matrix, top-k and combine instruction at issue; a stochastic `mrd` draws 256 values, which every member of a
gang uses (log entry 37). R12, R222: one whose queue is full waits whatever ports it names, once their words are there; that it does so
before a trap for one that is disabled, and before a speculative task's wait, is log entry 85. R194, R222: where a thread leads no gang,
a vector or a matrix command goes to the end of its core's queue and changes nothing else. -/
def Obligations.MatrixIssue : Prop :=
  (∀ (i : Instr) (r : MatrixRow) (s : State) (t : Thread), matrixRow i = some r → Issues s t r.reads 0 true →
     exec i s = .next ((r.act s t).leaves s t r.reads)) ∧
  (∀ (i : Instr) (r : MatrixRow) (s : State) (t : Thread), matrixRow i = some r → s.cur? = some t →
     s.portWait r.reads 0 = none → r.act s t = .notReady 11 → exec i s = .next (s.retry t 11)) ∧
  (∀ (s : State) (t : Thread), t.gang = none →
     (∀ op : Nat → VOp, s.pushVector t op =
       { s.setHere { s.here with vqueue := s.here.vqueue ++ [{
           ctx := t.ctx, slot := s.curSlot, uid := t.uid, pc := t.pc, serial := s.serial, issued := s.issueOf t, op := op 0 }] } with
         serial := s.serial + 1 }) ∧
     (∀ op : MOp, s.pushMatrix t op =
       let q : MCmd := { ctx := t.ctx, slot := s.curSlot, uid := t.uid, pc := t.pc, high := t.mpri.getLsbD 0, issued := s.issueOf t, op }
       s.setHere { s.here with mx := if t.mpri.getLsbD 0 then { s.here.mx with hiQueue := s.here.mx.hiQueue ++ [q] }
         else { s.here.mx with loQueue := s.here.mx.loQueue ++ [q] } }))

/-! ## Events: data, memory, tasks, messages, threads -/

/-- DATA_RETURN, REMOTE_ACCESS: a fetched line enters the instruction buffer (R141); a load, a reply and the error budget
reach their thread, which goes on (R85, R86, R145), a load of a notify page with the register read by an aligned load of 8 bytes, or
0 (R343, log entry 61); a poisoned one contains its core (R260); another core serves a load, a
full-empty load and a range at the local store (R79, R180, R181), a sealed one answers with a trap. R85, R323: what a check of data read
finds by the error and the class, and its charge. R261: the budget; the last of it raises EBUDGET or kills the context (log entry 102).
R69: to a speculative task a load brings the words that it has buffered in place of memory's. R329: the report names the access that met
the error; its address and kind are log entry 113. That a check removes a correctable error which it has met is the
model's choice (log entry 22). R181: 64 words of a range at a time (log entry 95).
R260: what containment leaves: the core sealed, its engines, slots and buffers empty, each of its tasks back to ready or faulted. -/
def Obligations.DataEvents : Prop :=
  (∀ (s s' : State) (p : Packet) (t : Thread), s'.sender? p = some t →
    (∀ va pa cause w, Brings s p (.fetch va pa) → s.exclusive pa = false → t.park = .await cause w →
      s.checkPhys p.ctx p.core (pa / 64 * 64) 64 va 4 = (.ok, s') →
      let line : ILine := { ctx := p.ctx, va := va.toNat / 64 * 64, bytes := s'.phys.bytes (pa / 64 * 64) 64 }
      exec .dataReturn s = .next (((s'.dropPacket p.id).setCore p.core ((s'.core p.core).addLine line)).setSender p
        { t with park := .none, fetched := some (va, line.word va) }).flush) ∧
    (∀ pa n va dest cause, Brings s p (.load pa n va) → n ≤ 8 → s.exclusive pa = false →
      t.park = .await cause (.data dest) → s.checkPhys p.ctx p.core pa n va = (.ok, s') →
      let v := match s'.notify? pa with
        | some (x, off) => if n = 8 then (s'.pageAt x).word (s'.queueOpen x) off else 0
        | none => s'.phys.load pa n
      exec .dataReturn s = .next ((s'.dropPacket p.id).loaded p.core p.slot dest (if t.spec = none then v
        else overlay (s'.specWords p.core t) (.phys pa) n v)).flush) ∧
    (∀ pa n va cause w, Brings s p (.load pa n va) → s.exclusive pa = false → t.park = .await cause w →
      s.checkPhys p.ctx p.core pa n va = (.mismatch, s') →
      exec .dataReturn s = .next ((s'.dropPacket p.id).trapAt p.core p.slot { cause := 19, utval := va }).flush) ∧
    (∀ pa n va cause w, Brings s p (.load pa n va) → s.exclusive pa = false → t.park = .await cause w →
      s.checkPhys p.ctx p.core pa n va = (.poison, s') →
      exec .dataReturn s = .next ((s'.dropPacket p.id).contain p.core).flush) ∧
    (∀ pa n va check, Brings s p (.load pa n va) → s.exclusive pa = false → (∀ cause w, t.park ≠ .await cause w) →
      s.checkPhys p.ctx p.core pa n va = (check, s') → exec .dataReturn s = .next (s'.dropPacket p.id).flush)) ∧
  (∀ (g : Page) (admits : Bool) (off : Nat),
    (g.word admits 0x00).toNat = g.tail.toNat ∧ (g.word admits 0x08).toNat = g.shead.toNat ∧
    (g.word admits 0x10).toNat = g.ctail.toNat + 2 ^ 16 * g.cphase.toNat ∧ (g.word admits 0x18).toNat = g.chead.toNat ∧
    (g.word admits 0x20).toNat =
      admits.toNat + 2 * g.torn.toNat + 4 * g.killed.toNat + 2 ^ 8 * g.cause.toNat + 2 ^ 32 * g.ignored.toNat ∧
    (off ∉ [0x00, 0x08, 0x10, 0x18, 0x20] → g.word admits off = 0)) ∧
  (∀ (s : State) (x core pa n : Nat) (va : Word) (kind : BitVec 4),
    let met (e : ErrorKind) : Prop := ∃ u, (u, e) ∈ s.errors ∧ pa / 64 ≤ u ∧ u ≤ (pa + n - 1) / 64
    let check := s.checkPhys x core pa n va kind
    let charged (event : Nat) : State := (s.charge x).logError x va event (s.classAt pa) core kind
    0 < n →
    (s.isStray pa = true → check = (.poison, s.strayed)) ∧
    (s.isStray pa = false →
      ((∀ e, ¬met e) ∨ s.classAt pa = 2 → check = (.ok, s)) ∧
      ((∃ e, met e) → s.classAt pa = 1 → check = (.mismatch, charged 2)) ∧
      (met .uncorrectable → s.classAt pa ≠ 1 → s.classAt pa ≠ 2 → check = (.poison, charged 1)) ∧
      (met .correctable → ¬met .uncorrectable → s.classAt pa = 0 → ∃ errors, check = (.ok, { charged 0 with errors }) ∧
        ∀ u e, (u, e) ∈ errors ↔ (u, e) ∈ (charged 0).errors ∧ ¬(e = .correctable ∧ pa / 64 ≤ u ∧ u ≤ (pa + n - 1) / 64)))) ∧
  (∀ (s : State) (x event cls unit : Nat) (addr : Word) (kind : BitVec 4), event < 8 →
    let n (k : Ctx) : BitVec 32 := (k.events[event]?).getD 0
    let counted : State := match s.ctx? x with
      | some k => s.setCtx x { k with events := k.events.setIfInBounds event (if n k = 0xFFFFFFFF then n k else n k + 1) }
      | none => s
    s.logError x addr event cls unit kind = if s.fu.errlog then
      ({ counted with fu := { s.fu with errors := s.fu.errors ++ [{ ctx := x, addr, event, cls, unit, kind }] } } : State).flushFaults
    else counted) ∧
  (∀ (s : State) (x : Nat) (k : Ctx), s.ctx? x = some k →
    let less := s.setCtx x { k with ebud := k.ebud - 1 }
    (k.ebud = 0 → s.charge x = s) ∧ (1 < k.ebud.toNat → s.charge x = less) ∧
    (k.ebud = 1 → (∀ q ∈ s.threadsOf x, q.2.2.task.budget = false) → s.charge x = less.kill x 25 0xFFFF) ∧
    (∀ c i t, k.ebud = 1 → s.threadsOf x = [(c, i, t)] → t.task.budget = true →
      s.charge x = less.raise c i fun p => { p with eBudget := true })) ∧
  (∀ (s : State) (c : Nat), s.leaderOf c = none → (∀ i t, s.thread? c i = some t → t.gang = none) →
    let k := s.core c
    let u := s.contain c
    let m := u.core c
    m.status = .contained ∧ m.vqueue = [] ∧ m.vflight = [] ∧ m.copyq = [] ∧ m.copying = none ∧ m.mx.hiQueue = [] ∧ m.mx.loQueue = [] ∧
    m.mx.run = none ∧ m.syncers = [] ∧ m.arrivals = [] ∧ m.mem = k.mem ∧ m.full = k.full ∧ u.phys = s.phys ∧
    (u.cove (coveOf c)).spill = k.arrivals ++ (s.cove (coveOf c)).spill ∧ (∀ i, i < 4 → m.spec[i]? = some none) ∧
    (∀ i, i < 16 → (m.slot i).q = {} ∧ (m.slot i).occ = match (k.slot i).occ with
      | .thread _ | .awaiting _ => .empty
      | o => o) ∧
    (∀ t, ((∃ i, i < 16 ∧ ((k.slot i).occ = .awaiting t ∨ ∃ th : Thread, (k.slot i).occ = .thread th ∧ th.task = t)) ∨
        ∃ (i : Nat) (q : SpecPart), k.spec[i]? = some (some q) ∧ q.ended = true ∧ q.task = t) →
      ∃ p ∈ u.net, p.kind = if t.idemp then .ended t 2 0 c (coveOf c) else .ended t 5 27 c (coveOf c))) ∧
  ∀ (s : State) (p : Packet) (t : Thread), s.sender? p = some t →
    (∀ k dest cause, Brings s p .ebud → t.park = .await cause (.data dest) → s.ctx? p.ctx = some k →
      exec .dataReturn s = .next ((s.dropPacket p.id).loaded p.core p.slot dest (k.ebud.zeroExtend 64)).flush) ∧
    (∀ v dest cause, Brings s p (.reply (.value v)) ∨ Brings s p (.reply (.data v)) → t.park = .await cause (.data dest) →
      exec .dataReturn s = .next ((s.dropPacket p.id).loaded p.core p.slot dest v).flush) ∧
    (∀ cause utval, Brings s p (.reply (.trap cause utval)) →
      exec .dataReturn s = .next ((s.dropPacket p.id).trapAt p.core p.slot { cause, utval }).flush) ∧
    (∀ c off n va, Brings s p (.remoteLoad c off n va) →
      ((s.core c).sealed = true → exec .remoteAccess s = .next (s.turnPacket p.id (.reply (.trap 19 va))).flush) ∧
      ((s.core c).sealed = false → n ≤ 8 → s.localError c off n = none → let v := (s.core c).mem.load off n
        exec .remoteAccess s = .next (s.turnPacket p.id (.reply (.data (if t.spec = none then v
          else overlay (s.specWords p.core t) (.local c off) n v)))).flush)) ∧
    (∀ c off consume va, Brings s p (.remoteSync c off consume va) → (s.core c).sealed = false →
      exec .remoteAccess s = .next ((s.dropPacket p.id).syncAt p.ctx c (off / 8) consume p.core p.slot p.uid).flush) ∧
    (∀ c first words full va begun, Brings s p (.remoteFe c first words full va begun) → (s.core c).sealed = false →
      (words ≤ 64 → exec .remoteAccess s = .next ((s.markWords c first words full).answers p 0).flush) ∧
      (64 < words → exec .remoteAccess s = .next ((s.markWords c first 64 full).turnPacket p.id
        (.remoteFe c (first + 64) (words - 64) full va true)).flush))

/-- STORE_PERFORM, ATOMIC_AT_HOME, OWNERSHIP_GRANT, BISNP_RESPONSE, HOST_MEM_ACCESS, CXL_CACHE_SNOOP: a store and an atomic
take effect at their home (R88, R149), a store to a notify page on its queue (R343, R345, log entry 61); the word that a plain store
overwrites is noted for the engine commands of its thread (R88, log entry 14); a word of a commit is written whole, in local store and in
physical memory (R73, R101), and shows in what the cove's ordered tasks have buffered of it (log entry 76); a `cas` that fails writes
nothing, and only its reply says so (R149, R249); what a line still needs at system scope stays in flight (R82, R90,
R325); the host's accesses and its copies of lines (R102, R323, R325, log entry 42). -/
def Obligations.MemoryEvents : Prop :=
  ∀ (s : State) (p : Packet),
    (∀ c off n v, Brings s p (.store (.local c off) n v) → (s.core c).sealed = false → p.broadcast = none →
      exec .storePerform s = .next ((s.noting p.uid p.issued (.local c off) fun u => u.storeLocal p.ctx c off n v).dropPacket p.id).flush) ∧
    (∀ w c off, Brings s p (.commit w) → w.target = .local c off → off % 8 = 0 → (s.core c).sealed = false → s.localError c off 8 = none →
      let bytes := (upFrom 0 8).map fun k => w.data.extractLsb' (8 * k) 8
      exec .storePerform s = .next (((s.noting p.uid p.issued w.target fun u =>
        (u.setCore c { u.core c with mem := (u.core c).mem.store off bytes }).amend w.target bytes).refresh p.core p.ctx w.target 8
          w.data).dropPacket p.id).flush) ∧
    (∀ pa n v, Brings s p (.store (.phys pa) n v) → p.broadcast = none →
      let s' := s.noting p.uid p.issued (.phys pa) fun u => match u.notify? pa with
        | some (x, off) => if n = 8 then u.writesPage x off v else u
        | none => u.storePhys p.ctx p.core pa (leBytes n v.toNat) (BitVec.ofNat 64 pa)
      exec .storePerform s = .next (match s'.leftOver pa with
        | some kind => s'.turnPacket p.id kind
        | none => s'.dropPacket p.id).flush) ∧
    (∀ c off a va, Brings s p (.atomic (.local c off) a va) → (s.core c).sealed = false → p.broadcast = none →
      s.localError c off a.n = none →
      let old := (s.core c).mem.load off a.n
      let writes (u : State) : State := match a.result old with
        | some new =>
          (u.setCore c { u.core c with mem := (u.core c).mem.save off a.n new }).amend (.local c off) (leBytes a.n new.toNat)
        | none => u
      (a.dest ≠ .none → exec .atomicAtHome s = .next ((writes s).turnPacket p.id
        (.reply (if (a.result old).isSome then .value old else .data old))).flush) ∧
      (a.dest = .none → exec .atomicAtHome s = .next ((s.noting p.uid p.issued (.local c off) writes).dropPacket p.id).flush)) ∧
    (∀ pa a va, Brings s p (.atomic (.phys pa) a va) → s.notify? pa = none → s.atomicNeeds pa a = none → s.leftOver pa = none →
      p.broadcast = none → a.dest ≠ .none → s.checkPhys p.ctx p.core pa a.n va 3 = (.ok, s) → let old := s.phys.load pa a.n
      (∀ new, a.result old = some new → exec .atomicAtHome s = .next
        ((({ s.healPhys pa a.n with phys := s.phys.save pa a.n new } : State).amend (.phys pa) (leBytes a.n new.toNat)).answers p
          old).flush) ∧
      (a.result old = none → exec .atomicAtHome s = .next ((s.healPhys pa a.n).turnPacket p.id (.reply (.data old))).flush)) ∧
    (∀ w pa, Brings s p (.commit w) → w.target = .phys pa → pa % 8 = 0 →
      let s' := s.noting p.uid p.issued (.phys pa) fun u => match u.notify? pa with
        | some (x, off) => if w.mask = 0xFF then u.writesPage x off w.data else u
        | none => u.storePhys p.ctx p.core pa (leBytes 8 w.data.toNat) w.va
      let u := s'.refresh p.core p.ctx (.phys pa) 8 w.data
      exec .storePerform s = .next (match u.leftOver pa with
        | some kind => u.turnPacket p.id kind
        | none => u.dropPacket p.id).flush) ∧
    (∀ x core pa bs va kind, s.notify? pa = none → s.errors = [] →
      (s.isStray pa = true → s.storePhys x core pa bs va kind = s.strayed) ∧
      (s.isStray pa = false → s.storePhys x core pa bs va kind =
        ({ s with phys := s.phys.store pa bs } : State).amend (.phys pa) bs)) ∧
    (∀ line, Brings s p (.ownership line) → s.owned.contains line = false →
      exec .ownershipGrant s = .next ({ s.dropPacket p.id with owned := s.owned ++ [line] } : State).flush) ∧
    (∀ line, Brings s p (.snoop line false) →
      exec .bisnpResponse s = .next ({ s.dropPacket p.id with hostCopies := drop line s.hostCopies } : State).flush) ∧
    (∀ line, Brings s p (.snoop line true) → (find? line s.hostCopies).isSome = true → s.ev.flag = true →
      s.ev.bytes.length = 64 →
      (s.isStray (64 * line) = false → exec .bisnpResponse s = .next
        ({ (s.dropPacket p.id).hostStore (64 * line) s.ev.bytes with hostCopies := setCopy line false s.hostCopies } : State).flush) ∧
      (s.isStray (64 * line) = true → exec .bisnpResponse s = .next
        ({ (s.dropPacket p.id).strayed with hostCopies := setCopy line false s.hostCopies } : State).flush)) ∧
    (∀ o, (s.region s.ev.n = .near o ∨ s.region s.ev.n = .far o) → s.ev.bytes.length ≤ 64 - s.ev.n % 64 → s.ev.m = 0 →
      (s.isStray s.ev.n = true → exec .hostMemAccess s = .next s.strayed.flush) ∧
      (s.isStray s.ev.n = false → s.ev.flag = true → s.ev.x = 0 →
        exec .hostMemAccess s = .next (s.hostStore s.ev.n s.ev.bytes).flush) ∧
      (s.isStray s.ev.n = false → s.ev.flag = false → exec .hostMemAccess s = .next s)) ∧
    (s.region s.ev.n = .host → s.ev.bytes.length ≤ 64 - s.ev.n % 64 →
      exec .cxlCacheSnoop s = .next
        ({ s.hostStore s.ev.n s.ev.bytes with owned := s.owned.filter fun l => l != s.ev.n / 64 } : State).flush)

/-- TCB_SPAWN_AT_HOME, PRED_DECREMENT, TWAIT_AT_HOME, GROUP_OP_AT_HOME, ITCLAIM_AT_HOME, COUNTER_ADD, TASK_COMPLETION,
ORDERED_COMMIT, on sound data whose host line, if it is one, is owned (R54-R56, R62, R63, R66, R67, R70, R171). R63: whoever writes
the status of a task that has ended, the threads that await it are told. A task's end waits for an absent page of its TCB or list (log
entry 43); a commit sends its words to their homes and ends its task behind them (R101, log entry 29).
R52, R56, R58: a decrement lowers the count by 1 and touches nothing else of memory; an armed task whose count so reaches 0 turns ready
and enters the queue in the order of keys and TCB addresses, with the fields kept of its own context. R67: a claim's chunk, cursor and
reply. R66, R176: an add to a counter saturates, and is discarded at a sealed core (R260) and in a cove that is powered off (R355); at
completion the excess remains, the waiter has it, the trigger's decrement goes out.
R62: the status and record of an end, the successors of a task that is done in list order before its record, those of an unreadable
list not at all; one whose page is absent holds the rest up until the driver has answered, or is passed over in a context that is torn
down (log entry 44). The excess that a counter keeps for a later `acwait` is log entry 8. R171, R172: at a phase's end the arrivals are
0 again, the phase is one higher, and every parked caller is answered; before it nothing changes. R69, R70: only the oldest ordered task
of its context in the cove commits, one commit at a time; its words leave in
order and its part is freed. -/
def Obligations.TaskEvents : Prop :=
  (∀ (s : State) (p : Packet),
    (∀ va pa cove, Brings s p (.spawn va pa cove) → s.region pa ≠ .host → s.errors = [] → s.isStray pa = false →
      s.hostCopies = [] →
      (s.tcbStatus pa ≠ 0 → s.tcbStatus pa ≠ 4 →
        exec .tcbSpawnAtHome s = .next (s.turnPacket p.id (.reply (.trap 13 va))).flush) ∧
      ((s.tcbStatus pa = 0 ∨ s.tcbStatus pa = 4) → s.tcbInvalid (s.tcbTask p.ctx va pa) = true →
        exec .tcbSpawnAtHome s = .next (s.turnPacket p.id (.reply (.trap 14 va))).flush) ∧
      ((s.tcbStatus pa = 0 ∨ s.tcbStatus pa = 4) → s.tcbInvalid (s.tcbTask p.ctx va pa) = false →
        ((s.tcbPred pa).toInt ≤ 0 → exec .tcbSpawnAtHome s = .next
          ((((s.setStatus pa 2).disarm (s.tcbTask p.ctx va pa)).enqueue cove (s.tcbTask p.ctx va pa)).answers p 2).flush) ∧
        (0 < (s.tcbPred pa).toInt → exec .tcbSpawnAtHome s = .next
          (((s.setStatus pa 1).arm (s.tcbTask p.ctx va pa)).answers p 1).flush))) ∧
    (∀ va pa cove, Brings s p (.dec va (some pa) cove) → s.region pa ≠ .host → s.errors = [] → s.isStray pa = false →
      s.hostCopies = [] → p.broadcast = none →
      exec .predDecrement s = .next ((s.lower p.ctx va pa cove).dropPacket p.id).flush) ∧
    (∀ va pa, Brings s p (.taskWait va pa) → s.errors = [] → s.isStray pa = false →
      exec .twaitAtHome s = .next ({ s.dropPacket p.id with taskWaits := s.taskWaits ++ [{
        target := .phys pa, va, ctx := p.ctx, core := p.core, slot := p.slot, uid := p.uid }] } : State).flush) ∧
    (∀ c off va, (s.core c).sealed = false → s.localErrors = [] →
      let t : Target := .local c off
      let members := ((s.core c).mem.load off 4).toNat
      (Brings s p (.group t .join va) → members ≠ 0xFFFFFFFF →
        exec .groupOpAtHome s = .next ((s.writeAt t 4 (members + 1)).answers p 0).flush) ∧
      (Brings s p (.group t .join va) → members = 0xFFFFFFFF →
        exec .groupOpAtHome s = .next (s.turnPacket p.id (.reply (.trap 15 va))).flush) ∧
      (Brings s p (.group t .leave va) → members = 0 →
        exec .groupOpAtHome s = .next (s.turnPacket p.id (.reply (.trap 15 va))).flush) ∧
      (Brings s p (.group t .leave va) → members ≠ 0 →
        exec .groupOpAtHome s = .next (((s.writeAt t 4 (members - 1)).answers p 0).checkGroup t).flush) ∧
      (Brings s p (.group t .bar va) → exec .groupOpAtHome s = .next
        (let s' := (s.writeAt (.local c (off + 4)) 4 (((s.core c).mem.load (off + 4) 4).toNat + 1)).dropPacket p.id
         ({ s' with barriers := s.barriers ++ [{ target := t, ctx := p.ctx, core := p.core, slot := p.slot, uid := p.uid }] } :
           State).checkGroup t).flush) ∧
      (Brings s p (.claim t va) → exec .itclaimAtHome s = .next (s.claimHome p t va).flush)) ∧
    (∀ c idx amount, Brings s p (.counter c idx amount) →
      ((s.core c).sealed = false → (s.cove (coveOf c)).health.state ≠ .retired →
        exec .counterAdd s = .next ((s.dropPacket p.id).addCounter c idx amount).flush) ∧
      ((s.core c).sealed = true ∨ (s.cove (coveOf c)).health.state = .retired →
        exec .counterAdd s = .next (s.dropPacket p.id).flush)) ∧
    (∀ t status cause unit cove, Brings s p (.ended t status cause unit cove) → s.hostCopies = [] →
      (s.endLacks t status = none → exec .taskCompletion s = .next (s.endAtHome p t status cause unit cove).flush) ∧
      (∀ va, s.endLacks t status = some va → exec .taskCompletion s = .next (s.partFault t.ctx cove va).flush)) ∧
    (∀ t vs unit cove, Brings s p (.releases t vs unit cove) →
      exec .taskCompletion s = .next (s.release p t unit cove vs).flush) ∧
    (∀ i q, s.oldestPart s.ev.n = some (i, q) →
      exec .orderedCommit s = .next (s.commitOldest s.ev.n i q).flush) ∧
    (∀ w v, s.taskWaits = [w] → s.statusAt w.ctx w.va = some v → s.wakeTwaits = if 4 ≤ v ∧ v ≤ 6 then
      { s.send { id := 0, ctx := w.ctx, core := w.core, slot := w.slot, uid := w.uid, kind := .reply (.data (wide v)) } with
        taskWaits := [] } else s)) ∧
  (∀ (s : State) (c off : Nat),
    let t : Target := .local c off
    let at_ (k n : Nat) : Nat := ((s.core c).mem.load (off + k) n).toNat
    let members := at_ 0 4
    let arrived := at_ 4 4
    let waiting := s.barriers.filter fun w => w.target = t
    (members = 0 ∨ arrived < members → s.checkGroup t = s) ∧
    (0 < members → members ≤ arrived →
      let u := (s.writeAt (.local c (off + 4)) 4 0).writeAt (.local c (off + 8)) 8
        (at_ 8 8 + 1)
      s.checkGroup t = { u with
        barriers := s.barriers.filter fun w => w.target ≠ t
        serial := s.serial + waiting.length
        net := s.net ++ (waiting.zipIdx.map fun (q : HomeWaiter × Nat) => ({
          id := s.serial + q.2, ctx := q.1.ctx, core := q.1.core, slot := q.1.slot, uid := q.1.uid, issued := s.tick
          kind := .reply (.value 0) } : Packet)) })) ∧
  (∀ (s : State) (c off n v : Nat), s.writeAt (.local c off) n v =
    (s.setCore c { s.core c with mem := (s.core c).mem.save off n (wide v) }).amend (.local c off) (leBytes n v)) ∧
  (∀ (s : State) (x pa cove : Nat) (va : Word), s.phys.wf = true →
    let t := (s.armedTask x va pa).getD (s.tcbTask x va pa)
    let u := s.lower x va pa cove
    let readied : Prop := s.tcbStatus pa = 1 ∧ s.tcbPred pa = 1 ∧ s.alive x = true
    u.tcbPred pa = s.tcbPred pa - 1 ∧
    (∀ a, (a < pa + 48 ∨ pa + 52 ≤ a) → a ≠ pa + 55 → u.phys.read a = s.phys.read a) ∧
    (readied → u.tcbStatus pa = 2 ∧ (∀ a, a ∈ u.armed ↔ a ∈ s.armed ∧ ¬(a.ctx = t.ctx ∧ a.tcb = t.tcb)) ∧
      ∃ first last, (s.cove cove).ready = first ++ last ∧ u.cove cove = { s.cove cove with ready := first ++ t :: last } ∧
        (∀ a ∈ first, t.before a = false) ∧ ∀ a rest, last = a :: rest → t.before a = true) ∧
    (¬readied → u.tcbStatus pa = s.tcbStatus pa ∧ u.coves = s.coves ∧ u.armed = s.armed) ∧
    (∀ a, s.armedTask x va pa = some a → a ∈ s.armed ∧ a.ctx = x) ∧
    (∀ a b : Task, (a.before b = true ↔ a.key.toNat < b.key.toNat ∨ a.key = b.key ∧ a.tcb.toNat < b.tcb.toNat))) ∧
  (∀ (s : State) (p : Packet) (c off : Nat) (va : Word),
    let at_ (k n : Nat) : Nat := ((s.core c).mem.load (off + k) n).toNat
    let next := at_ 0 8
    let total := at_ 8 8
    let nx := at_ 16 4
    let ny := at_ 20 4
    let par := at_ 28 4
    let bad : Prop := nx = 0 ∨ 2 ^ 24 ≤ nx ∨ ny = 0 ∨ 2 ^ 24 ≤ ny ∨ par = 0 ∨ 2 ^ 40 ≤ total
    (bad → s.claimHome p (.local c off) va = s.turnPacket p.id (.reply (.trap 2 va))) ∧
    (¬bad → total < next → s.claimHome p (.local c off) va = (s.writeAt (.local c off) 8 next).turnPacket p.id
        (.reply (.claim (wide (nx * 2 ^ 40 : Nat) ||| wide next) (wide (ny * 2 ^ 40 : Nat) ||| wide next) 0))) ∧
    (¬bad → next ≤ total → ∃ n, s.claimHome p (.local c off) va = (s.writeAt (.local c off) 8 (next + n)).turnPacket p.id
        (.reply (.claim (wide (nx * 2 ^ 40 + next : Nat)) (wide (ny * 2 ^ 40 + (next + n) : Nat)) (wide n))) ∧
      (total = next → n = 0) ∧ (next < total → 0 < n ∧ (n - 1) * (2 * par) < total - next ∧ total - next ≤ n * (2 * par)))) ∧
  (∀ (s : State) (c n amount : Nat), let v := (s.core c).counter n
    let sum := min (v.count + amount) 0xFFFFFFFF
    let exceeds := v.overrun || decide (0xFFFFFFFF < v.count + amount)
    let waiters := (s.core c).counterWaiters n
    let left (done : Option Nat) : State := s.setCounter c n { v with
      count := sum - v.expected, posted := false, overrun := exceeds || decide (v.expected < sum), armed := false, done }
    let triggers (u : State) : State := if v.armed then u.send (partPacket v.trigCtx c 0 (.dec v.trigger none (coveOf c))) else u
    n < 32 →
    (v.posted = false ∨ sum < v.expected → s.addCounter c n amount = s.setCounter c n { v with count := sum, overrun := exceeds }) ∧
    (v.posted = true → v.expected ≤ sum →
      (waiters = [] → s.addCounter c n amount = triggers (left (some (sum - v.expected)))) ∧
      (waiters ≠ [] → s.addCounter c n amount = waiters.foldl (fun u w =>
        (u.writeg c w.1 w.2 (wide (sum - v.expected : Nat))).retire c w.1) (triggers (left none))) ∧
      (∀ i rd, waiters = [(i, rd)] → s.addCounter c n amount =
        ((triggers (left none)).writeg c i rd (wide (sum - v.expected : Nat))).retire c i))) ∧
  (let ends (s : State) (p : Packet) (t : Task) (status cause unit : Nat) : State :=
     if t.report then s.record t.ctx { tcb := t.tcb, status, cause, unit, kind := 0, after := p.after } else s
   (∀ (s : State) (p : Packet) (t : Task) (unit cove status cause pa : Nat), let u := s.dropPacket p.id
     u.own t.ctx t.tcb false = (some pa, u) → s.region pa ≠ .host → s.errors = [] → s.isStray pa = false → s.hostCopies = [] →
     (status ≠ 2 → status ≠ 4 → s.endAtHome p t status cause unit cove = ends (u.setStatus pa status) p t status cause unit) ∧
     (s.alive t.ctx = true → s.endAtHome p t 2 cause unit cove = (u.setStatus pa 2).enqueue cove t) ∧
     (s.alive t.ctx = false → s.endAtHome p t 2 cause unit cove = ends (u.setStatus pa 6) p t 6 (s.endCause t.ctx) unit)) ∧
   (∀ (s : State) (p : Packet) (t : Task) (unit cove cause pa : Nat),
     s.own t.ctx t.tcb false = (some pa, s) → s.region pa ≠ .host → s.errors = [] → s.isStray pa = false → s.hostCopies = [] →
     (t.succ = 0 → s.endAtHome p t 4 cause unit cove = ends ((s.setStatus pa 4).dropPacket p.id) p t 4 0 unit) ∧
     (∀ vs, s.successors t unit = (some vs, s) →
       s.endAtHome p t 4 cause unit cove = (s.setStatus pa 4).release p t unit cove vs) ∧
     (s.successors t unit = (none, s) →
       s.endAtHome p t 4 cause unit cove = ends ((s.setStatus pa 5).dropPacket p.id) p t 5 14 unit)) ∧
   (∀ (s u : State) (p : Packet) (t : Task) (unit cove : Nat) (va : Word) (rest : List Word),
     s.release p t unit cove [] = ends (s.dropPacket p.id) p t 4 0 unit ∧
     ((s.tcbTrap t.ctx unit va).isSome = true → s.release p t unit cove (va :: rest) = s.release p t unit cove rest) ∧
     ((s.tcbTrap t.ctx unit va).isSome = false →
       (s.own t.ctx va false = (none, u) → u.alive t.ctx = true → s.release p t unit cove (va :: rest) =
         (u.turnPacket p.id (.releases t (va :: rest) unit cove)).partFault t.ctx cove va) ∧
       (s.own t.ctx va false = (none, u) → u.alive t.ctx = false →
         s.release p t unit cove (va :: rest) = u.release p t unit cove rest) ∧
       (∀ pa, s.own t.ctx va false = (some pa, u) → u.isPeer pa = false → u.region pa ≠ .host → u.errors = [] →
         u.isStray pa = false → u.hostCopies = [] →
         s.release p t unit cove (va :: rest) = (u.lower t.ctx va pa cove).release p t unit cove rest)))) ∧
  (∀ (s : State) (c i : Nat) (q : SpecPart),
    (s.oldestPart c = some (i, q) → (s.core c).spec[i]? = some (some q) ∧ s.commits q.task.ctx (coveOf c) = [] ∧
      ∀ a ∈ s.orderedTasks (coveOf c), a.ctx = q.task.ctx → a.before q.task = false) ∧
    (q.ended = true → s.commitOldest c i q =
      (s.commitPart c i q).endTask q.task 4 0 c (coveOf c) (q.after ++ (List.range q.words.length).map fun k => s.serial + k)) ∧
    (∀ j t, q.ended = false → ((s.core c).threads.find? fun r => r.2.uid = q.uid) = some (j, t) →
      s.commitOldest c i q = (s.setThread c j { t with spec := none }).commitPart c i q)) ∧
  (∀ (s : State) (c i : Nat) (q : SpecPart),
    let sent := ((q.words.foldl (fun s w => s.sendCommit c q w) s).followCommit q.uid).joinInvalidations q
    s.commitPart c i q = q.words.foldl (fun s w => s.broadcastLine c q.task w.va)
      (sent.setCore c { s.core c with spec := (s.core c).spec.setIfInBounds i none }) ∧
    ∀ (k : Nat) (w : SpecWord), q.words[k]? = some w → ∃ p ∈ sent.net,
      p.id = s.serial + k ∧ p.kind = .commit w ∧ p.ctx = q.task.ctx ∧ p.core = c ∧ p.uid = q.uid)

/-- MESSAGE_ARRIVAL, MESSAGE_REPLY, CHAIN_PUSH, CREDIT_REQUEST, CREDIT_GRANT, CREDIT_REFUSAL (R24-R26, R166, R260). A push to a sealed
core is refused, and a request to a slot without a thread is held (log entry 41). R24: the messages that wait for a queue are looked at
in the order of their arrival: the first is refused where the queue is disabled or its depth is below the message's words; else it waits,
and all behind it, until they fit; then its header and its payload are written behind the words there, its sender is answered, and a
thread that waits for a word is woken. R25, R26: a word pushed by the TID that the ring accepts, with an entry free, goes behind the
words there; another is discarded. A request held is answered when the queue is enabled: with the entries free for the TID that it then
names, refused otherwise. A later request of its requester replaces a held one; another requester's is refused at once.
R20: whatever comes to a core from which its context is vacated waits at the router, and is served in the order of its arrival once the
context is back; what counts as arrival, and what lets others pass, is log entry 123. -/
def Obligations.MessageEvents : Prop :=
  (∀ (s : State) (c i : Nat), i < 16 →
    let q := s.queuesOf c i
    let size := 2 ^ q.rx.lg.toNat
    (q.waiting = [] → s.settleMessages c i = s) ∧
    (∀ m rest, q.waiting = m :: rest →
      let words := m.header :: m.payload
      let n := words.length
      let answers (u : State) (accepted : Bool) : State := u.send {
        id := 0, ctx := s.ownerOf c, core := m.core, slot := m.slot, uid := m.uid, kind := .messageReply accepted }
      (q.rx.en = false ∨ size < n →
        s.settleMessages c i = (answers (s.setQueues c i { q with waiting := rest }) false).settleMessages c i) ∧
      (q.rx.en = true → n ≤ size → size < q.rx.count + n → s.settleMessages c i = s) ∧
      (q.rx.en = true → q.rx.count + n ≤ size →
        let place (j : Nat) : Nat := 32 * q.rx.base.toNat + 8 * ((q.rx.head + (q.rx.count + j)) % size)
        let mem := words.zipIdx.foldl (fun (mem : Memory) (w : Word × Nat) => mem.save (place w.2) 8 w.1) (s.core c).mem
        s.settleMessages c i = (answers (((s.setCore c { s.core c with mem }).setQueues c i { q with
          rx := { q.rx with count := q.rx.count + n }, waiting := rest, msgs := q.msgs ++ [(n, false)] }).nudge c i 4)
            true).settleMessages c i))) ∧
  (∀ (s : State) (c i from_ : Nat) (v : Word), i < 16 →
    let q := s.queuesOf c i
    let size := 2 ^ q.up.lg.toNat
    let takes : Prop := q.up.en = true ∧ q.upTid.toNat = from_ ∧ q.up.count < size
    (takes → s.acceptPush c i from_ v = ((s.setCore c { s.core c with
      mem := (s.core c).mem.save (32 * q.up.base.toNat + 8 * ((q.up.head + q.up.count) % size)) 8 v }).setQueues c i { q with
        up := { q.up with count := q.up.count + 1 } }).nudge c i 4) ∧
    (¬takes → s.acceptPush c i from_ v = s)) ∧
  (∀ (s : State) (p : Packet) (i : Instr), s.packet? s.ev.n = some p → i ∈ [.dataReturn, .remoteAccess, .storePerform, .atomicAtHome,
      .groupOpAtHome, .itclaimAtHome, .counterAdd, .messageArrival, .messageReply, .chainPush, .creditRequest, .creditGrant,
      .creditRefusal, .rotationArrival, .remoteCommandDelivery] →
    let waits : State := { s with net := s.net.map fun q =>
      if q.id = p.id ∧ q.held = none then { q with held := some s.tick } else q }
    (s.clear p.after = true → s.keeps p = true → exec i s = .next waits) ∧
    (s.clear p.after = false ∨ s.keeps p = false ∧ s.inTurn p = false → exec i s = .next s)) ∧
  (∀ (s : State) (p : Packet),
    (s.keeps p = true ↔ ∃ c k v, s.arrivesAt p = some c ∧ s.ctx? p.ctx = some k ∧ (c, v) ∈ k.savedCores) ∧
    (s.inTurn p = false ↔ ∃ q ∈ s.net, ∃ m, q.held = some m ∧ (∀ n, p.held = some n → m < n) ∧ q.ctx = p.ctx ∧
      s.arrivesAt q = s.arrivesAt p ∧ s.stuck q = false)) ∧
  (∀ (s : State) (c i n : Nat),
    (∀ t, s.thread? c i = some t → s.nudge c i n = s.setThread c i (if t.park = .retry n then { t with park := .none } else t)) ∧
    (s.thread? c i = none → s.nudge c i n = s)) ∧
  (∀ (s : State) (t : Thread) (v : Word) (from_ : Nat), s.cur? = some t → v.getLsbD 63 = true → s.queues.request = some from_ →
    let u := s.csrWrite t 0x811 v
    u.queues.request = none ∧ u.net = s.net ++ [
      { s.packetOf t (.creditRequest (v.toNat / 2 ^ 22 % 2 ^ 20) s.curTid) with id := s.serial, issued := s.tick },
      { partPacket (s.ownerOf s.curCore) s.curCore s.curSlot (if v.toNat / 2 ^ 42 % 2 ^ 20 = from_ then
          .creditGrant from_ (2 ^ (v.toNat / 2 ^ 6 % 2 ^ 4)) else .creditRefusal from_ s.curTid) with
        id := s.serial + 1, issued := s.tick }]) ∧
  ∀ (s : State) (p : Packet) (dest : Nat), dest < 2 ^ 20 →
    let c := dest / 16
    let i := dest % 16
    (∀ m, Brings s p (.message dest m) →
      (((s.core c).sealed = true ∨ (s.slot c i).occ = .empty) →
        exec .messageArrival s = .next (s.turnPacket p.id (.messageReply false)).flush) ∧
      ((s.core c).sealed = false → (s.slot c i).occ ≠ .empty → exec .messageArrival s = .next
        (((s.dropPacket p.id).setQueues c i { s.queuesOf c i with waiting := (s.queuesOf c i).waiting ++ [m] }).settleMessages c i).flush)) ∧
    (∀ accepted t cause target, Brings s p (.messageReply accepted) →
      s.sender? p = some t → t.park = .await cause (.message target) →
      exec .messageReply s = .next (if accepted then (s.dropPacket p.id).retire p.core p.slot
        else (s.dropPacket p.id).trapAt p.core p.slot { cause := 9, utval := target }).flush) ∧
    (∀ from_ v, Brings s p (.push dest from_ v) →
      exec .chainPush s = .next (if (s.core c).sealed then s.turnPacket p.id (.creditRefusal from_ dest)
        else (s.dropPacket p.id).acceptPush c i from_ v).flush) ∧
    (∀ from_, Brings s p (.creditRequest dest from_) → (s.core c).sealed = false →
      let q := s.queuesOf c i
      (q.up.en = true → exec .creditRequest s = .next ((s.dropPacket p.id).send (partPacket p.ctx c i
        (if q.upTid.toNat = from_ then .creditGrant from_ (q.up.size - q.up.count) else .creditRefusal from_ dest))).flush) ∧
      (q.up.en = false → q.request = none ∨ q.request = some from_ → exec .creditRequest s = .next
        ((s.dropPacket p.id).setQueues c i { q with request := some from_ }).flush) ∧
      (∀ other, q.up.en = false → q.request = some other → other ≠ from_ → exec .creditRequest s = .next
        ((s.dropPacket p.id).send (partPacket p.ctx c i (.creditRefusal from_ dest))).flush)) ∧
    (∀ from_, Brings s p (.creditRequest dest from_) → (s.core c).sealed = true → exec .creditRequest s = .next
      ((s.dropPacket p.id).send (partPacket p.ctx c i (.creditRefusal from_ dest))).flush) ∧
    (∀ n, Brings s p (.creditGrant dest n) → (s.queuesOf c i).up.en = true →
      (s.queuesOf c i).dnTid.toNat = tidOf p.core p.slot → exec .creditGrant s = .next
        (((s.dropPacket p.id).setQueues c i { s.queuesOf c i with credits := (s.queuesOf c i).credits + n }).nudge c i 5).flush) ∧
    (∀ from_, Brings s p (.creditRefusal dest from_) → (s.queuesOf c i).up.en = true → (s.queuesOf c i).dnTid.toNat = from_ →
      exec .creditRefusal s = .next
        (((s.dropPacket p.id).setQueues c i { s.queuesOf c i with refused := true }).nudge c i 5).flush)

/-- MIGRATION_DEPARTURE (R40, R42, R162): a thread whose stores are performed retires its migration and leaves; one to its own core
goes on; an `ldf` has not retired. R17, R18, R39: what it carries: PC, P, g1-g16, FSTAT, SRSEED, UTVEC, its task and its checker, with
g17-g24 but for `migr.s`, and the hatbox of 256 bytes; all else is as after arrival. R30, R38: what it leaves behind: an empty slot,
its queues closed, its PENDING map entries FREE.
MIGRATION_ARRIVAL (R20, R43, R44): a context enters the lowest empty slot granted, with `lsp` at the top of its thread area, or waits
in the arrival buffer of 4, or behind the others in the spill area (log entries 46, 47).
TASK_DISPATCH, DISPATCH_ARRIVAL (R58-R60, R364): the first ready task of a context that takes dispatches goes to its home core, else
round robin; it starts at its entry with g2-g6, `lsp`, and everything else as after reset.
STEAL_ATTEMPT (R61): a cove with nothing ready takes the head of its victim's queue, or passes to the next cove in the ring (log
entry 48); a victim that the context was not granted is passed over (log entry 116); the thief's room is judged as for a plain task (log
entry 103). That the remote commands ahead of a departing thread's stay
ahead of it is log entry 93. -/
def Obligations.SchedulingEvents : Prop :=
  (∀ (s : State) (t : Thread) (cause : Nat) (form : MigrForm) (dest : Nat), let c := s.ev.n
    let i := s.ev.m
    s.thread? c i = some t → t.park = .await cause (.migrate form dest) →
    (s.clear (s.fenced t) = false → exec .migrationDeparture s = .next s) ∧
    (s.clear (s.fenced t) = true → (form ≠ .ldf → s.checking t = true → t.checker.pending = false) →
      let u := t.after (t.pc + 4) false (s.checking t)
      let area : Prop := (form = .hatbox ∨ form = .ldf) → s.localError c (0x800 + 0x400 * i) 256 = none
      (form ≠ .ldf → dest = c → exec .migrationDeparture s = .next (s.setThread c i u).flush) ∧
      (form ≠ .ldf → dest ≠ c → area →
        exec .migrationDeparture s = .next ((s.setThread c i u).setsOut c i u form dest).flush) ∧
      (form = .ldf → area → exec .migrationDeparture s = .next (s.setsOut c i t form dest).flush))) ∧
  (∀ (s : State) (c i : Nat) (t : Thread), s.thread? c i = some t → t.gang = none →
    (∀ j u r n, s.thread? c j = some u → u.waits ≠ some (.kwait r n)) →
    let u := s.leave c i
    (u.slot c i).occ = .empty ∧ (u.slot c i).q = {} ∧ (∀ j, j ≠ i → u.thread? c j = s.thread? c j) ∧
    ∀ j, j < 64 → let e := (s.core c).entry j
      (u.core c).entry j = if e.state = .pending ∧ e.owner = 16 * c + i then { age := e.age } else e) ∧
  (∀ (s : State) (p : Packet) (a : Carried), s.ev.flag = false → s.ev.x = 0 → Brings s p (.migrate a) →
    let x := a.thread.ctx
    let c := a.dest
    let u := s.dropPacket p.id
    ((s.core c).status = .normal ∨ (s.core c).status = .contained →
      (s.spills a → exec .migrationArrival s = .next (u.spilled a).flush) ∧
      (¬s.spills a → (s.core c).arrivals = [] →
        (∀ i, s.Free x c i → exec .migrationArrival s = .next (u.lands a c i).flush) ∧
        (s.noneFree x c → exec .migrationArrival s = .next (u.buffered a).flush)) ∧
      (¬s.spills a → (s.core c).arrivals ≠ [] →
        ((s.core c).arrivals.length < 4 → exec .migrationArrival s = .next (u.buffered a).flush) ∧
        (4 ≤ (s.core c).arrivals.length → exec .migrationArrival s = .next (u.spilled a).flush))) ∧
    ((s.core c).status ≠ .normal → (s.core c).status ≠ .contained → exec .migrationArrival s = .next
      (match s.reinjection (coveOf c) with
        | some n => (u.setCove (coveOf c) { u.cove (coveOf c) with reinject := some n }).admitAt { a with dest := coreOf (coveOf c) n }
        | none => u.spilled a).flush)) ∧
  (∀ (s : State) (a : Carried) (rest : List Carried),
    (s.ev.flag = true → (s.core s.ev.n).arrivals = a :: rest → let c := s.ev.n
      (∀ i, (s.core c).sealed = false → s.Free a.thread.ctx c i → exec .migrationArrival s = .next
        ((s.setCore c { s.core c with arrivals := rest }).lands a c i).flush) ∧
      ((s.core c).sealed = true ∨ s.noneFree a.thread.ctx c → exec .migrationArrival s = .next s.flush)) ∧
    (s.ev.flag = false → s.ev.x = 1 → (s.cove s.ev.m).spill = a :: rest → (s.core a.dest).status = .normal →
      s.away a.thread.ctx a.dest = false →
      let u := s.setCove s.ev.m { s.cove s.ev.m with spill := rest }
      (∀ i, (s.core a.dest).arrivals = [] → s.Free a.thread.ctx a.dest i →
        exec .migrationArrival s = .next (u.lands a a.dest i).flush) ∧
      ((s.core a.dest).arrivals.length < 4 → ((s.core a.dest).arrivals ≠ [] ∨ s.noneFree a.thread.ctx a.dest) →
        exec .migrationArrival s = .next (u.buffered a).flush))) ∧
  (∀ (s : State) (before behind : List Task) (t : Task) (n i : Nat), let v := s.ev.n
    let c := coreOf v n
    (s.cove v).ready = before ++ t :: behind → (∀ u ∈ before, s.dispatching u.ctx = false) → s.dispatching t.ctx = true →
    s.placeFor v t = some (n, i) →
    let u := s.setCove v { s.cove v with ready := before ++ behind, lastDispatch := n }
    let sends (k : Core) (part : Option Nat) : State :=
      ((u.setCore c (k.setSlot i { k.slot i with occ := .awaiting t })).markTask t c 3).send (partPacket t.ctx c i (.dispatch c i t part))
    (t.ordered = false → exec .taskDispatch s = .next (sends (s.core c) none).flush) ∧
    (∀ j, t.ordered = true → (s.core c).spec[j]? = some none → (∀ l, l < j → (s.core c).spec[l]? ≠ some none) →
      exec .taskDispatch s = .next
        (sends { s.core c with spec := (s.core c).spec.setIfInBounds j (some { task := t, uid := 0 }) } (some j)).flush)) ∧
  (∀ (s : State) (x : Nat), s.dispatching x = true ↔ ∃ k, s.ctx? x = some k ∧ k.torn = false ∧ k.preempting = false) ∧
  (∀ (s : State) (x c : Nat) (ordered : Bool),
    (∀ i, s.Takes x c ordered → s.Free x c i → s.eligible x c ordered = some i) ∧
    (¬s.Takes x c ordered ∨ s.noneFree x c → s.eligible x c ordered = none)) ∧
  (∀ (s : State) (v : Nat) (t : Task), let able (n : Nat) : Option Nat := s.eligible t.ctx (coreOf v n) t.ordered
    (∀ i, t.home ≠ 0xFF → able t.home.toNat = some i → s.placeFor v t = some (t.home.toNat, i)) ∧
    (∀ n i d, t.home = 0xFF ∨ able t.home.toNat = none → d < 63 → n = ((s.cove v).lastDispatch + 1 + d) % 63 →
      (∀ e, e < d → able (((s.cove v).lastDispatch + 1 + e) % 63) = none) → able n = some i → s.placeFor v t = some (n, i)) ∧
    ((t.home = 0xFF ∨ able t.home.toNat = none) → (∀ n, n < 63 → able n = none) → s.placeFor v t = none)) ∧
  (∀ (s : State) (p : Packet) (c i : Nat) (t : Task) (part : Option Nat), Brings s p (.dispatch c i t part) →
    (s.slot c i).occ = .awaiting t →
    let u : State := { s.dropPacket p.id with serial := s.serial + 1 }
    let own (q : SpecPart) : SpecPart := { q with uid := s.serial }
    let k : Core := match part with
      | some j => { s.core c with spec := (s.core c).spec.setIfInBounds j ((((s.core c).spec[j]?).getD none).map own) }
      | none => s.core c
    exec .dispatchArrival s = .next ((u.setCore c { k with
      vqueue := k.vqueue ++ [{ ctx := t.ctx, slot := i, uid := 0, pc := 0, op := .qreset }] }).setThread c i
        { t.starts c i s.serial with spec := part }).flush) ∧
  (∀ (s : State) (x w : Nat) (k : Ctx), let v := s.ev.n
    let me := s.cove v
    me.owner = some x → s.ctx? x = some k → s.dispatching x = true → s.hasRoom x v = true → (∀ u ∈ me.ready, u.ctx ≠ x) →
    (me.victim = some w ∧ w ∈ k.record.coves ∧ w ≠ v ∨ me.victim = none ∧ NextCove k.record.coves v v w ∨
      ∃ z, me.victim = some z ∧ (z ∉ k.record.coves ∨ z = v) ∧ NextCove k.record.coves z v w) →
    (∀ before t behind, (s.cove w).ready = before ++ t :: behind → (∀ u ∈ before, u.ctx ≠ x) → t.ctx = x → t.home = 0xFF →
      exec .stealAttempt s = .next ((s.setCove w { s.cove w with ready := before ++ behind }).setCove v
        { me with victim := some w, ready := insertBy Task.before t me.ready })) ∧
    ((∀ u ∈ (s.cove w).ready, u.ctx ≠ x) ∨
      (∃ before t behind, (s.cove w).ready = before ++ t :: behind ∧ (∀ u ∈ before, u.ctx ≠ x) ∧ t.ctx = x ∧ t.home ≠ 0xFF) →
      ∃ next, exec .stealAttempt s = .next (s.setCove v { me with victim := next }) ∧
        ∀ w', NextCove k.record.coves w v w' → next = some w')) ∧
  (∀ (s : State) (x v : Nat), s.hasRoom x v = true ↔ ∃ n, n < 63 ∧ (s.eligible x (coreOf v n) false).isSome = true)

/-! ## Events: the vector unit, the copy engine, the matrix unit -/

/-- VECTOR_COMMAND_START (R194): the oldest command starts once nothing that it reads or writes awaits an earlier one's
result, and no command that awaits other members' data occupies the unit (R200): what it will write is settled from what it reads (R195,
R201-R214), or it defers its fault (R197). A member's part of a command that crosses members is complete once the members whose data it
needs have started: for `vperm.bf` its own and its partner's, for a reduction every one (R200). A load reads its bytes at
its start (log entry 14). R217, R218: a gather's accepted lanes are those whose number lies below the bound; their blocks enter the
copy queue of 8 one by one, in lane order (log entry 35); a refused lane is counted in GBOUND. R88, R91: what a command reads of its
thread's stores: all of them behind a `fence.le`, else of each word the value before a store or behind it, as the event says. R97, R218:
a gather waits besides for its thread's earlier commands, other gathers apart. R197, R211, R214: the deferred fault of a range: 1 for its
alignment, 2 beyond local store, 3 for a write below 0x800, 4 in an enabled speculative buffer, in that order; of a gather (R217) 5 for
its block size first, then 1, 3, 2, 4. The first that a thread has outstanding is kept. -/
def Obligations.VectorStarts : Prop :=
  (∀ (s : State) (x n align : Nat) (a : Word) (write : Bool),
    let spec : Prop := 0x17000 < a.toNat + n ∧ a.toNat < 0x18000 ∧ ∃ k, s.ctx? x = some k ∧ k.record.flags.getLsbD 0 = true
    let fault := s.unitFault x a n align write
    (a.toNat % align ≠ 0 → fault = some 1) ∧
    (a.toNat % align = 0 →
      (0x18000 < a.toNat + n → fault = some 2) ∧
      (a.toNat + n ≤ 0x18000 →
        (write = true → a.toNat < 0x800 → fault = some 3) ∧
        (write = false ∨ 0x800 ≤ a.toNat → (spec → fault = some 4) ∧ (¬spec → fault = none))))) ∧
  (∀ (s : State) (x : Nat) (d blk : Word),
    let n := blk.toNat % 2 ^ 13
    let spec : Prop := 0x17000 < d.toNat + 4 * n ∧ d.toNat < 0x18000 ∧ ∃ k, s.ctx? x = some k ∧ k.record.flags.getLsbD 0 = true
    let fault := s.gatherFault x d blk
    (n % 8 ≠ 0 ∨ n < 8 ∨ 4096 < n → fault = some 5) ∧
    (n % 8 = 0 → 8 ≤ n → n ≤ 4096 →
      (d.toNat % 8 ≠ 0 → fault = some 1) ∧
      (d.toNat % 8 = 0 → d.toNat < 0x800 → fault = some 3) ∧
      (d.toNat % 8 = 0 → 0x800 ≤ d.toNat →
        (0x18000 < d.toNat + 4 * n → fault = some 2) ∧
        (d.toNat + 4 * n ≤ 0x18000 → (spec → fault = some 4) ∧ (¬spec → fault = none))))) ∧
  (∀ (s : State) (c n : Nat) (q : VCmd) (t : Thread), q.gang = none → s.holder? c q.slot q.uid = some t →
    s.deferVector c q n = s.setThread c q.slot (if t.vdpend then t else { t with
      vdpend := true, vdcode := BitVec.ofNat 4 n, vdpc := q.pc })) ∧
  (∀ (k : Core) (q : VCmd), k.gatherWaits q = true ↔
    ((∃ d base blk bound vs, q.op = .gather d base blk bound vs) ∨ ∃ todo, q.op = .blocks todo) ∧
    ∃ f ∈ k.vflight, f.cmd.uid = q.uid ∧ (∀ d base blk bound vs, f.cmd.op ≠ .gather d base blk bound vs) ∧
      ∀ todo, f.cmd.op ≠ .blocks todo) ∧
  ∀ (s : State) (q : VCmd) (rest : List VCmd),
    let c := s.ev.n
    let k := s.core c
    let u := s.setCore c { k with vqueue := rest }
    let starts (t : State) : Prop := exec .vectorCommandStart s = .next t.flush
    (k.vqueue = q :: rest → (∀ todo, q.op ≠ .blocks todo) →
      k.vectorHazard q.op = true ∨ k.occupied = true ∨ k.gatherWaits q = true → exec .vectorCommandStart s = .next s) ∧
    (k.occupied = true ↔ ∃ f ∈ k.vflight, f.waits = true ∧ f.cmd.op.crosses = true) ∧
    (∀ j, s.joined c q j = true ↔ ∀ i ∈ (match q.op with
        | .perm b _ _ => [j, j ^^^ 2 ^ (b - 2)]
        | _ => List.range (q.cores c).length),
      ∃ d f, (q.cores c)[i]? = some d ∧ (s.core d).flightOf q.serial = some f) ∧
    (k.vqueue = q :: rest → k.vectorHazard q.op = false → k.occupied = false → k.gatherWaits q = false →
    (computes q.op = true →
      let r := q.op.apply k.vreg (k.slot q.slot).mod
      starts (u.fly c { cmd := q, regs := r.1, flags := r.2.1, value := r.2.2 })) ∧
    (q.op = .qreset → starts (u.setSlot c q.slot { k.slot q.slot with mod := {} })) ∧
    (∀ v1 v2, q.op = .qset v1 v2 →
      let lanes (r : Reg) : Vector Word 4 := #v[laneOf (k.vreg r) 0, laneOf (k.vreg r) 1, laneOf (k.vreg r) 2, laneOf (k.vreg r) 3]
      starts ((u.setSlot c q.slot { k.slot q.slot with mod := { q := lanes v1, mu := lanes v2 } }).fly c { cmd := q })) ∧
    (∀ a vd, q.op = .load a vd →
      (∀ n, s.unitFault q.ctx a 32 32 false = some n → starts (u.deferVector c q n)) ∧
      (s.unitFault q.ctx a 32 32 false = none → s.localError c a.toNat 32 = none →
        starts (u.fly c { cmd := q, regs := [(vd, BitVec.ofNat 256 (leNat (s.engineBytes q.uid q.issued (.local c a.toNat) 32)))] }))) ∧
    (∀ a vs, q.op = .store a vs →
      (∀ n, s.unitFault q.ctx a 32 32 true = some n → starts (u.deferVector c q n)) ∧
      (s.unitFault q.ctx a 32 32 true = none →
        starts (u.fly c { cmd := q, mem := some (a.toNat, leBytes 32 (k.vreg vs).toNat) }))) ∧
    (∀ a vs, q.op = .quant a vs →
      let b := quantBlock (codesOf ((regsFrom vs 4).map k.vreg))
      (∀ n, s.unitFault q.ctx a 18 1 true = some n → starts (u.deferVector c q n)) ∧
      (s.unitFault q.ctx a 18 1 true = none → starts (u.fly c { cmd := q, mem := some (a.toNat, b.1), flags := b.2 }))) ∧
    (∀ a vd, q.op = .dquant a vd →
      (∀ n, s.unitFault q.ctx a 18 1 false = some n → starts (u.deferVector c q n)) ∧
      (s.unitFault q.ctx a 18 1 false = none → s.localError c a.toNat 18 = none →
        starts (u.fly c { cmd := q, regs := (regsFrom vd 4).zip (dequantized (s.engineBytes q.uid q.issued (.local c a.toNat) 18)) }))) ∧
    (∀ dst src part mode sat draws vd v1, q.op = .cvt dst src part mode sat draws vd v1 →
      let r := convertRegs dst src part (fun i => { mode, sat, r := drawAt draws i }) (k.vreg vd) (k.vreg v1)
      starts (u.fly c { cmd := q, regs := [(vd, r.1)], flags := r.2 })) ∧
    (∀ op vd v1, q.op = .sfu op vd v1 →
      starts ((u.fly c { cmd := q, waits := true }).send {
        id := 0, ctx := q.ctx, core := c, slot := q.slot, uid := q.uid, kind := .sfuRequest (c / 8) vd op (k.vreg v1) q })) ∧
    (∀ d base blk bound vs, q.op = .gather d base blk bound vs →
      (∀ n, s.gatherFault q.ctx d blk = some n → starts (u.deferVector c q n)) ∧
      (s.gatherFault q.ctx d blk = none → q.gang = none →
        let lanes := acceptedLanes bound (k.vreg vs)
        let n := bits blk 0 13
        let block (l : Nat) (x : Word) : CopyCmd :=
          { ctx := q.ctx, core := c, slot := q.slot, uid := q.uid, cove := coveOf c, dst := d + BitVec.ofNat 64 (l * n),
            src := base + x * BitVec.ofNat 64 n, len := n, gather := some q.serial, issued := q.issued
            signal := if blk.getLsbD 37 then .fullCounter c (bits blk 32 5) else .full }
        starts ((if lanes = [] then u.fly c { cmd := q }
          else s.setCore c { k with vqueue := { q with op := .blocks (lanes.map fun l => block l.1 l.2) } :: rest }).onIssuer
            c q fun t => t.refuseLanes (4 - lanes.length) q.pc))) ∧
    (∀ rm draws fd v1, q.op = .redsum rm draws fd v1 → q.gang = none → k.flightOf q.serial = none →
      let r := addTree rm 6 draws 0 (elems (k.vreg v1) 32)
      starts (u.fly c { cmd := q, src := k.vreg v1, value := some (BitVec.ofNat 64 r.1), flags := r.2 })) ∧
    (∀ fd v1, q.op = .redmax fd v1 → q.gang = none → k.flightOf q.serial = none →
      let r := maxTree (elems (k.vreg v1) 32)
      starts (u.fly c { cmd := q, src := k.vreg v1, value := some (BitVec.ofNat 64 r.1), flags := r.2 }))) ∧
    (∀ b more, k.vqueue = q :: rest → q.op = .blocks (b :: more) →
      (8 ≤ k.copyq.length → starts s) ∧
      (k.copyq.length < 8 → more = [] → starts ((s.setCore c { k with copyq := k.copyq ++ [b], vqueue := rest }).fly c { cmd := q })) ∧
      (k.copyq.length < 8 → more ≠ [] →
        starts (s.setCore c { k with copyq := k.copyq ++ [b], vqueue := { q with op := .blocks more } :: rest }))) ∧
    (∀ bound v l x, (l, x) ∈ acceptedLanes bound v ↔ l < 4 ∧ x = laneOf v l ∧ x.toNat < bound.toNat) ∧
    (∀ bound v, (acceptedLanes bound v).Pairwise fun a b => a.1 < b.1) ∧
    (∀ (t : Thread) n pc, t.refuseLanes n pc = if n = 0 then t else { t with
      gbound := wide (min (t.gbound.toNat / 2 ^ 48 + n) 0xFFFF * 2 ^ 48 + t.gbound.toNat % 2 ^ 48 : Nat), gpend := true
      gpc := if t.gpend then t.gpc else pc }) ∧
    (∀ uid issued off n, s.ev.bytes = [] ∨ (∀ e ∈ s.olds, e.uid = uid → e.step < issued.fence ∨ issued.step ≤ e.step) →
      s.engineBytes uid issued (.local c off) n = k.mem.bytes off n) ∧
    (∀ uid issued off e older, s.olds = e :: older → e.uid = uid → e.target = .local c off → off % 8 = 0 →
      e.new = k.mem.load off 8 → issued.fence ≤ e.step → e.step < issued.step → s.ev.bytes = [0, 0] →
      s.engineBytes uid issued (.local c off) 8 = leBytes 8 e.old.toNat)

/-- VECTOR_RESULT_WRITE (R195, R112, R197, R209): the registers, the bytes and the flags of a command are written, once the earlier
commands of its thread have taken effect (R97; not the blocks of a gather, R218), and a
thread that waits for its value goes on. A deferred fault is reported first: DEFERRED_VECTOR with the PC and the code kept, or else
GATHERBOUND with the PC of the first gather that refused; the register is then not written, no flag raised, and the generator as it was
before the command's draws (R197, R203). The
flags reach a thread that is swapped out of its slot, and are lost where it has left (R112). SFU_REQUEST and SFU_RESULT (R48, R215): the
octet's unit serves a core's requests in order; the thread goes on when its register is written, once its earlier commands have taken
effect (R97). -/
def Obligations.VectorResults : Prop :=
  (∀ (s : State) (f : VFlight),
    let c := s.ev.n
    let k := s.core c
    k.vflight[s.ev.m]? = some f → f.waits = false → k.landable s.ev.m f = true → f.cmd.gang = none →
    let regs := f.regs.foldl (fun v w => v.setIfInBounds w.1.toNat w.2) k.v
    let written := s.setCore c { k with vflight := k.vflight.take s.ev.m ++ k.vflight.drop (s.ev.m + 1), v := regs }
    let stored := match f.mem with
      | some (o, bs) => written.storeRange f.cmd.ctx c o bs 10
      | none => written
    (∀ t, stored.holder? c f.cmd.slot f.cmd.uid = some t →
      (∀ dest v cause seed, t.park = .await cause (.vector dest f.cmd.serial seed) → f.value = some v → t.vdpend = false →
        t.gpend = false →
        exec .vectorResultWrite s = .next
          (((stored.setThread c f.cmd.slot (t.raiseFlags f.flags)).deliver c f.cmd.slot dest v).retire c f.cmd.slot).flush) ∧
      (∀ dest v cause seed, t.park = .await cause (.vector dest f.cmd.serial seed) → f.value = some v →
        let u : Thread := { t with srseed := seed }
        (t.vdpend = true → exec .vectorResultWrite s = .next
          ((stored.setThread c f.cmd.slot { u with vdpend := false }).trapAt c f.cmd.slot
            { cause := 16, utval := t.vdpc, sub := t.vdcode.toNat }).flush) ∧
        (t.vdpend = false → t.gpend = true → exec .vectorResultWrite s = .next
          ((stored.setThread c f.cmd.slot { u with gpend := false }).trapAt c f.cmd.slot { cause := 18, utval := t.gpc }).flush)) ∧
      (t.waits = none → exec .vectorResultWrite s = .next (stored.setThread c f.cmd.slot (t.raiseFlags f.flags)).flush)) ∧
    (stored.holder? c f.cmd.slot f.cmd.uid = none → exec .vectorResultWrite s = .next ({ stored with
      ctxs := stored.ctxs.map fun q => (q.1, { q.2 with saved := q.2.saved.map fun v =>
        if v.core = c ∧ v.slot = f.cmd.slot ∧ v.thread.uid = f.cmd.uid then { v with thread := v.thread.raiseFlags f.flags }
        else v }) } : State).flush)) ∧
  (∀ (k : Core) (i : Nat) (f : VFlight), k.landable i f = true ↔ f.waits = false ∧
    (∀ e ∈ k.vflight.take i, e.cmd.uid = f.cmd.uid → e.cmd.op.isGather = true) ∧
    (∀ e ∈ k.vflight.take i, ∀ o bs o' bs', f.mem = some (o, bs) → e.mem = some (o', bs') →
      o + bs.length ≤ o' ∨ o' + bs'.length ≤ o) ∧
    (∀ b ∈ k.copyq, b.gather ≠ some f.cmd.serial) ∧ ∀ r, k.copying = some r → r.cmd.gather ≠ some f.cmd.serial) ∧
  (∀ (s : State) (c i cause sub : Nat) (utval : Word) (t : Thread), s.thread? c i = some t → t.gang = none → t.utvec.getLsbD 0 = true →
    s.trapAt c i { cause, utval, sub } = s.setThread c i (t.trapped cause sub utval false)) ∧
  (∀ (s : State) (p : Packet),
    (∀ vd op x q, Brings s p (.sfuRequest (p.core / 8) vd op x q) →
      s.net.find? (fun r => r.kind.isSfuRequest && r.core = p.core) = some p →
      exec .sfuRequest s = .next (s.turnPacket p.id (.sfuResult vd
        (ofElems 32 ((elems x 32).map fun e => (sfuValue op (BitVec.ofNat 32 e)).toNat)) q))) ∧
    (∀ vd y q t cause, Brings s p (.sfuResult vd y q) → q.gang = none → ((s.core p.core).flightOf q.serial).isSome = true →
      (s.core p.core).vqueue.all (fun r => r.serial != q.serial) = true →
      (∀ before f behind, (s.core p.core).vflight = before ++ f :: behind → f.cmd.serial = q.serial → ∀ e ∈ before,
        e.cmd.uid = q.uid → e.cmd.op.isGather = true) →
      s.holder? p.core q.slot q.uid = some t → t.park = .await cause (.sfu q.serial) →
      exec .sfuResult s = .next (((s.dropPacket p.id).setCore p.core { s.core p.core with
        vflight := (s.core p.core).vflight.filter fun f => f.cmd.serial != q.serial
        v := (s.core p.core).v.setIfInBounds vd.toNat y }).retire p.core q.slot).flush) ∧
    (∀ vd y q before f behind, Brings s p (.sfuResult vd y q) → (s.core p.core).vflight = before ++ f :: behind →
      f.cmd.serial = q.serial → (∀ e ∈ before, e.cmd.serial ≠ q.serial) →
      (∃ e ∈ before, e.cmd.uid = q.uid ∧ e.cmd.op.isGather = false) → exec .sfuResult s = .next s))

/-- R201: what an integer command writes in each element of w bits, on exact integers. R208: `vperm.bf`: element i of a gang's
registers becomes element i xor 2^k, over the 4 elements of each member. R202: what a floating command writes in each element: the exact
sum, difference, product and fused sum of its operands rounded once to the element's format; the lesser or greater number; the flags of
all elements. R209: comparisons, `vsel` bit by bit, `vins`, `vbcast`, `vmvx`. R119, R209: the pairwise tree of additions, each with its own
draw in the order of the tree; the greatest number. R113, R213: where `vcvt` puts the converted elements, and what a conversion to an
integer and to each float format gives (one from INT8 to E4M3 or E5M2 is a free value, log entry 10; that an infinity saturated to them
sets of without nx is log entry 107). That `vfma` of 0 times infinity plus a quiet NaN sets nv is log entry 109. R106, R214: the elements
of a block (a product beyond FP32's range: log entry 83). R107: what `vquant` builds: the scale, the element that takes 0b1000 and its X,
the codes of the others, nv and nx. -/
def Obligations.VectorLanes : Prop :=
  (∀ (op fmt ebits mbits mode : Nat) (draws : List (BitVec 16)) (d a b : VReg),
     (fmt, ebits, mbits) ∈ [(0, 8, 23), (1, 8, 7), (2, 5, 10)] → op ≤ 5 →
     let f := fmtOf fmt
     let w := 1 + ebits + mbits
     let rd (i : Nat) : Rounding := { mode, r := drawAt draws i }
     let v (r : VReg) (i : Nat) : FVal := floatValue ebits mbits (elem r w i)
     let out := fpRegs op fmt mode draws d a b
     let writes (exact : Nat → Exact) : Prop :=
       (∀ i, i < 256 / w → elem out.1 w i = (f.finish (rd i) (exact i)).1) ∧
       flagsOf out.2 (256 / w) fun i => (f.finish (rd i) (exact i)).2
     let picks (greatest : Bool) : Prop :=
       (∀ i, i < 256 / w → numberOf greatest ((2 ^ ebits - 1) * 2 ^ mbits + 2 ^ (mbits - 1)) (elem a w i) (elem b w i) (v a i) (v b i)
         (elem out.1 w i)) ∧
       flagsOf out.2 (256 / w) fun i => if (v a i).isSignalling || (v b i).isSignalling then 0b10000 else 0
     (op = 0 → writes fun i => addExact mode (v a i) (v b i)) ∧ (op = 1 → writes fun i => addExact mode (v a i) (v b i).neg) ∧
     (op = 2 → writes fun i => mulExact (v a i) (v b i)) ∧ (op = 3 → writes fun i => fmaExact mode (v a i) (v b i) (v d i)) ∧
     (op = 4 → picks false) ∧ (op = 5 → picks true)) ∧
  (∀ (op : Nat) (a b : VReg), let out := compareRegs op a b
     let of (i : Nat) := fp32.compare op (elem a 32 i) (elem b 32 i)
     (∀ i, i < 8 → elem out.1 32 i = if (of i).1 then 0xFFFFFFFF else 0) ∧ flagsOf out.2 8 fun i => (of i).2) ∧
  (∀ (vd v1 v2 : Reg) (n l i : Nat) (x : Word) (v : Reg → VReg) (m : Moduli), n < 4 → l < 4 → i < 256 →
     let only (o : VOp) : VReg := ((o.apply v m).1[0]?.map fun q => q.2).getD 0
     (only (.sel vd v1 v2)).getLsbD i = (if (v vd).getLsbD i then (v v1).getLsbD i else (v v2).getLsbD i) ∧
     laneOf (only (.ins n x vd)) l = (if l = n then x else laneOf (v vd) l) ∧ laneOf (only (.bcast x vd)) l = x ∧
     (VOp.mvx n vd v1).apply v m = ([], 0, some (laneOf (v v1) n)) ∧
     (∀ o ∈ [VOp.sel vd v1 v2, .ins n x vd, .bcast x vd], ∃ r, o.apply v m = ([(vd, r)], 0, none))) ∧
  (∀ (mode n : Nat) (draws : List (BitVec 16)) (fl : Flags) (xs : List Nat),
     (∀ x, xs = [x] → addTree mode n draws fl xs = (x, fl)) ∧
     (∀ half, 0 < half → xs.length = 2 * half →
       let sum (i : Nat) := fp32.finish { mode, r := drawAt draws i }
         (addExact mode (fp32.decode ((xs[2 * i]?).getD 0)) (fp32.decode ((xs[2 * i + 1]?).getD 0)))
       addTree mode (n + 1) draws fl xs = addTree mode n (draws.drop half)
         ((List.range half).foldl (fun fl i => fl ||| (sum i).2) fl) ((List.range half).map fun i => (sum i).1))) ∧
  (∀ xs : List Nat, 2 ≤ xs.length → (∀ x ∈ xs, x < 2 ^ 32) → greatestOf xs (maxTree xs).1 ∧
     (maxTree xs).2 = if xs.any fun x => (fp32Value x).isSignalling then 0b10000 else 0) ∧
  (∀ (dst src part : Nat) (rd : Nat → Rounding) (d a : VReg), dst ≤ 6 → src ≤ 6 → openRounding dst src = false →
     let wd := widthOf dst
     let ws := widthOf src
     let n := 256 / max wd ws
     let of (i : Nat) := convert (rd i) dst src (elem a ws (if ws < wd then part * n + i else i))
     let out := convertRegs dst src part rd d a
     (part < max wd ws / min wd ws →
       (∀ i, i < n → elem out.1 wd (if wd < ws then part * n + i else i) = (of i).1) ∧
       (∀ i, i < 256 / wd → wd < ws → (i < part * n ∨ part * n + n ≤ i) → elem out.1 wd i = elem d wd i) ∧
       flagsOf out.2 n fun i => (of i).2)) ∧
  (∀ (rd : Rounding) (dst src x : Nat), src ≤ 6 → x < 2 ^ widthOf src →
     let v : FVal := if src = 5 ∨ src = 6 then ofInt (signedOf (widthOf src) x) else (fmtOf src).decode x
     let r := convert rd dst src x
     (dst ≤ 2 → r = (fmtOf dst).finish rd { v }) ∧ (dst = 3 → r = e4m3.encode rd v) ∧ (dst = 4 → r = e5m2.encode rd v) ∧
     (dst = 5 → let k := toInt rd (-128) 127 v
       signedOf 8 r.1 = k.1 ∧ r.1 < 2 ^ 8 ∧ r.2 = k.2) ∧
     (dst = 6 → let k := toInt rd (-(2 ^ 31)) (2 ^ 31 - 1) v
       signedOf 32 r.1 = k.1 ∧ r.1 < 2 ^ 32 ∧ r.2 = k.2)) ∧
  (∀ x : Nat, (x < 2 ^ 16 → bf16.decode x = floatValue 8 7 x ∧ fp16.decode x = floatValue 5 10 x) ∧
     (x < 2 ^ 8 → let neg : Bool := decide (128 ≤ x)
       e4m3.decode x = (if x % 128 = 127 then .nan false else if x / 8 % 16 = 0 then .fin neg (x % 8) (-9)
         else .fin neg (8 + x % 8) ((x / 8 % 16 : Nat) - 10)) ∧
       e5m2.decode x = (if x / 4 % 32 = 31 then if x % 4 = 0 then .inf neg else .nan false
         else if x / 4 % 32 = 0 then .fin neg (x % 4) (-16) else .fin neg (4 + x % 4) ((x / 4 % 32 : Nat) - 17))) ∧
     (x < 2 ^ 4 → e2m1.decode x =
       (if x / 2 % 4 = 0 then .fin (decide (8 ≤ x)) (x % 2) (-1) else .fin (decide (8 ≤ x)) (2 + x % 2) ((x / 2 % 4 : Nat) - 2)))) ∧
  (∀ (four : Bool) (rd : Rounding) (v : FVal), rd.mode ≤ 5 → rd.r < 2 ^ 16 →
     let f := if four then e4m3 else e5m2
     let mbits : Nat := if four then 3 else 2
     let least : Int := if four then -6 else -14
     let most : Int := if four then 8 else 15
     let largest : Nat := if four then 0x7E else 0x7B
     let coded (neg : Bool) (code : Nat) : Nat := if neg then 128 + code else code
     let r := f.encode rd v
     (∀ signalling, v = .nan signalling → r = (if four then 0x7F else 0x7E, if signalling then 0b10000 else 0)) ∧
     (∀ neg, v = .inf neg → r = if rd.sat then (coded neg largest, 0b00100)
       else if four then (0x7F, 0b10000) else (coded neg 0x7C, 0)) ∧
     (∀ neg e, v = .fin neg 0 e → r = (coded neg 0, 0)) ∧
     (∀ neg m e, v = .fin neg m e → m ≠ 0 →
       let p : Int := e + (Nat.log2 m : Int)
       let q : Int := max p least - mbits
       let k := roundUnits rd neg m e false q
       let tooLarge : Prop := most < p ∨ (p = most ∧ (if four then 14 else 7) < k.1)
       let carry : Int := if (roundUnits rd neg m e false (p - mbits)).1 = 2 ^ (mbits + 1) then 1 else 0
       (¬tooLarge → (∃ n g, f.decode r.1 = .fin neg n g ∧ q ≤ g ∧ inUnits n g q = k.1) ∧
         r.2 = (if k.2 then 0b00001 else 0) ||| (if k.2 = true ∧ p + carry < least then 0b00010 else 0)) ∧
       (tooLarge → r = (if rd.sat then coded neg largest else if four then 0x7F else coded neg
         (if rd.mode = 1 ∨ (rd.mode = 2 ∧ neg = false) ∨ (rd.mode = 3 ∧ neg = true) then largest else 0x7C), 0b00101)))) ∧
  (∀ (block : List Byte) (j i : Nat), block.length = 18 → j < 4 → i < 8 →
     let k := 8 * j + i
     let pair := ((block[k / 2]?).getD 0).toNat
     let code := if k % 2 = 0 then pair % 16 else pair / 16
     let scale := ((block[16]?).getD 0).toNat
     let value : FVal := if scale = 255 then .nan false
       else match if code = 8 then e4m3.decode ((block[17]?).getD 0).toNat else e2m1.decode code with
         | .fin n m e => .fin n m (e + (scale - 127))
         | v => v
     blockElement block k = value ∧ elem ((dequantized block)[j]?.getD 0) 32 i = (fp32.finish .rne { v := value }).1) ∧
  (∀ xs : List Nat, xs.length = 32 → (∀ x ∈ xs, x < 2 ^ 32) →
     let v (k : Nat) : FVal := fp32Value ((xs[k]?).getD 0)
     let used (k : Nat) : FVal := match v k with
       | .nan _ => .fin false 0 0
       | .inf n => .fin n (2 ^ 24 - 1) 104
       | x => x
     let size (k : Nat) : Nat := ((used k).inUnits (-149)).natAbs
     let scaled (e : Int) (k : Nat) : FVal := match used k with
       | .fin n m f => .fin n m (f - e)
       | x => x
     let b := (quantBlock xs).1
     let nibble (k : Nat) : Nat := if k % 2 = 0 then ((b[k / 2]?).getD 0).toNat % 16 else ((b[k / 2]?).getD 0).toNat / 16
     let greatest (k : Nat) : Prop := (v k).isNan = false ∧ ∀ j, j < 32 → size j ≤ size k
     b.length = 18 ∧
     (∃ e : Int, -127 ≤ e ∧ b[16]? = some (BitVec.ofNat 8 (e + 127).toNat) ∧ (∀ k, k < 32 → size k < 2 ^ (e + 152).toNat) ∧
       (-127 < e → ∃ k, k < 32 ∧ 2 ^ (e + 151).toNat ≤ size k) ∧
       (∀ k, k < 32 → greatest k → (∀ j, j < k → ¬greatest j) → nibble k = 8 ∧
         b[17]? = some (BitVec.ofNat 8 (e4m3.encode { mode := 0, sat := true, r := 0 } (scaled e k)).1)) ∧
       (∀ k, k < 32 → (¬greatest k ∨ ∃ j, j < k ∧ greatest j) →
         let c := nibble k
         c ≠ 8 ∧ ((v k).isNan = true → c = 0) ∧
         ∀ n m f u, scaled e k = .fin n m f → u ≤ f → u ≤ -1 →
           let mag (d : Nat) : Int := inUnits (([0, 1, 2, 3, 4, 6, 8, 12][d]?).getD 0) (-1) u
           let far (d : Nat) : Nat := (inUnits m f u - mag d).natAbs
           (c ≠ 0 → (decide (8 ≤ c)) = n) ∧ ∀ d, d < 8 → far (c % 8) ≤ far d ∧ (far d = far (c % 8) → d ≠ c % 8 → c % 2 = 0))) ∧
     ((∀ k, k < 32 → (v k).isNan = true) → b = List.replicate 18 0) ∧
     (quantBlock xs).2 =
       (if (List.range 32).any fun k => match v k with
         | .fin _ _ _ => false
         | _ => true then 0b10000 else 0) |||
       (if (List.range 32).any fun k => match v k with
         | .fin n m f => !(blockElement b k).eq (.fin n m f)
         | _ => false then 0b00001 else 0)) ∧
  (∀ (w i op : Nat) (a b : VReg), w ∈ [8, 16, 32, 64] → i < 256 / w → op ≤ 12 →
     let x := elem a w i
     let y := elem b w i
     let sx := signedOf w x
     let sy := signedOf w y
     let n := y % w
     let r := elem (mapElems w (intElem op w) a b) w i
     (op = 0 → r = (x + y) % 2 ^ w) ∧ (op = 1 → (r : Int) = ((x : Int) - y) % (2 ^ w : Nat)) ∧ (op = 2 → r = x * y % 2 ^ w) ∧
     (op = 3 → ∀ j, r.testBit j = (x.testBit j && y.testBit j)) ∧ (op = 4 → ∀ j, r.testBit j = (x.testBit j || y.testBit j)) ∧
     (op = 5 → ∀ j, r.testBit j = (x.testBit j != y.testBit j)) ∧ (op = 6 → r = x * 2 ^ n % 2 ^ w) ∧ (op = 7 → r = x / 2 ^ n) ∧
     (op = 8 → signedOf w r = sx / (2 ^ n : Nat)) ∧ (op = 9 → signedOf w r = min sx sy) ∧ (op = 10 → signedOf w r = max sx sy) ∧
     (op = 11 → r = min x y) ∧ (op = 12 → r = max x y)) ∧
  (∀ (k : Nat) (srcs : List VReg) (i : Nat), 2 ^ k < 4 * srcs.length → (∃ e, srcs.length = 2 ^ e) → i < 4 * srcs.length →
     laneOf (permuted k srcs (i / 4)) (i % 4) =
       laneOf ((srcs[(i ^^^ 2 ^ k) / 4]?).getD 0) ((i ^^^ 2 ^ k) % 4) ∧ (i ^^^ 2 ^ k) < 4 * srcs.length)

/-- R117, R118, R206, R207: what the modular commands write in each lane, on exact integers: 0 where the modulus is not
valid; they raise no flag. -/
def Obligations.ModularLanes : Prop :=
  ∀ (m : Moduli) (a b w : VReg) (l : Nat), l < 4 →
    let q := (m.qAt l).toNat
    let x := (laneOf a l).toNat
    let y := (laneOf b l).toNat
    let z := (laneOf w l).toNat
    let of (op : Nat) : Nat := (laneOf (modularRegs op m a b) l).toNat
    let pair (inverse : Bool) : Nat × Nat :=
      let r := butterflyRegs inverse m a b w
      ((laneOf r.1 l).toNat, (laneOf r.2 l).toNat)
    (validModulus (m.qAt l) = false → of 0 = 0 ∧ of 1 = 0 ∧ of 2 = 0 ∧ of 3 = 0 ∧ pair false = (0, 0) ∧ pair true = (0, 0)) ∧
    (validModulus (m.qAt l) = true →
      of 0 = (x + y) % q ∧ (of 1 : Int) = ((x : Int) - y) % q ∧ of 2 = x * y % q ∧
      (pair false).1 = (x + z * y) % q ∧ ((pair false).2 : Int) = ((x : Int) - z * y) % q ∧
      (pair true).1 = (x + y) % q ∧ ((pair true).2 : Int) = ((x : Int) - y) * z % q ∧
      (let u := (x * y + x * y % 2 ^ 64 * (m.muAt l).toNat % 2 ^ 64 * q) / 2 ^ 64
       of 3 = (if q ≤ u then u - q else u) % 2 ^ 64) ∧
      (((m.muAt l).toNat * q + 1) % 2 ^ 64 = 0 → x * y < q * 2 ^ 64 → of 3 < q ∧ of 3 * 2 ^ 64 % q = x * y % q)) ∧
    (∀ op inverse vd v1 v2 v, ((VOp.modular op vd v1 v2).apply v m).2.1 = 0 ∧ ((VOp.bfly inverse vd v1).apply v m).2.1 = 0)

/-- COPY_START, COPY_WRITE, COPY_COMPLETE (R185-R188, R218): a command starts, with a gather's block checked; words move from
the source to the destination, each in local store or in translated memory, whose full bits and counter follow; a source or a destination
in a sealed core fails the copy, one in a core from which its context is vacated holds it (R20); a page fault holds it; at its end
`copy.tk` lowers its TCB's predecessor count, found without a physical address (log entry 33). R187, R85: the source is checked unit by
unit, once for each unit; words that carry poison carry it to their destination, but fail the copy where that is of class N (the address it
then names: log entry 97); the destination is written unit by unit, each write with its own check. One event moves 1 to 8 words of the
operand's choice (log entry 45); a copy of length 0 moves none (log entry 34). R88, R91: the bytes moved are those before or behind the
thread's own stores, as the event's operand says (log entry 14). R325: of the lines that the words of a physical source lie in, the first
that the host holds exclusively is asked back before anything is read. -/
def Obligations.CopyEvents : Prop :=
  ∀ (s : State), let c := s.ev.n
    let k := s.core c
    (∀ q rest, k.copying = none → k.copyq = q :: rest → q.gather = none →
      exec .copyStart s = .next (s.setCore c { k with
        copyq := rest, copying := some { cmd := q, todo := if q.len = 0 then [] else [(0, q.len / 8)] } }).flush) ∧
    (∀ q rest u, k.copying = none → k.copyq = q :: rest →
      u = s.setCore c { k with
        copyq := rest, copying := some { cmd := q, todo := if q.len = 0 then [] else [(0, q.len / 8)] } } →
      u.blockSound c q = false → exec .copyStart s = .next (u.failCopy c q q.src).flush) ∧
    (∀ r, k.copying = some r → r.fault = none → r.todo ≠ [] →
      let q := r.cmd
      let i := (r.pick s.ev.x.toNat s.ev.m).1
      let n := pageWords q.dst i (r.pick s.ev.x.toNat s.ev.m).2
      let sa := q.src + BitVec.ofNat 64 (8 * i)
      let da := q.dst + BitVec.ofNat 64 (8 * i)
      (∀ src dst u v, s.copyTarget q.ctx c sa false = (some src, u) → u.copyTarget q.ctx c da true = (some dst, v) →
        (∀ pa, src = .phys pa → ∀ l ∈ unitsOf pa (8 * n), v.exclusive (64 * l) = false) →
        let ends (t : State) : Prop := exec .copyWrite s = .next t.flush
        (v.copySealed src = true → ends (v.failCopy c q sa)) ∧
        (v.copySealed src = false → v.copySealed dst = true → ends (v.failCopy c q da)) ∧
        (v.copySealed src = false → v.copySealed dst = false →
          (v.copyAway q.ctx src = true ∨ v.copyAway q.ctx dst = true → ends v) ∧
          (∀ bad w, v.copyAway q.ctx src = false → v.copyAway q.ctx dst = false →
            v.checkSource q.ctx c src (8 * n) sa (r.untouched i) = (bad, w) →
            ((w.core c).copying = none → ends w) ∧ ((w.core c).copying = some r →
            (∀ before j behind, bad = before ++ j :: behind → (∃ pa, dst = .phys pa ∧ w.classAt (pa + 8 * j) = 2) →
              (∀ m ∈ before, ∀ pa, dst = .phys pa → w.classAt (pa + 8 * m) ≠ 2) →
              ends (w.failCopy c q (sa + BitVec.ofNat 64 (8 * j)))) ∧
            ((∀ j ∈ bad, ∀ pa, dst = .phys pa → w.classAt (pa + 8 * j) ≠ 2) →
              ends (((w.setCore c { w.core c with
                copying := some { r with todo := takeWords i n r.todo, fault := none } }).writeWords c q dst
                  (v.engineBytes q.uid q.issued src (8 * n)) bad da).signalWrite c q (8 * n))))))) ∧
      (∀ pa dst u v before l behind, s.copyTarget q.ctx c sa false = (some (.phys pa), u) → u.copyTarget q.ctx c da true = (some dst, v) →
        unitsOf pa (8 * n) = before ++ l :: behind → (∀ m ∈ before, v.exclusive (64 * m) = false) → v.exclusive (64 * l) = true →
        exec .copyWrite s = .next (v.snoopFor l true).flush) ∧
      (∀ u, s.copyTarget q.ctx c sa false = (none, u) → exec .copyWrite s = .next (u.copyFaults c r sa 9).flush) ∧
      (∀ src u v, s.copyTarget q.ctx c sa false = (some src, u) → u.copyTarget q.ctx c da true = (none, v) →
        exec .copyWrite s = .next (v.copyFaults c r da 10).flush)) ∧
    (∀ r, k.copying = some r → r.todo = [] →
      let u := s.setCore c { k with copying := none }
      (∀ tcb, r.cmd.signal = .task tcb → s.alive r.cmd.ctx = true →
        exec .copyComplete s = .next (u.send {
          id := 0, ctx := r.cmd.ctx, core := r.cmd.core, slot := r.cmd.slot, uid := 0, kind := .dec tcb none r.cmd.cove }).flush) ∧
      ((∀ tcb, r.cmd.signal ≠ .task tcb) → exec .copyComplete s = .next u.flush)) ∧
    (∀ (x : Nat) (va : Word) (pa n : Nat) (first : Bool), 0 < n →
      (s.isStray pa = false → s.errors = [] → pa % 64 + 8 * n ≤ 64 → s.checkSource x c (.phys pa) (8 * n) va first = ([], s)) ∧
      (pa % 8 = 0 → pa % 64 + 8 * n ≤ 64 → let check := s.checkPhys x c pa (8 * n) va 9
        s.checkSource x c (.phys pa) (8 * n) va true = (if check.1 = .ok then [] else List.range n, check.2)) ∧
      (pa % 8 = 0 → pa % 64 + 8 * n ≤ 64 → s.checkSource x c (.phys pa) (8 * n) va false =
        (if s.isStray pa = true ∨ (∃ e ∈ s.errors, e.1 = pa / 64 ∧ (s.classAt pa = 1 ∨ s.classAt pa ≠ 2 ∧ e.2 = .uncorrectable))
          then List.range n else [], s)) ∧
      (∀ d, s.localErrors = [] → s.checkSource x c (.local d pa) (8 * n) va first = ([], s))) ∧
    (∀ (x d : Nat) (ws : List Nat) (j w : Nat), ws[j]? = some w → w ∉ ws.take j → (s.checkWords x c d ws 0).1.contains j =
      s.localErrors.any fun e => e.1 = d && e.2.1 = w && e.2.2 = .uncorrectable) ∧
    (∀ (q : CopyCmd) (addr : Word) (t : Thread), s.holder? q.core q.slot q.uid = some t →
      s.failCopy c q addr = (s.setCore c { k with copying := none }).raise q.core q.slot fun p =>
        { p with copyFault := some (p.copyFault.getD addr) }) ∧
    (∀ (x pa : Nat) (bs more : List Byte) (va : Word), s.notify? pa = none → bs ≠ [] →
      (pa % 64 + bs.length ≤ 64 → s.writeUnits x c pa bs va = s.storePhys x c pa bs va 10) ∧
      (pa % 64 + bs.length = 64 → more ≠ [] → more.length ≤ 64 → s.writeUnits x c pa (bs ++ more) va =
        (s.storePhys x c pa bs va 10).storePhys x c (pa + bs.length) more (va + BitVec.ofNat 64 bs.length) 10)) ∧
    (∀ (q : CopyCmd) (pa : Nat) (bs : List Byte) (bad : List Nat) (va : Word), let written := s.writeUnits q.ctx c pa bs va
      let poisoned := if written.isStray pa = true ∨ (written.notify? pa).isSome = true then written
        else bad.foldl (fun t i => t.poisonPhys (pa + 8 * i) 8) written
      s.writeWords c q (.phys pa) bs bad va = (unitsOf pa bs.length).foldl (fun t l => t.leave_ q.ctx c (64 * l)) poisoned) ∧
    (∀ (pa : Nat), let t := s.poisonPhys pa 8
      t = { s with errors := t.errors } ∧ ∀ l e, (l, e) ∈ t.errors ↔
        if pa / 64 ≤ l ∧ l ≤ (pa + 7) / 64 then e = .uncorrectable else (l, e) ∈ s.errors) ∧
    (∀ (q : CopyCmd) (d off n : Nat) (bs : List Byte) (bad : List Nat) (va : Word),
      let stored := bad.foldl (fun t i => t.poisonLocal d (off + 8 * i) 8) (s.storeRange q.ctx d off bs 10)
      ((s.alive q.ctx = true ∧ (q.signal = .full ∨ ∃ e i, q.signal = .fullCounter e i)) →
        s.writeWords c q (.local d off) bs bad va = stored.fillWords d (wordsOf off bs.length)) ∧
      (s.alive q.ctx = false ∨ (q.signal ≠ .full ∧ ∀ e i, q.signal ≠ .fullCounter e i) →
        s.writeWords c q (.local d off) bs bad va = stored) ∧
      (∀ e i, s.alive q.ctx = true → q.signal = .counter e i ∨ q.signal = .fullCounter e i → s.signalWrite c q n =
        s.send (partPacket q.ctx c q.slot (.counter e i n))) ∧
      (s.alive q.ctx = false ∨ q.signal = .none ∨ q.signal = .full ∨ (∃ tcb, q.signal = .task tcb) → s.signalWrite c q n = s))

/-- MATRIX_OPERATION_START (R223, R225): the next command, from the high queue unless three in a row have come from it while a
low one waited; a deferred fault; else its source bytes are read, as the vector unit's (log entry 14); `mrot` sends the tile of its queue's
last started `mma` (log entry 36). ROTATION_ARRIVAL, REMOTE_COMMAND_DELIVERY (R231, R236, R237): an
item goes to the `mrot` that needs it, whose tile goes to its own place (log entry 99) and whose plane to the shadow plane, or waits in the
buffer, one of each kind, and stays in the network where there is no place for it or the core is sealed; a command enters its queue, for
its receiver's context, waits in the network while that is full (R236), or is refused and counted at its sender (log entry 38); one that
fails at its start is counted at its sender as faulted (R237). R355: in a cove that is powered off no operation starts and no command is
taken. R225: the deferred fault of an operation: the lower of its source's and its destination's (the codes as the vector unit's, R197),
else 6 where an `mma`'s plane has not its weight format; of an `mrot` 7 where no `mma` went before it; the first that a thread has
outstanding is kept. -/
def Obligations.MatrixStarts : Prop :=
  (∀ (s : State) (c : Nat) (q : MCmd),
     let of (o : Option (Word × Nat × Nat)) (write : Bool) : Option Nat := match o with
       | some (a, n, align) => s.unitFault q.ctx a n align write
       | none => none
     let src := of q.op.source false
     let dst := of (q.op.dest.map fun d => (d.1, d.2, 32)) true
     (∀ m n, src = some m → dst = some n → s.matrixFault c q = some (min m n)) ∧
     (∀ m, src = some m → dst = none → s.matrixFault c q = some m) ∧
     (∀ n, src = none → dst = some n → s.matrixFault c q = some n) ∧
     (src = none → dst = none → (∀ fa fw acc a rows v, q.op = .mma fa fw acc a rows v → s.matrixFault c q =
         if ((if q.high then (s.core c).mx.hiActive else (s.core c).mx.loActive).tag = some fw) then none else some 6) ∧
       ((∀ fa fw acc a rows v, q.op ≠ .mma fa fw acc a rows v) → s.matrixFault c q = none))) ∧
  (∀ (s : State) (c n : Nat) (q : MCmd) (t : Thread), q.gang = none → q.remote = none → s.holder? c q.slot q.uid = some t →
     s.deferMatrix c q n = s.setThread c q.slot (if t.mdpend then t else { t with
       mdpend := true, mdcode := BitVec.ofNat 4 n, mdpc := q.pc })) ∧
  (∀ (s : State) (c n : Nat) (q : MCmd) (r : Remote), q.remote = some r →
     s.deferMatrix c q n = s.setCore r.sender { s.core r.sender with mnakFaulted := (s.core r.sender).mnakFaulted + 1 }) ∧
  (∀ (acc k n : Nat) (high : Bool) (a b : Word) (d : BitVec 32) (mode : Nat) (sat : Bool) (draws : List (BitVec 16)) (fmt : Nat),
     let width (f : Nat) : Nat := if f = 0 ∨ f = 6 then 4 else if f = 1 ∨ f = 2 then 2 else 1
     (MOp.read fmt acc a mode sat draws).dest = some (a, 256 * width fmt) ∧ (MOp.readExp acc a d).dest = some (a, 1024) ∧
     (MOp.rowMax acc a).dest = some (a, 64) ∧ (MOp.snap a).dest = some (a, 256) ∧
     (MOp.topk 32 high k n a b).dest = some (a, 192) ∧ (MOp.topk 16 high k n a b).dest = some (a, 128) ∧
     (MOp.topk 32 high k n a b).source = some (b, n * 4, 32) ∧ (MOp.topk 16 high k n a b).source = some (b, n * 2, 32) ∧
     (MOp.mask acc a b d).source = some (a, 128, 8) ∧ (MOp.ldw 7 a).source = some (a, 288, 32) ∧
     (fmt ≤ 6 → (MOp.ldw fmt a).source = some (a, 256 * width fmt, 32))) ∧
  (∀ (s : State) (q : MCmd) (rest : List MCmd), let c := s.ev.n
     let k := s.core c
     let m := k.mx
     s.coveOff c = false → m.run = none →
     (m.hiQueue = q :: rest ∧ (m.loQueue = [] ∨ m.streak < 3) ∨
       m.loQueue = q :: rest ∧ (m.hiQueue = [] ∨ 3 ≤ m.streak)) →
     let high := !m.hiQueue.isEmpty && (m.loQueue.isEmpty || decide (m.streak < 3))
     let taken := if high then { m with hiQueue := rest, streak := if m.loQueue = [] then 0 else m.streak + 1 }
       else { m with loQueue := rest, streak := 0 }
     let u := s.setMatrix c (taken.noteMma q)
     (∀ n, (∀ g, q.op ≠ .rot g) → s.matrixFault c q = some n → exec .matrixOperationStart s = .next (u.deferMatrix c q n).flush) ∧
     ((∀ g, q.op ≠ .rot g) → s.matrixFault c q = none → q.op.source = none →
       exec .matrixOperationStart s = .next (s.setMatrix c { taken.noteMma q with run := some { cmd := q } }).flush) ∧
     (∀ a n align, (∀ g, q.op ≠ .rot g) → s.matrixFault c q = none → q.op.source = some (a, n, align) →
       s.localError c a.toNat n = none → exec .matrixOperationStart s = .next
         (s.setMatrix c { taken.noteMma q with run := some { cmd := q, src := s.engineBytes q.uid q.issued (.local c a.toNat) n } }).flush) ∧
     (∀ g, q.op = .rot g → (if q.high then m.hiMma else m.loMma) = none →
       exec .matrixOperationStart s = .next (u.deferMatrix c q 7).flush) ∧
     (∀ g a n align, q.op = .rot g → (if q.high then m.hiMma else m.loMma) = some (a, n, align) →
       s.unitFault q.ctx a n align false = none → s.localError c a.toNat n = none → m.rot = [] →
       exec .matrixOperationStart s = .next
         (((u.sendItem q.ctx c (rotWest g c) (.tile a.toNat (s.engineBytes q.uid q.issued (.local c a.toNat) n))).sendItem q.ctx c (rotNorth g c)
           (.plane (m.active q.high))).setMatrix c
             { taken with run := some { cmd := q, needTile := true, needPlane := true } }).flush)) ∧
  (∀ (s : State), s.coveOff s.ev.n = true → exec .matrixOperationStart s = .next s) ∧
  (∀ (s : State) (p : Packet) (c : Nat),
     let m := (s.core c).mx
     (∀ i r, Brings s p (.rotation c i) → (s.core c).sealed = false → m.run = some r → r.needs i = true →
       exec .rotationArrival s = .next ((s.dropPacket p.id).applyItem p.ctx c r i).flush) ∧
     (∀ i, Brings s p (.rotation c i) → (s.core c).sealed = false → (∀ r, m.run = some r → r.needs i = false) →
       m.rot.all (fun j => !j.sameKind i) = true →
       exec .rotationArrival s = .next ((s.dropPacket p.id).setMatrix c { m with rot := m.rot ++ [i] }).flush) ∧
     (∀ i, Brings s p (.rotation c i) → ((s.core c).sealed = true ∨ (∀ r, m.run = some r → r.needs i = false) ∧
       m.rot.all (fun j => !j.sameKind i) = false) → exec .rotationArrival s = .next s.flush) ∧
     (∀ x r,
       (∀ a bs, s.applyItem x c r (.tile a bs) = (s.storeRange x c a bs 10).setMatrix c
         { ((s.storeRange x c a bs 10).core c).mx with run := some { r with needTile := false } }) ∧
       (∀ q, s.applyItem x c r (.plane q) = s.setMatrix c
         (if r.cmd.high then { m with run := some { r with needPlane := false }, hiShadow := q }
          else { m with run := some { r with needPlane := false }, loShadow := q }))) ∧
     (∀ high cap q valid, Brings s p (.command c high cap q valid) →
       ((s.core c).refusesCommand cap valid = true ∨ s.coveOff c = true → exec .remoteCommandDelivery s = .next ((s.dropPacket p.id).setCore p.core
         { s.core p.core with mnakRefused := (s.core p.core).mnakRefused + 1 }).flush) ∧
       ((s.core c).refusesCommand cap valid = false → s.coveOff c = false → 8 ≤ (m.queue high).length →
         exec .remoteCommandDelivery s = .next s.flush) ∧
       ((s.core c).refusesCommand cap valid = false → s.coveOff c = false → (m.queue high).length < 8 → exec .remoteCommandDelivery s = .next
         ((s.dropPacket p.id).setMatrix c (m.enqueue { q with ctx := ((s.core c).owner).getD q.ctx })).flush)))

/-- MATRIX_OPERATION_COMPLETE (R224, R227-R244): what each operation writes from the bytes that it has read. R230: until then a word
stored to may be read again, as the event says (log entry 14). R237: a remote command raises no flag, and signals the counter that it
names (log entry 82: whosever core that is). R355: in a cove that is powered off none completes. -/
def Obligations.MatrixCompletes : Prop :=
  (∀ s : State, s.coveOff s.ev.n = true → exec .matrixOperationComplete s = .next s) ∧
  ∀ (s : State) (r : MRun), let c := s.ev.n
    let m := { (s.core c).mx with run := none }
    let idle := s.setMatrix c m
    let q := r.cmd
    let signals (t : State) : State := match q.remote with
      | some g => if g.signal.getLsbD 31 then t.send (partPacket q.ctx c 0
          (.counter (g.signal.toNat / 2 ^ 5 % 2 ^ 16) (g.signal.toNat % 2 ^ 5) 1)) else t
      | none => t
    let ends (t : State) : Prop := exec .matrixOperationComplete s = .next (signals t).flush
    s.coveOff c = false → (s.core c).mx.run = some r → r.needTile = false → r.needPlane = false →
    (∀ a n align, q.op.source = some (a, n, align) → s.ev.flag = true → s.ev.bytes ≠ [] → s.localError c a.toNat n = none →
      r.src.length = n → let named := wordNumbers s.ev.bytes
      ∃ src, exec .matrixOperationComplete s = .next (s.setMatrix c { (s.core c).mx with run := some { r with src } }).flush ∧
        src.length = n ∧ ∀ j, j < n →
        (named.contains ((a.toNat % 8 + j) / 8) = false → src[j]? = r.src[j]?) ∧
        (named.count ((a.toNat % 8 + j) / 8) = 1 → src[j]? = some ((s.core c).mem.read (a.toNat + j)))) ∧
    (s.ev.flag = false → s.ev.bytes = [] →
    (∀ fmt a, q.op = .ldw fmt a → ends (s.setMatrix c
      (if q.high then { m with hiShadow := { bytes := r.src, tag := some fmt } }
       else { m with loShadow := { bytes := r.src, tag := some fmt } }))) ∧
    (q.op = .swap → ends (s.setMatrix c
      (if q.high then { m with hiActive := m.hiShadow, hiShadow := m.hiActive }
       else { m with loActive := m.loShadow, loShadow := m.loActive }))) ∧
    (∀ a, q.op = .zero a → ends (s.setMatrix c (m.setAcc a (Vector.replicate 256 0)))) ∧
    (∀ fa fw a base rows v, q.op = .mma fa fw a base rows v → ends (s.setMatrix c
      (m.setAcc a (mmaAll fa fw v (m.active q.high).bytes r.src rows.toNat (m.accAt a))))) ∧
    (∀ fmt a d rm sat draws, q.op = .read fmt a d rm sat draws →
      let out := readOut fmt rm sat draws (m.accAt a)
      let read := idle.writeFull q.ctx c d.toNat out.1
      ends (if q.remote.isSome then read else read.onMatrixIssuer c q fun t => t.raiseFlags out.2)) ∧
    (∀ a d b, q.op = .readExp a d b → ends (idle.writeFull q.ctx c d.toNat (readExpOut b (m.accAt a)))) ∧
    (∀ a d, q.op = .rowMax a d → ends (idle.writeFull q.ctx c d.toNat (rowMaxima (m.accAt a)))) ∧
    (∀ a an cb v, q.op = .mask a an cb v → ends (s.setMatrix c (m.setAcc a (maskAcc r.src cb v (m.accAt a))))) ∧
    (∀ g, q.op = .rot g → ends idle) ∧
    (∀ e count k n o a, q.op = .topk e count k n o a →
      let out := selectTop e k n r.src
      let t := idle.writeFull q.ctx c o.toNat (topkBytes e out.1 out.2)
      ends (if count then t.setMatrix c { (t.core c).mx with routing := countRoutes out.1 (t.core c).mx.routing } else t)) ∧
    (∀ d, q.op = .snap d →
      let t := idle.writeFull q.ctx c d.toNat (m.routing.toList.flatMap fun x => leBytes 4 x.toNat)
      ends (t.setMatrix c { (t.core c).mx with routing := Vector.replicate 64 0 })) ∧
    (∀ bf rank t y w cfg, q.op = .put bf rank t y w cfg → ends (idle.finishPut c q r.src bf rank t w cfg)))

/-- R229, R227: what an `mma` leaves in each element: rows below the count take the exact sum of products, in the integer form
modulo 2^32, in the floating forms times the scale with one rounding; the other rows stay. The integer form on the bytes of the row
and the plane themselves. The floating forms on finite numbers: the accumulator plus the sum of products times the scale, exact,
rounded once to nearest; the sign of a zero; a NaN among the operands; an infinite accumulator. R234: what `mtmask` leaves.
R233: what `mrd` writes for each element, with its draw, and its flags; each element of `mrd.exp`; each row of `mrmax`. R114: the table of
powers of two and the path of `mrd.exp` through it. R244: a put: its slot, its fill bit and weight, the overrun; the last one of a token:
each element of the output row in the order of the ranks, the fill bits cleared, one added to the counter. -/
def Obligations.MatrixValues : Prop :=
  (∀ (fmt mode : Nat) (sat : Bool) (draws : List (BitVec 16)) (acc : Vector (BitVec 32) 256) (i n : Nat), fmt ≤ 6 → i < 16 → n < 16 →
    let b := byteWidth fmt
    let out := readOut fmt mode sat draws acc
    let of (j : Nat) : Nat × Flags := let x := ((acc[j]?).getD 0).toNat
      if fmt = 0 ∨ fmt = 6 then (x, 0) else convert { mode, sat, r := drawAt draws j } fmt (if fmt = 5 then 6 else 0) x
    out.1.length = 256 * b ∧ (out.1.drop ((16 * i + n) * b)).take b = leBytes b (of (16 * i + n)).1 ∧
    flagsOf out.2 256 fun j => (of j).2) ∧
  (∀ (b : BitVec 32) (acc : Vector (BitVec 32) 256) (i n : Nat), i < 16 → n < 16 →
    (readExpOut b acc).length = 1024 ∧
    ((readExpOut b acc).drop (4 * (16 * i + n))).take 4 = leBytes 4 (expTable ((acc[16 * i + n]?).getD 0) b).toNat) ∧
  (∀ (acc : Vector (BitVec 32) 256) (i : Nat), i < 16 → (rowMaxima acc).length = 64 ∧
    ∃ r, ((rowMaxima acc).drop (4 * i)).take 4 = leBytes 4 r ∧
      greatestOf ((List.range 16).map fun n => ((acc[16 * i + n]?).getD 0).toNat) r) ∧
  (∀ (x b : BitVec 32),
    let d := (fp32.finish .rne (addExact 0 (fp32Val x) (fp32Val b).neg)).1
    let t := fp32Value (fp32.finish .rne (mulExact (fp32Value d) (fp32Value 0x3FB8AA3B))).1
    (t.isNan = true → expTable x b = 0x7FC00000) ∧ (t = .inf false → expTable x b = 0x7F800000) ∧ (t = .inf true → expTable x b = 0) ∧
    (∀ neg m e u, t = .fin neg m e → u ≤ e → u ≤ 0 →
      let one : Int := 2 ^ (-u).toNat
      let whole := t.inUnits u / one
      let part := 64 * (t.inUnits u % one)
      let i := (part / one).toNat
      let y0 := (expEndpoint i).inUnits (-23)
      let y1 := (expEndpoint (i + 1)).inUnits (-23)
      let p := (fp32.finish .rne { v := .fin false (y0 * one + (y1 - y0) * (part % one)).toNat (u - 23) }).1
      i < 64 ∧ ∃ mp ep, fp32Value p = .fin false mp ep ∧
        expTable x b = BitVec.ofNat 32 (fp32.finish .rne { v := .fin false mp (ep + whole) }).1)) ∧
  (∀ i, i < 64 → ∃ m, expEndpoint i = .fin false m (-23) ∧ 2 ^ 23 ≤ m ∧ m < 2 ^ 24 ∧
    (2 * m - 1) ^ 64 < 2 ^ (i + 1536) ∧ 2 ^ (i + 1536) < (2 * m + 1) ^ 64) ∧
  (expEndpoint 64).inUnits (-23) = 2 ^ 24 ∧
  (∀ (ts : List (BitVec 32 × BitVec 32)) (w y : BitVec 32),
    combElement [(w, y)] = BitVec.ofNat 32 (fp32.finish .rne (mulExact (fp32Val w) (fp32Val y))).1 ∧
    (ts ≠ [] → combElement (ts ++ [(w, y)]) =
      BitVec.ofNat 32 (fp32.finish .rne (fmaExact 0 (fp32Val w) (fp32Val y) (fp32Val (combElement ts)))).1)) ∧
  (∀ (src : List Byte) (d i : Nat), i < d →
    (2 * d ≤ src.length → let x := leNat ((src.drop (2 * i)).take 2)
      ((combRow true src d).drop (4 * i)).take 4 = leBytes 4 (if (fp32Value (x * 2 ^ 16)).isNan then 0x7FC00000 else x * 2 ^ 16)) ∧
    combRow false src d = src) ∧
  (∀ (s : State) (c : Nat) (q : MCmd) (src : List Byte) (bf : Bool) (rank : Nat) (t : Word) (w : BitVec 32) (cfg : Word),
    let n := t.toNat
    let k := combK cfg
    let d := combD cfg
    let m := (s.core c).mx
    let slotted := s.storeRange q.ctx c (combSlot cfg n rank) (combRow bf src d) 10
    let told := if (m.fill? n rank).isSome then slotted.onMatrixIssuer c q fun u => { u with cmbcfg := u.cmbcfg ||| 1 <<< 61 } else slotted
    let filled := told.setMatrix c { (told.core c).mx with fills := put (8 * n + rank) w m.fills }
    let put_ := s.finishPut c q src bf rank t w cfg
    s.localErrors = [] → rank < k →
    ((∃ r, r < k ∧ r ≠ rank ∧ m.fill? n r = none) → put_ = filled) ∧
    ((∀ r, r < k → r ≠ rank → (m.fill? n r).isSome = true) → ∃ bytes : List Byte,
      put_ = ((filled.writeFull q.ctx c (combOut cfg + 4 * d * n) bytes).onMatrix c fun m =>
        { m with fills := (List.range k).foldl (fun f r => drop (8 * n + r) f) m.fills }).addCounter c (bits cfg 56 5) 1 ∧
      bytes.length = 4 * d ∧ ∀ e, e < d → (bytes.drop (4 * e)).take 4 = leBytes 4 (combElement ((List.range k).map fun r =>
        (if r = rank then w else (m.fill? n r).getD 0,
          ((filled.core c).mem.load (combRegion cfg + (n * k + r) * (4 * d) + 4 * e) 4).extractLsb' 0 32))).toNat)) ∧
  (∀ (fa fw rows : Nat) (v : BitVec 32) (plane src : List Byte) (acc : Vector (BitVec 32) 256) (i j : Nat), i < 16 → j < 16 →
    let terms := (rowElements fa fw ((src.drop (i * rowBytes fa fw)).take (rowBytes fa fw))).zip
      ((upFrom 0 (depthOf fw)).map fun n => weight fw plane n j)
    let old := (acc[16 * i + j]?).getD 0
    (mmaAll fa fw v plane src rows acc)[16 * i + j]? = some (
      if i < rows then if fw = 5 then mmaInt old terms else mmaFloat old v terms else old)) ∧
  (∀ (rows : Nat) (v : BitVec 32) (plane src : List Byte) (acc : Vector (BitVec 32) 256) (i j : Nat), i < rows → i < 16 → j < 16 →
    let a (k : Nat) : Int := ((src[16 * i + k]?).getD 0).toInt
    let w (k : Nat) : Int := ((plane[16 * k + j]?).getD 0).toInt
    (mmaAll 5 5 v plane src rows acc)[16 * i + j]? = some (
      (acc[16 * i + j]?).getD 0 + BitVec.ofInt 32 ((List.range 16).map fun k => a k * w k).sum)) ∧
  (∀ (old v : BitVec 32) (terms : List (FVal × FVal)) (x y : Int), x + y ≤ 0 →
    (∀ t ∈ terms, t.1.finite x ∧ t.2.finite y) → (fp32Val old).finite (-149) → (fp32Val v).finite (-149) →
    let dot := (terms.map fun t => t.1.inUnits x * t.2.inUnits y).sum
    let unit := x + y - 149
    let total := (fp32Val old).inUnits unit + dot * (fp32Val v).inUnits (-149)
    (total ≠ 0 → ∃ r : Exact, r.v.finite unit ∧ r.v.inUnits unit = total ∧ r.sticky = false ∧
      mmaFloat old v terms = BitVec.ofNat 32 (fp32.finish .rne r).1) ∧
    (total = 0 → mmaFloat old v terms = if old = 0x80000000 ∧ ∀ t ∈ terms,
      (t.1.isZero = true ∨ t.2.isZero = true ∨ (fp32Val v).isZero = true) ∧ ((t.1.sign != t.2.sign) != (fp32Val v).sign) = true
      then 0x80000000 else 0)) ∧
  (∀ (old v : BitVec 32) (terms : List (FVal × FVal)),
    ((fp32Val old).isNan = true ∨ (fp32Val v).isNan = true ∨ (∃ t ∈ terms, t.1.isNan = true ∨ t.2.isNan = true) →
      mmaFloat old v terms = 0x7FC00000) ∧
    (∀ x y neg, (∀ t ∈ terms, t.1.finite x ∧ t.2.finite y) → (fp32Val v).finite (-149) → fp32Val old = .inf neg →
      mmaFloat old v terms = old)) ∧
  (∀ (src : List Byte) (cb : Word) (v : BitVec 32) (acc : Vector (BitVec 32) 256) (i j : Nat), i < 16 → j < 16 →
    let column := cb.toInt + j
    (maskAcc src cb v acc)[16 * i + j]? = some (
      if 0 ≤ column ∧ column ≤ 63 ∧ (leNat ((src.drop (8 * i)).take 8)).testBit column.toNat = false then v
      else (acc[16 * i + j]?).getD 0))

/-- R241: the selected indices are k, in descending order of their keys, ties by rising index; every index left out comes
after them; a greater score has a greater key, −0 ranks with +0 and a NaN below every number. -/
def Obligations.TopSelection : Prop :=
  ∀ (e k n : Nat) (src : List Byte), k ≤ n → e = 16 ∨ e = 32 →
    let sel := (selectTop e k n src).1
    let key (i : Nat) : Nat := scoreKey e (leNat ((src.drop (i * (e / 8))).take (e / 8)))
    sel.length = k ∧ sel.Pairwise (fun a b => key b < key a ∨ key a = key b ∧ a < b) ∧ (∀ a ∈ sel, a < n) ∧
    (∀ a ∈ sel, ∀ b, b < n → b ∉ sel → key b < key a ∨ key a = key b ∧ a < b) ∧
    scoreKey e (2 ^ (e - 1)) = scoreKey e 0 ∧
    (∀ x y, x < 2 ^ e → y < 2 ^ e → let v := (if e = 32 then fp32 else bf16).decode x
      let w := (if e = 32 then fp32 else bf16).decode y
      v.isNan = false → w.isNan = false → (scoreKey e x < scoreKey e y ↔ v.below w)) ∧
    (∀ x y, x < 2 ^ e → y < 2 ^ e → ((if e = 32 then fp32 else bf16).decode x).isNan = true →
      ((if e = 32 then fp32 else bf16).decode y).isNan = false → scoreKey e x < scoreKey e y)

/-! ## Events: translation, faults, invalidation -/

/-- R327, R328: a walk goes down the context's table: at each level the entry that the address names, absent where it is not valid or
its table lies beyond the host's physical width, a leaf where the format says so. A leaf gives a page of 4 KiB, 2 MiB or 1 GiB that
holds the address, aligned to its size and inside the physical address space. The access is permitted by the entry's bits and, where
the format says so, those of the tables above: user, write (or the entry's own mark that makes it writable), not execute-denied. The
walk changes no memory but that entry, and nothing else than what the host-line cache owns and the recall of the host's copy of its
line (R325). That a table in a hole ends the walk is log entry 90, that entries are read without a check for errors log entry 23, and as
they stand in memory whatever copy the host holds log entry 42. -/
def Obligations.Walks : Prop :=
  (∀ (s u : State) (x : Nat) (va : Word) (need : Need) (l : Leaf), s.phys.wf = true → s.walk x va need = (some l, u) →
    ∃ (k : Ctx) (w : Found), s.ctx? x = some k ∧
      let f := (s.ptfmt[k.record.ptfmt]?).getD {}
      walkDown s f va true true true (f.levels - 1) k.record.ptRoot = .leaf w ∧
      w.level ≤ 2 ∧ w.entry = s.phys.load w.at_ 8 ∧ l.ctx = x ∧ l.lg = 12 + 9 * w.level ∧
      l.va = va.toNat / 2 ^ l.lg * 2 ^ l.lg ∧ l.pa = bits w.entry 12 (f.oaHi - 11) * 4096 / 2 ^ l.lg * 2 ^ l.lg ∧
      l.pa < 2 ^ Config.hostPhysWidth ∧ l.write = need.write ∧
      l.exec = (w.exec && !(f.xdeny.en && f.xdeny.holds w.entry)) ∧ (need.exec = true → l.exec = true) ∧
      w.user = true ∧ f.user.passes w.entry = true ∧ w.entry &&& f.chkMask = f.chkVal ∧
      (need.write = true → w.write = true ∧ (f.write.passes w.entry = true ∨
        f.dmode = 2 ∧ f.dbm.en = true ∧ f.dbm.holds w.entry = true ∧ k.record.flags.getLsbD 2 = true)) ∧
      leafAfter f k.record.flags need w = some (u.phys.load w.at_ 8) ∧
      (∀ a, a < w.at_ ∨ w.at_ + 8 ≤ a → u.phys.read a = s.phys.read a) ∧ u.phys.wf = true ∧
      { u with phys := s.phys, owned := s.owned, net := s.net, serial := s.serial } = s ∧
      (u.owned = s.owned ∨ u.owned = s.owned ++ [w.at_ / 64]) ∧
      ∀ p ∈ u.net, p ∈ s.net ∨ p.kind = .snoop (w.at_ / 64) false) ∧
  (∀ (s : State) (f : PtFormat) (va : Word) (user write exec : Bool) (level table : Nat),
    let at_ := table + 8 * (va.toNat / 2 ^ (12 + 9 * level) % 2 ^ 9)
    let e := s.phys.load at_ 8
    let leaf : Prop := level = 0 ∨ e.getLsbD f.leafPos = f.leafVal
    (2 ^ Config.hostPhysWidth ≤ table → walkDown s f va user write exec level table = .absent) ∧
    (table < 2 ^ Config.hostPhysWidth →
      (s.isStray at_ = true → walkDown s f va user write exec level table = .stray) ∧
      (s.isStray at_ = false →
        (f.valid.passes e = false → walkDown s f va user write exec level table = .absent) ∧
        (f.valid.passes e = true → leaf → walkDown s f va user write exec level table =
          if 2 < level then .absent else .leaf { at_, entry := e, level, user, write, exec }) ∧
        (f.valid.passes e = true → ¬leaf → walkDown s f va user write exec level table =
          walkDown s f va (user && (!f.hier || f.user.passes e)) (write && (!f.hier || f.write.passes e))
            (exec && (!f.hier || !(f.xdeny.en && f.xdeny.holds e))) (level - 1) (bits e 12 (f.oaHi - 11) * 4096)))))

/-- TLB_FILL (R145, R251, R252): a translated access completes without reissuing; one that needs an entry of the store buffer waits for
one, and behind the earlier stores of its core that it will overlap (R146; log entry 96). A page that is absent or forbids it sends a
fault, and the task is held; the miss keeps its place until the reply. What each access then does (R145, R326): a fetch asks for its line;
a load asks its home, behind the entries that it overlaps and the commits under way to its bytes, or takes its own task's buffered words
where they cover it; a store takes an entry of the store buffer, or goes to its task's part; an atomic, a `tspawn`, `twait`, `tdec`, group
instruction, `itclaim` and `actrig` go to their object's home, or raise ADDRESS on peer memory; `migr.a` departs for the home's core. That a
load is not supplied by the store buffer then, and that an atomic follows the entries that it overlaps, is log entry 77; that the
instructions on a TCB, a group or a claim do so is log entry 33, that atomics and `tdec` are broadcast log entry 28, that a load waits
for the commits under way log entry 29, and that an address in a hole raises ADDRESS log entry 32. -/
def Obligations.TranslationEvents : Prop :=
  (∀ (s u : State) (p : Packet) (t : Thread) (va va' : Word) (acc acc' : Access) (cause : Nat), Brings s p (.tlbMiss va acc) →
    s.sender? p = some t → t.park = .await cause (.translate acc' va') →
    (s.entryWaits p t acc va = true → exec .tlbFill s = .next s.flush) ∧
    (s.entryWaits p t acc va = false →
      (∀ pa, s.serve p.core t.ctx va acc.need = (some pa, u) →
        exec .tlbFill s = .next ((u.dropPacket p.id).complete p.core p.slot t acc va pa).flush) ∧
      (s.serve p.core t.ctx va acc.need = (none, u) → exec .tlbFill s = .next
        (((u.setSender p { t with park := .await 12 (.fault acc va) }).markTask t.task p.core 7).sendFault
          t.ctx p.core va acc.kind).flush))) ∧
  (∀ (s : State) (p : Packet) (t : Thread) (va va' : Word) (acc acc' : Access) (cause : Nat), Brings s p (.tlbMiss va acc) →
    s.sender? p = some t → t.park = .await cause (.fault acc' va') → exec .tlbFill s = .next s.flush) ∧
  (∀ (s : State) (c i pa : Nat) (t : Thread) (va : Word),
    let does (acc : Access) : State := s.complete c i t acc va pa
    let behind (n : Nat) : List Nat := (s.overlapping c (.phys pa) n).map fun p => p.id
    let commits (n : Nat) : List Nat := s.commitsBefore c t (.phys pa) n
    let packet (kind : Kind) : Packet := { id := 0, ctx := t.ctx, core := c, slot := i, uid := t.uid, kind }
    let asks (cause : Nat) (dest : Dest) (p : Packet) : State := (s.setThread c i { t with park := .await cause (.data dest) }).send p
    let traps (acc : Access) (cause : Nat) (utval : Word) : Prop := does acc = s.trapAt c i { cause, utval }
    (does .fetch = (s.setThread c i { t with park := .await 2 (.fetchData va) }).send (packet (.fetch va pa))) ∧
    (∀ n dest, let ws := s.specWords c t
      let held : Bool := (specBytes ws (.phys pa) n).all Option.isSome
      (held = true → does (.load n dest) = s.loaded c i dest (overlay ws (.phys pa) n 0)) ∧
      (held = false → does (.load n dest) = asks 2 dest { packet (.load pa n va) with after := behind n ++ commits n })) ∧
    (∀ n v,
      (t.spec.isSome = true → does (.store n v) = (s.bufferStore c t (.phys pa) n v va).retire c i) ∧
      (t.spec = none → does (.store n v) = (s.send { packet (.store (.phys pa) n v) with
        buffered := true, after := behind n ++ commits n, broadcast := t.broadcasts c va }).retire c i)) ∧
    (s.home pa = none → traps .migrA 11 va) ∧
    (∀ d, s.home pa = some d →
      (d ≠ c → s.reachable t.ctx d = false → traps .migrA 11 va) ∧
      (d = c ∨ s.reachable t.ctx d = true →
        (t.gang.isSome = true → traps .migrA 12 0) ∧
        (t.gang = none → does .migrA = s.setThread c i { t with park := .await 13 (.migrate .hatbox d) }))) ∧
    (s.isPeer pa = true → (∀ a, traps (.atomic a) 4 va) ∧ (∀ rd, traps (.spawn rd) 4 va ∧ traps (.wait rd) 4 va ∧ traps (.claim rd) 4 va) ∧
      traps .dec 4 va ∧ (∀ op, traps (.group op) 4 va) ∧ ∀ n, traps (.trigger n) 4 va) ∧
    (s.isPeer pa = false →
      (∀ a, let request : Packet := { packet (.atomic (.phys pa) a va) with broadcast := t.broadcasts c va }
        (a.dest = .none → does (.atomic a) =
          (s.send { request with buffered := true, after := behind a.n ++ commits a.n }).retire c i) ∧
        (a.dest ≠ .none → does (.atomic a) = asks 3 a.dest { request with after := behind a.n })) ∧
      (∀ rd, does (.spawn rd) = asks 3 (.g rd 8 false) { packet (.spawn va pa (coveOf c)) with after := behind 64 } ∧
        does (.wait rd) = asks 8 (.g rd 8 false) { packet (.taskWait va pa) with after := behind 64 } ∧
        does (.claim rd) = asks 3 (.g rd 8 false) { packet (.claim (.phys pa) va) with after := behind 32 }) ∧
      (does .dec = (s.send { packet (.dec va (some pa) (coveOf c)) with
        buffered := true, after := behind 64 ++ s.fenced t, broadcast := t.broadcasts c va }).retire c i) ∧
      (∀ op, does (.group op) = asks (if op = .bar then 8 else 3) .none { packet (.group (.phys pa) op va) with
        after := behind 64 ++ if op = .bar then s.fenced t else [] }) ∧
      ∀ n, does (.trigger n) = (s.setCounter c n { (s.core c).counter n with
        armed := true, trigger := va, trigCtx := t.ctx }).retire c i))

/-- FAULT_MESSAGE, FAULT_REPLY, FBUF_BASE_WRITE, FBUF_HEAD_WRITE, FGEN_WRITE, FREPLY (R329-R331; a message of an older generation is
answered at once, log entry 50; the replies of a generation start at FGEN, log entry 67): requests for one page merge at
each level of the tree, the port added; at the module fault unit the record of the page counts one more, as long as it is not written,
and nothing is written. A new one climbs, and at the module fault unit makes a record with a tag; the host's replies and
generations travel down and free the entries: FGEN answers every fault outstanding, in order, and of a record not written yet only the
record is left. A register write narrower than 64 bits is ignored (R324). A
parked access that the driver resolved is translated afresh; a denied one raises PAGE_FAULT with its address, or goes where a pending
cause comes first (R249). R329, R337: records wait while the ring is full, or disabled (log entry 112); fault records go first; an error
record says the kind of the access that met the error (its n, address and kind: log entry 113; class 3 in a fault record: log entry 25).
That vector 0 is raised with every record is log entry 75, what counts as outstanding for FBUF_BASE log entry 114. -/
def Obligations.FaultEvents : Prop :=
  (∀ (s : State),
     (∀ p level node page kind unit gen, Brings s p (.fault level node page kind unit gen) →
       let here := nodeAt level unit
       let entry : FaultEntry := { level, node := here, ctx := p.ctx, page, ports := [portAt level unit] }
       let noted : State := { s with fu := { s.fu with entries := s.fu.entries ++ [entry] } }
       (level = 2 → gen ≠ s.fu.gen.toNat →
         exec .faultMessage s = .next ((s.dropPacket p.id).answerDie p.ctx page (dieOf unit) true).flush) ∧
       ((s.fu.entry? level here p.ctx page).isSome = true → level < 2 →
         exec .faultMessage s = .next
           (({ s with fu := s.fu.addPort level here p.ctx page (portAt level unit) } : State).dropPacket p.id).flush) ∧
       ((s.fu.entry? 2 0 p.ctx page).isSome = true → level = 2 → gen = s.fu.gen.toNat →
         exec .faultMessage s = .next (({ s with fu := { s.fu.addPort 2 0 p.ctx page (dieOf unit) with
           records := s.fu.records.map fun (r : FaultRecord) =>
             if r.ctx = p.ctx ∧ r.page = page ∧ r.written = false ∧ r.answered = false then { r with n := r.n + 1 } else r } } :
               State).dropPacket p.id).flush) ∧
       (s.fu.entry? level here p.ctx page = none → s.fu.full level here = false →
         (level < 2 → exec .faultMessage s = .next
           (noted.turnPacket p.id (.fault (level + 1) (nodeAt (level + 1) unit) page kind unit gen)).flush) ∧
         (level = 2 → gen = s.fu.gen.toNat → exec .faultMessage s = .next
           ({ (noted.dropPacket p.id) with fu := { noted.fu with
               records := s.fu.records ++ [{
                 ctx := p.ctx, page, kind, unit, tag := s.fu.nextTag, gen := s.fu.gen, n := 1, written := false }]
               nextTag := if s.fu.nextTag + 1 = 0 then 1 else s.fu.nextTag + 1 } } : State).flushFaults.flush))) ∧
     (∀ p page resolved e, Brings s p (.faultReply page resolved) → s.fu.entry? 2 0 p.ctx page = some e →
       exec .faultReply s = .next (e.ports.foldl (fun s d => s.answerDie p.ctx page d resolved)
         ((s.dropPacket p.id).freeEntry 2 0 p.ctx page)).flush) ∧
     (s.ev.flag = true → exec .fbufBaseWrite s = .next s ∧ exec .fbufHeadWrite s = .next s ∧ exec .fgenWrite s = .next s ∧
       exec .freplyResolved s = .next s ∧ exec .freplyDenied s = .next s) ∧
     (s.ev.flag = false → (bits s.ev.x 0 5 = 0 ∨ 6 ≤ bits s.ev.x 0 5 ∧ bits s.ev.x 0 5 ≤ 16) → s.fu.outstanding = false →
       exec .fbufBaseWrite s = .next
         ({ s with fu := { s.fu with base := s.ev.x &&& 0xFFFFFFFFFFFFF81F, tailPhase := true, tailIdx := 0 } } : State).flush) ∧
     (bits s.ev.x 0 5 ≠ 0 → (bits s.ev.x 0 5 < 6 ∨ 16 < bits s.ev.x 0 5) → exec .fbufBaseWrite s = .next s) ∧
     (s.ev.flag = false →
       exec .fbufHeadWrite s = .next ({ s with fu := { s.fu with head := s.ev.x.extractLsb' 0 16 } } : State).flush) ∧
     (s.ev.x.extractLsb' 0 32 ≠ s.fu.gen + 1 → exec .fgenWrite s = .next s) ∧
     (let open_ := s.fu.records.filter fun r => r.answered = false
      s.ev.flag = false → s.ev.x.extractLsb' 0 32 = s.fu.gen + 1 → exec .fgenWrite s = .next ({ s with
        net := s.net ++ (open_.zipIdx.map fun (q : FaultRecord × Nat) =>
          { partPacket q.1.ctx 0 0 (.faultReply q.1.page true) with id := s.serial + q.2, issued := s.tick })
        serial := s.serial + open_.length
        fu := { s.fu with
          gen := s.fu.gen + 1
          records := (s.fu.records.filter fun r => r.written = false).map fun (r : FaultRecord) => { r with answered := true } } } :
            State).flush) ∧
     (∀ r, s.ev.flag = false → (s.fu.records.find? fun r => r.tag = s.ev.x.extractLsb' 0 32 && r.written) = some r →
       let answered (resolved : Bool) : State := { s.send (partPacket r.ctx 0 0 (.faultReply r.page resolved)) with
         fu := { s.fu with records := s.fu.records.filter fun q => q.tag != s.ev.x.extractLsb' 0 32 } }
       exec .freplyResolved s = .next (answered true) ∧ exec .freplyDenied s = .next (answered false)) ∧
     ((s.fu.records.find? fun r => r.tag = s.ev.x.extractLsb' 0 32 && r.written) = none →
       exec .freplyResolved s = .next s ∧ exec .freplyDenied s = .next s)) ∧
  (∀ (f : FaultUnit) (level node x page port : Nat), f.addPort level node x page port = { f with
     entries := f.entries.map fun (e : FaultEntry) => if e.level = level ∧ e.node = node ∧ e.ctx = x ∧ e.page = page then
       { e with ports := if port ∈ e.ports then e.ports else e.ports ++ [port] } else e }) ∧
  (∀ (s u : State) (c i : Nat) (t : Thread) (acc : Access) (va : Word), u = s.markTask t.task c 3 →
     s.answerThread c i t acc va true = u.setThread c i { t with park := .await 12 (.translate acc va) } ∧
     ((t.pend.first = none ∨ t.handler = true) →
       s.answerThread c i t acc va false = (u.withdraw t.uid).trapAt c i { cause := 20, utval := va, fetch := acc == .fetch }) ∧
     (t.pend.first ≠ none → t.handler = false →
       s.answerThread c i t acc va false = (u.withdraw t.uid).setThread c i { t with park := .none })) ∧
  (∀ (s : State),
     let lg := s.fu.base.toNat % 2 ^ 5
     let next := (s.fu.tailIdx + 1) % 2 ^ lg
     let full : Prop := next = s.fu.head.toNat % 2 ^ lg
     let put (addr : Word) (desc : Nat) (tag : BitVec 32) (n unit : Nat) : State :=
       let u := s.partStore (s.fu.base.toNat / 2 ^ 12 * 2 ^ 12 + 32 * s.fu.tailIdx) (leBytes 8 addr.toNat ++
         leBytes 4 (s.fu.tailPhase.toNat * 2 ^ 31 + desc) ++ leBytes 4 tag.toNat ++ leBytes 4 s.fu.gen.toNat ++ leBytes 2 (min n 0xFFFF) ++
         leBytes 2 unit ++ leBytes 8 (Config.moduleTime s.tick).toNat) 2
       { u with
         fu := { s.fu with tailIdx := next, tailPhase := if next = 0 then !s.fu.tailPhase else s.fu.tailPhase }
         msix := u.msix ++ [0] }
     (lg = 0 ∨ full → s.writeFault = none) ∧
     (lg ≠ 0 → ¬full →
       (∀ before r behind, s.fu.records = before ++ r :: behind → (∀ q ∈ before, q.written = true) → r.written = false →
         let u := put (BitVec.ofNat 64 (4096 * r.page)) (3 * 2 ^ 22 + r.kind.toNat * 2 ^ 16 + r.ctx) r.tag r.n r.unit
         s.writeFault = some { u with fu := { u.fu with
           records := before ++ if r.answered then behind else { r with written := true } :: behind } }) ∧
       ((∀ q ∈ s.fu.records, q.written = true) →
         (s.fu.errors = [] → s.writeFault = none) ∧
         (∀ e rest, s.fu.errors = e :: rest →
           let u := put e.addr (2 ^ 28 + e.event * 2 ^ 24 + e.cls * 2 ^ 22 + e.kind.toNat * 2 ^ 16 + e.ctx) 0 0 e.unit
           s.writeFault = some { u with fu := { u.fu with errors := rest } }))))

/-- INV_PAGES, INV_CONTEXT, INV_ALL, INVALIDATION_COMPLETE (R332, R333): a command purges every translation and instruction line that
it covers, of every core and cove, and no other; it is done once the accesses of its context that had been translated, covered or not,
are performed (log entry 65) and the stores that speculative tasks had buffered for its pages are, whose commits join what it waits for;
what these have brought in since is purged then. The words that threads have fetched go with them, those of threads that a pre-emption
has saved too (R254). A write of its registers narrower than 64 bits is ignored (R324). -/
def Obligations.InvalidationEvents : Prop :=
  ∀ (s : State),
    let pages : InvCommand := {
      scope := 0, ctx := bits s.ev.x 0 16, bytes := bits s.ev.x 32 16 * 2 ^ (12 + 9 * bits s.ev.x 30 2)
      va := s.inv.addr.toNat / 2 ^ (12 + 9 * bits s.ev.x 30 2) * 2 ^ (12 + 9 * bits s.ev.x 30 2) }
    let context : InvCommand := { scope := 1, ctx := bits s.ev.x 0 16, va := 0, bytes := 0 }
    let all : InvCommand := { scope := 2, ctx := 0, va := 0, bytes := 0 }
    let queued (q : InvCommand) : State := { s.purge q with inv := { s.inv with queue := s.inv.queue ++ [(q,
      (s.net.filter fun p => p.kind.translated && (q.scope = 2 || p.ctx = q.ctx)).map fun p => p.id,
      (s.specParts.filter fun p => p.affected q).map fun p => p.task.tcb.toNat)] } }
    (s.ev.flag = true → exec .invPages s = .next s ∧ exec .invContext s = .next s ∧ exec .invAll s = .next s) ∧
    (s.ev.flag = false → s.inv.queue.length < 16 →
      (bits s.ev.x 30 2 ≠ 3 → exec .invPages s = .next (queued pages)) ∧
      exec .invContext s = .next (queued context) ∧ exec .invAll s = .next (queued all)) ∧
    (s.ev.flag = false → 16 ≤ s.inv.queue.length → exec .invAll s = .next { s with inv := { s.inv with ovf := true } }) ∧
    (∀ q ids tcbs rest, s.inv.queue = (q, ids, tcbs) :: rest →
      (s.performedAll ids = true → s.settledAll q tcbs = true → exec .invalidationComplete s = .next
        { s.purge q with inv := { s.inv with queue := rest, done := s.inv.done + 1 }, msix := s.msix ++ [1] }) ∧
      (s.performedAll ids = false ∨ s.settledAll q tcbs = false → exec .invalidationComplete s = .next s)) ∧
    (∀ part : SpecPart, s.joinInvalidations part = { s with inv := { s.inv with
      queue := s.inv.queue.map fun e => if part.task.tcb.toNat ∈ e.2.2 then
        (e.1, e.2.1 ++ ((s.net.filter fun w => w.uid = part.uid && w.commitsTo e.1).map fun w => w.id), e.2.2) else e } }) ∧
    (∀ (p : Packet) q, p.commitsTo q = true ↔
      ∃ w pa, p.kind = .commit w ∧ w.target = .phys pa ∧ q.hits p.ctx w.va.toNat 8 = true) ∧
    (∀ q c i t, s.thread? c i = some t → (s.purge q).thread? c i = some { t with
      fetched := t.fetched.filter fun w => !q.hits t.ctx w.1.toNat 4 }) ∧
    (∀ q x k c v, s.ctx? x = some k → (c, v) ∈ k.savedCores → ∃ k', (s.purge q).ctx? x = some k' ∧
      (c, { v with core := v.core.unfetched q }) ∈ k'.savedCores) ∧
    (∀ (k : Core) q i t, (k.slot i).occ = .thread t → ((k.unfetched q).slot i).occ = .thread { t with
      fetched := t.fetched.filter fun w => !q.hits t.ctx w.1.toNat 4 }) ∧
    (∀ q c l, (l ∈ ((s.purge q).core c).tlb ↔ l ∈ (s.core c).tlb ∧ q.hits l.ctx l.va (2 ^ l.lg) = false) ∧
      (l ∈ ((s.purge q).cove c).cache ↔ l ∈ (s.cove c).cache ∧ q.hits l.ctx l.va (2 ^ l.lg) = false)) ∧
    (∀ q c l, l ∈ ((s.purge q).core c).ibuf ↔ l ∈ (s.core c).ibuf ∧ q.hits l.ctx l.va 64 = false)

/-! ## Events: contexts and the headland -/

/-- NOTIFY_WRITE, CHEAD_WRITE, SUBMISSION_ADMISSION, CTX_TEARDOWN, TEARDOWN_COMPLETION (R74, R343-R348), on sound memory. A page keeps
its registers where its id has no context, which is the model's reading (log entry 88). The order of admission's checks is log entry 60,
what a page fault of its own does log entry 84; what a teardown waits for is log entry 62. R340, R252: a record whose page is absent
waits, a teardown's last one too, and the part faults for it with the kind of a write (R329; log entry 115). R330, R331: the faults of a
context climb on, and their replies come back, when it is freed. R74, R76, R348: what a kill leaves at once: the queue torn and killed
with the cause, no thread, no ready, armed or spilled task and no waiting place of the context, each thread's task on its way to its end
as aborted; memory and the stores in flight stay. -/
def Obligations.QueueEvents : Prop :=
  (∀ (s : State) (x cause unit : Nat) (k : Ctx), s.ctx? x = some k →
    let u := s.kill x cause unit
    (∀ n m j, k.phase = .closing n m j → u = s) ∧
    ((∀ n m j, k.phase ≠ .closing n m j) →
      (∃ k', u.ctx? x = some k' ∧ k'.phase = .closing 3 cause unit ∧ k'.torn = true ∧ k'.killed = true ∧
        k'.cause = BitVec.ofNat 8 cause ∧ k'.saved = [] ∧ k'.savedCores = [] ∧ k'.preempting = false) ∧
      (∀ c i t, u.thread? c i = some t → t.ctx ≠ x) ∧
      (∀ v, (∀ t ∈ (u.cove v).ready, t.ctx ≠ x) ∧ ∀ a ∈ (u.cove v).spill, a.thread.ctx ≠ x) ∧
      (∀ t ∈ u.armed, t.ctx ≠ x) ∧ (∀ w ∈ u.taskWaits, w.ctx ≠ x) ∧ (∀ w ∈ u.barriers, w.ctx ≠ x) ∧
      u.phys = s.phys ∧ (∀ c, (u.core c).mem = (s.core c).mem) ∧
      (∀ c i t, s.thread? c i = some t → t.ctx = x → ∃ p ∈ u.net, p.kind = .ended t.task 6 cause c (coveOf c)) ∧
      (k.savedCores = [] → ∀ p ∈ s.net, (∃ t n v, p.kind = .store t n v) ∨ (∃ w, p.kind = .commit w) → p ∈ u.net))) ∧
  ∀ (s : State) (k : Ctx),
    exec .notifyWrite s = .next (s.writesPage s.ev.n 0x00 s.ev.x) ∧
    exec .cheadWrite s = .next (s.writesPage s.ev.n 0x18 s.ev.x).flush ∧
    (∀ v : Word, k.accepts v = true ↔ k.phase = .open ∧ v.toNat < 2 ^ 32 ∧
      (v.extractLsb' 0 32 - k.shead).toNat ≤ 2 ^ k.record.sqLg ∧ (v.extractLsb' 0 32 - k.tail).toNat < 2 ^ 31) ∧
    (s.ctx? s.ev.n = some k →
      (∀ u, let at_ := k.record.sqBase + BitVec.ofNat 64 (16 * (k.shead.toNat % 2 ^ k.record.sqLg))
        k.phase = .open → k.shead ≠ k.tail → s.own s.ev.n at_ false = (none, u) →
        exec .submissionAdmission s = .next (u.partFault s.ev.n (k.record.coves.headD 0) at_).flush) ∧
      (k.phase ≠ .open ∨ k.shead = k.tail → exec .submissionAdmission s = .next s) ∧
      (∀ pa₀ pa u v, k.phase = .open → k.shead ≠ k.tail →
        s.own s.ev.n (k.record.sqBase + BitVec.ofNat 64 (16 * (k.shead.toNat % 2 ^ k.record.sqLg))) false = (some pa₀, u) →
        u.errors = [] → u.isStray pa₀ = false → u.hostCopies = [] →
        let entry := u.phys.bytes pa₀ 16
        let x := s.ev.n
        let tcb : Word := BitVec.ofNat 64 (numAt entry 0 8)
        let target := numAt entry 8 2
        let unit := coreOf (k.record.coves.headD 0) 63
        (u.tcbTrap x unit tcb).isSome = false → u.own x tcb false = (some pa, v) → v.isPeer pa = false →
        v.region pa ≠ .host → v.errors = [] → v.isStray pa = false → v.hostCopies = [] →
        (v.tcbStatus pa ≠ 0 → v.tcbStatus pa ≠ 1 → exec .submissionAdmission s = .next
          ((v.record x { tcb, status := v.tcbStatus pa, cause := 13, unit := 0xFFFF, kind := 1 }).entryDone x).flush) ∧
        (v.tcbStatus pa = 0 → v.tcbInvalid (v.tcbTask x tcb pa) = false → numAt entry 10 6 = 0 → target ≠ 0xFFFF →
          k.record.coves.contains target = true →
          ((v.tcbPred pa).toInt ≤ 0 → exec .submissionAdmission s = .next
            ((((v.setStatus pa 2).disarm (v.tcbTask x tcb pa)).enqueue target (v.tcbTask x tcb pa)).entryDone x).flush) ∧
          (0 < (v.tcbPred pa).toInt → exec .submissionAdmission s = .next
            (((v.setStatus pa 1).arm (v.tcbTask x tcb pa)).entryDone x).flush)) ∧
        (v.tcbStatus pa = 1 → numAt entry 10 6 = 0 → target ≠ 0xFFFF → k.record.coves.contains target = true →
          exec .submissionAdmission s = .next ((v.lower x tcb pa target).entryDone x).flush)) ∧
      (∀ kind cause unit k', k.phase = .closing kind cause unit → s.drained s.ev.n k = true →
        (s.record s.ev.n { tcb := 0, status := 6, cause, unit, kind }).ctx? s.ev.n = some k' → k'.records = [] →
        exec .teardownCompletion s = .next
          ((s.record s.ev.n { tcb := 0, status := 6, cause, unit, kind }).freeContext s.ev.n k').flush) ∧
      (∀ kind cause unit k', k.phase = .closing kind cause unit → s.drained s.ev.n k = true →
        let u := s.record s.ev.n { tcb := 0, status := 6, cause, unit, kind }
        u.ctx? s.ev.n = some k' → k'.records ≠ [] → exec .teardownCompletion s = .next (u.setCtx s.ev.n k))) ∧
    (∀ x, s.ctx? x = some k → k.records = [] → ∀ r : Completion, let k' : Ctx := { k with records := [r] }
      let u := s.setCtx x k'
      u.writeRecord x = none → s.record x r = (match u.recordLacks x with
        | some va => if u.faulting x (k.record.coves.headD 0) (pageOf va) then u
          else u.sendFault x (coreOf (k.record.coves.headD 0) 63) va 10
        | none => u)) ∧
    (∀ x p, p ∈ s.net → (∃ l n g d un ge, p.kind = .fault l n g d un ge) ∨ (∃ g b, p.kind = .faultReply g b) →
      p ∈ (s.freeContext x k).net) ∧
    (TakesCommand s 2 → s.ctx? (leNat s.ev.bytes) = some k →
      (k.phase = .open → exec .ctxTeardown s = .next
        (let u := s.close (leNat s.ev.bytes) 2 29 0xFFFF
         { u with mbox := { u.mbox with busy := some (0xC002, leNat s.ev.bytes) } }).flush) ∧
      (∀ kind cause unit, k.phase = .closing kind cause unit → exec .ctxTeardown s = .next
        ({ s with mbox := { s.mbox with busy := some (0xC002, leNat s.ev.bytes) } } : State).flush))

/-- CTX_LAUNCH, LAUNCH_COMPLETION (R340, R341): a record that breaks a limit returns 1 and one whose coves are not free 2; a sound
object is loaded, read at one event (log entry 58) by the layout of log entry 59; at the end of the launch every worker core of the
context holds nothing but its identity words, the images and the full bits of the words written. R340: each limit of the record, field by
field, and R328's of the format that it names. R10, R78: what the words k0-k15, the constant window and the program area then hold, and
which words are full: k0-k255 and those of the `.local` image, `.space` words among them (log entry 89). -/
def Obligations.LaunchEvents : Prop :=
  (∀ (s : State) (bs : List Byte), let r := recordOf bs
    let at_ (off n : Nat) : Nat := leNat ((bs.drop off).take n)
    (s.recordSound bs = true ↔ r.ptRoot % 4096 = 0 ∧ r.ctx < 1024 ∧ r.ptfmt < 4 ∧ at_ 11 1 < 8 ∧ r.cls < 3 ∧ 1 ≤ r.tpc ∧ r.tpc ≤ 16 ∧
      at_ 14 2 = 0 ∧ r.budget ≠ 0 ∧ r.textVa.toNat % 64 = 0 ∧ r.dataVa.toNat % 64 = 0 ∧ r.workVa.toNat % 2 ^ 21 = 0 ∧
      2 ^ 23 * r.coves.length ≤ r.workLen.toNat ∧ (r.kmap.getLsbD 31 = true → mapFits (r.flags.getLsbD 0) r.kmap) ∧
      r.sqBase.toNat % 64 = 0 ∧ r.cqBase.toNat % 64 = 0 ∧ 4 ≤ r.sqLg ∧ r.sqLg ≤ 16 ∧ 4 ≤ r.cqLg ∧ r.cqLg ≤ 16 ∧ at_ 98 30 = 0 ∧
      r.coves ≠ [] ∧ ((s.ptfmt[r.ptfmt]?).getD {}).isValid = true) ∧
    r.ptRoot = at_ 0 8 ∧ r.ctx = at_ 8 2 ∧ r.ptfmt = at_ 10 1 ∧ r.flags.toNat = at_ 11 1 ∧ r.cls = at_ 12 1 ∧ r.tpc = at_ 13 1 ∧
    r.mcap.toNat = at_ 16 4 ∧ r.budget.toNat = at_ 20 4 ∧ r.obj.toNat = at_ 24 8 ∧ r.objLen.toNat = at_ 32 8 ∧ r.textVa.toNat = at_ 40 8 ∧
    r.dataVa.toNat = at_ 48 8 ∧ r.workVa.toNat = at_ 56 8 ∧ r.workLen.toNat = at_ 64 8 ∧ r.kmap.toNat = at_ 72 8 ∧
    r.sqBase.toNat = at_ 80 8 ∧ r.cqBase.toNat = at_ 88 8 ∧ r.sqLg = at_ 96 1 ∧ r.cqLg = at_ 97 1 ∧ r.coves.Nodup ∧
    ∀ v, v ∈ r.coves ↔ v < 1024 ∧ at_ (128 + v / 8) 1 / 2 ^ (v % 8) % 2 = 1) ∧
  (∀ f : PtFormat,
    let named := [f.valid, f.user, f.write, f.xdeny, f.accessed, f.dirty, f.dbm].filter fun b => b.en
    let places := f.leafPos :: named.map fun b => b.pos
    f.isValid = true ↔ (f.levels = 4 ∨ f.levels = 5) ∧ f.dmode ≠ 3 ∧ 39 ≤ f.oaHi ∧ f.oaHi ≤ 51 ∧ f.valid.en = true ∧
      (∀ n ∈ places, n < 12 ∨ f.oaHi < n) ∧ places.Nodup ∧ (f.dmode = 1 → f.dirty.en = true) ∧
      (f.dmode = 2 → f.dbm.en = true ∧ f.write.en = true) ∧ ∀ n, 12 ≤ n → n ≤ f.oaHi → f.chkMask.getLsbD n = false) ∧
  (∀ (k : Ctx) (c : Nat), let image := k.image c
    let x := c % 256
    let y := c / 256
    let words : List Nat := [c, y / 8 * 32 + x / 8, y % 8 * 8 + x % 8, x, y, y / 64 * 2 + x / 128, c / 8, k.record.ctx, k.record.cls,
      k.record.tpc, 0, 0, 0, 0, 0, 0]
    (∀ n v : Nat, words[n]? = some v → image.load (8 * n) 8 = wide v) ∧
    (∀ a, 128 ≤ a → a < 0x800 → image.read a = (k.constImage[a - 128]?).getD 0) ∧ (∀ a, 0x800 ≤ a → a < 0x4800 → image.read a = 0) ∧
    (∀ a, 0x4800 ≤ a → a < 0x18000 → image.read a = (k.localImage[a - 0x4800]?).getD 0) ∧
    ∀ w, k.imageFull.read w = if w < 256 ∨ 0x900 ≤ w ∧ 8 * w < 0x4800 + min k.localImage.length 0x13800 then 1 else 0) ∧
  ∀ (s : State),
    (TakesCommand s 256 →
      let r := recordOf s.ev.bytes
      (s.recordSound s.ev.bytes = false → exec .ctxLaunch s = .next (s.puts 1).flush) ∧
      (s.recordSound s.ev.bytes = true → s.launchBusy r = true → s.ctx? r.ctx = none →
        exec .ctxLaunch s = .next ({ s with ctxs := drop r.ctx s.ctxs, mbox := { busy := none, out := leBytes 4 2 } } : State).flush) ∧
      (∀ bytes u o v, s.recordSound s.ev.bytes = true → s.launchBusy r = false → s.hostCopies = [] → s.idUsed r = false →
        (s.setCtx r.ctx { record := r, phase := .loading }).readVirt r.ctx r.obj r.objLen.toNat (r.objLen.toNat / 4096 + 2) =
          (.ok bytes, u) → bytes.length = r.objLen.toNat → loadObject r bytes = some o → u.writeAll r.ctx o.stores = (none, v) →
        exec .ctxLaunch s = .next (v.placed r o).flush)) ∧
    (∀ k, s.ctx? s.ev.n = some k → k.phase = .launching →
      exec .launchCompletion s = .next (s.opened s.ev.n k).flush ∧
      (s.opened s.ev.n k).ctx? s.ev.n = some { k with phase := .open } ∧
      (s.opened s.ev.n k).mbox = { busy := none, out := leBytes 4 0 } ∧
      (∀ c, c ∈ workers k.record.coves → (s.opened s.ev.n k).core c = {
        mem := k.image c, full := k.imageFull, kmapcfg := k.kmapcfg, mcap := k.record.mcap
        owner := if (s.core c).isOut then (s.core c).owner else some k.record.ctx
        status := if (s.core c).status = .spare then .normal else (s.core c).status }) ∧
      (∀ c, c ∉ workers k.record.coves → (s.opened s.ev.n k).core c = s.core c))

/-- CTX_PREEMPT, CTX_RESUME, CHECKPOINT_SAVE, PREEMPT_FALLBACK, CORE_VACATE (R253-R256, R349). Status 2 for a retired cove is log entry
55, what a vacated core saves log entry 52, the slot and the queues kept log entry 53. That the capability of a vacated core becomes 0,
so that it admits no remote command, is the model's choice (log entry 122). -/
def Obligations.PreemptionEvents : Prop :=
  (∀ k : Core, k.vacated = { k with
    slots := Vector.replicate 16 {}, arrivals := [], syncers := [], spec := Vector.replicate 4 none, frozen := false, mcap := 0 }) ∧
  ∀ (s : State) (k : Ctx),
    (TakesCommand s 2 → s.ctx? (leNat s.ev.bytes) = some k → k.phase = .open →
      let x := leNat s.ev.bytes
      (k.preempting = false → exec .ctxPreempt s = .next
        ((((s.setCtx x { k with preempting := true }).requestAll x).hold 0xC003 x).preemptDone x).flush) ∧
      (k.preempting = true → exec .ctxPreempt s = .next (s.puts 0).flush) ∧
      (k.preempting = true → k.record.coves.any (s.coveTaken x) = true → exec .ctxResume s = .next (s.puts 2).flush) ∧
      (k.preempting = true → k.record.coves.any (s.coveTaken x) = false → exec .ctxResume s = .next
        (((k.saved.foldl State.restoreThread ((k.record.coves.foldl (fun s v => s.setCove v { s.cove v with owner := some x })
          s).restoreCores k)).setCtx x { k with preempting := false, saved := [], savedCores := [] }).puts 0).flush)) ∧
    (∀ t n cause u, s.thread? s.ev.n s.ev.m = some t → t.park = .await cause (.checkpoint n) → s.clear (s.fenced t) = true →
      (s.retire s.ev.n s.ev.m).holder? s.ev.n s.ev.m t.uid = some u →
      let v := (s.retire s.ev.n s.ev.m).saveThread s.ev.n s.ev.m u (s.ckptRanges t n)
      exec .checkpointSave s = .next v.flush ∧ (v.slot s.ev.n s.ev.m).occ = .reserved u.ctx ∧ v.net = (s.retire s.ev.n s.ev.m).net) ∧
    (∀ x, s.preempted? s.ev.n = some (x, k) →
      exec .preemptFallback s = .next (s.setCore s.ev.n { s.core s.ev.n with frozen := true }) ∧
      (s.canVacate x s.ev.n = true → exec .coreVacate s = .next
        ((((s.setCove (coveOf s.ev.n) { s.cove (coveOf s.ev.n) with
          spill := (s.core s.ev.n).arrivals ++ (s.cove (coveOf s.ev.n)).spill }).setCtx x { k with
            savedCores := put s.ev.n ((s.core s.ev.n).save k) k.savedCores }).setCore s.ev.n
              (s.core s.ev.n).vacated).preemptDone x).flush) ∧
      (s.canVacate x s.ev.n = false → exec .coreVacate s = .next s))

/-- SLACK_WATER, SELF_TEST_END, BUDGET_INTERVAL, EBUD_VAL_WRITE (R257, R258, R260, R337, R338, R358). MARGIN_MEASUREMENT,
STALL_SAMPLE, POWER_THROTTLE, THERMAL_THROTTLE, CLOCK_RAISE, THERMAL_SHUTDOWN (R355, R356, R359, R360). The sample is the increase of
each stall counter over a cove's 63 worker cores, and the cove's cycles: the most that one of its cores has had (log entry 71). A
throttle needs a power above the cap or a junction of 95 °C, a raise a power
below 90 % of the cap, a shutdown 105 °C: it kills every context and loses the commands on their way to other cores' matrix units. After
it no self-test ends and no core is released. Who is told of all asleep is log entry 56, the context of an event
without one log entry 57, the free cause below 30 and the kind 3 of a context that is closing at a shutdown log entry 63, the spare core of
a cove that has passed on log entry 87, EBUD written with 0 log entry 68, the event's readings log entry 71, and that a retired cove is
measured too log entry 117. -/
def Obligations.WatchEvents : Prop :=
  (∀ (s : State), let c := s.ev.n
     let x := ((s.cove (coveOf c)).owner).getD 0xFFFF
     let fails := ((s.setCore c { s.core c with status := .quarantined }).logError x 0 7 3 c).flush
     (s.slack s.ev.n = true → exec .slackWater s = .next
       ((((s.threadsOf s.ev.n).map fun q => (q.1, q.2.1, s.sleeps q.1 q.2.1 q.2.2)).foldl (fun s q =>
         s.raise q.1 q.2.1 fun p => { p with allAsleep := some (q.2.2.getD 0) }) s).onCtx s.ev.n fun k =>
           { k with stirred := false }).flush) ∧
     (s.slack s.ev.n = false → exec .slackWater s = .next s) ∧
     ((s.cove (coveOf c)).health.state = .retired ∨ s.powered = false → exec .selfTestEnd s = .next s) ∧
     ((s.cove (coveOf c)).health.state ≠ .retired → s.powered = true →
       ((s.core c).status = .contained → s.ev.flag = true → exec .selfTestEnd s = .next ((s.passTest c).logError x 0 6 3 c).flush) ∧
       ((s.core c).status = .releasing → s.ev.flag = true →
         (∀ k, (s.cove (coveOf c)).owner = (s.core c).owner → (s.coveCtx c) = some k → exec .selfTestEnd s = .next (s.passTest c).flush) ∧
         ((s.cove (coveOf c)).owner ≠ (s.core c).owner ∨ s.coveCtx c = none → exec .selfTestEnd s = .next ((s.scrubbed c).setCore c
           { (s.core c).emptied with owner := (s.core c).owner, status := .spare }).flush)) ∧
       ((s.core c).status = .contained ∨ (s.core c).status = .releasing → s.ev.flag = false → exec .selfTestEnd s = .next fails)) ∧
     (∀ k, s.ctx? s.ev.n = some k → exec .budgetInterval s = .next (s.setCtx s.ev.n { k with
       history := (k.history ++ [k.ebud]).drop (k.history.length + 1 - 144) })) ∧
     (s.ev.flag = true → exec .ebudValWrite s = .next s) ∧
     (∀ k, s.ev.flag = false → s.ctx? s.ebudSel.toNat = some k →
       exec .ebudValWrite s = .next (s.setCtx s.ebudSel.toNat { k with ebud := s.ev.x.extractLsb' 0 32 }))) ∧
  (∀ (s : State),
     (1024 ≤ s.ev.n → exec .marginMeasurement s = .next s) ∧
     (s.ev.n < 1024 → exec .marginMeasurement s = .next (s.setCove s.ev.n { s.cove s.ev.n with
       health := { (s.cove s.ev.n).health.age s.ev.int (s.held s.ev.n) with
         margin := BitVec.ofInt 16 s.ev.int
         fails := if s.ev.flag then (s.cove s.ev.n).health.fails + 1 else (s.cove s.ev.n).health.fails
         time := Config.moduleTime s.tick } })) ∧
     (∀ (h : Health) (m : Int) (held : Bool),
       (h.state = .nominal → h.age m held = if m < 40 then { h with state := .raised, steps := 1 } else h) ∧
       (h.state = .raised → h.age m held =
         if m < 40 then if h.steps < 3 then { h with steps := h.steps + 1 } else { h with state := .slowed } else h) ∧
       (h.state = .slowed → h.age m held = if m < 20 then { h with state := if held then .retiring else .retired } else h) ∧
       (h.state = .retiring → h.age m held = if held then h else { h with state := .retired }) ∧
       (h.state = .retired → h.age m held = h)) ∧
     (∀ v, s.held v = true ↔ ∃ x k, (s.cove v).owner = some x ∧ s.ctx? x = some k ∧
       ¬(k.preempting = true ∧ ∀ c ∈ workers k.record.coves, k.away c = true)) ∧
     (let increase (c i : Nat) : Nat :=
        (((s.core c).stall[i]?).getD 0 - ((find? c s.head.sampleBase).bind fun v => v[i]?).getD 0).toNat
      ∃ sums cycles, exec .stallSample s = .next { s with
          head := { s.head with
            sampleTime := Config.moduleTime s.tick, sampleCycles := cycles, sample := sums, sampleCleared := s.head.cleared
            sampleBase := s.cores.map fun q => (q.1, q.2.stall), cycles := [], cleared := [] } } ∧
        (∀ v, ((∀ q ∈ s.cores, coveOf q.1 ≠ v) → find? v cycles = none) ∧
          ((∃ q ∈ s.cores, coveOf q.1 = v) → ∃ n, find? v cycles = some n ∧ (∀ q ∈ s.head.cycles, coveOf q.1 = v → q.2 ≤ n) ∧
            (n = 0 ∨ ∃ q ∈ s.head.cycles, coveOf q.1 = v ∧ q.2 = n))) ∧
        ∀ v, ((∀ q ∈ s.cores, coveOf q.1 ≠ v) → find? v sums = none) ∧
          ((∃ q ∈ s.cores, coveOf q.1 = v) → ∃ row : Vector Word 16, find? v sums = some row ∧ ∀ i, i < 16 →
            row[i]? = some (wide ((List.range 63).map fun n => increase (coreOf v n) i).sum))) ∧
     (s.head.cap < s.ev.n → 1500 < s.head.ceiling →
       exec .powerThrottle s = .next { s with head := { s.head with
         ceiling := s.head.ceiling - 125, powerEvents := s.head.powerEvents + 1 } }) ∧
     (950 ≤ s.ev.int → 1500 < s.head.ceiling →
       exec .thermalThrottle s = .next { s with head := { s.head with
         ceiling := s.head.ceiling - 125, thermalEvents := s.head.thermalEvents + 1 } }) ∧
     (s.head.ceiling ≤ 1500 ∨ s.ev.n ≤ s.head.cap → exec .powerThrottle s = .next s) ∧
     (s.head.ceiling ≤ 1500 ∨ s.ev.int < 950 → exec .thermalThrottle s = .next s) ∧
     (10 * s.ev.n < 9 * s.head.cap →
       exec .clockRaise s = .next { s with head := { s.head with ceiling := min 2250 (s.head.ceiling + 125) } }) ∧
     (9 * s.head.cap ≤ 10 * s.ev.n → exec .clockRaise s = .next s) ∧
     (s.ev.int < 1050 → exec .thermalShutdown s = .next s) ∧
     (1050 ≤ s.ev.int → let u := (s.ctxs.map fun q => q.1).foldl State.shutContext s
       exec .thermalShutdown s = .next { u with
         powered := false, net := u.net.filter fun p => !p.kind.isCommand, cores := u.cores.map fun q => (q.1, q.2.stopEngines) }) ∧
     (∀ x k, s.ctx? x = some k → k.phase ≠ .loading → ∃ cause, cause < 30 ∧
       s.shutContext x = (({ s with free := s.free + 1 } : State).kill x cause 0xFFFF).onCtx x fun k => match k.phase with
         | .closing 2 _ unit => { k with phase := .closing 3 cause unit, killed := true, cause := BitVec.ofNat 8 cause }
         | _ => k))

/-- CRT_STAGE_WRITE, CRT_STAGE_READ, CRT_COMMIT, CRT_COMMIT_DONE (R334, R335; one busy table blocks both, log entry 66). REGISTER_WRITE,
QMAP_RELEASE, RELEASE (R323, R324, R326, R328, R332, R334, R337, R338, R354): a register write narrower than 64 bits is ignored; the host
programs the HDM decoders, other modules' memory and BAR2 by the same event (log entries 61, 64). -/
def Obligations.RegisterEvents : Prop :=
  (∀ (s : State), let c := s.crt
     let far := s.crt.sel.getLsbD 63
     let staged := if far then c.farStage else c.nearStage
     (s.ev.flag = true → exec .crtStageWrite s = .next s ∧ exec .crtStageRead s = .next s ∧ exec .crtCommit s = .next s ∧
       exec .qmapRelease s = .next s) ∧
     (s.ev.flag = false → c.busy = false → (far = false ∨ bits c.sel 0 12 < 1024) →
       (let run : Run := { index := bits c.sel 0 12, lo := c.lo, hi := c.hi }
        exec .crtStageWrite s = .next { s with crt :=
          if far then { c with farStage := setRun run staged } else { c with nearStage := setRun run staged } }) ∧
       (∀ r, staged.find? (fun r => r.index = bits c.sel 0 12) = some r →
         exec .crtStageRead s = .next { s with crt := { c with lo := r.lo, hi := r.hi } }) ∧
       (staged.find? (fun r => r.index = bits c.sel 0 12) = none →
         exec .crtStageRead s = .next { s with crt := { c with lo := 0, hi := 0 } })) ∧
     (s.ev.flag = false → c.busy = false → commitStatus far (c.current far) staged ≠ 0 → exec .crtCommit s = .next
       { s with crt := { c with status := BitVec.ofNat 8 (commitStatus far (c.current far) staged) } }) ∧
     (s.ev.flag = false → c.busy = false → commitStatus far (c.current far) staged = 0 → s.hostCopies = [] → exec .crtCommit s = .next
       { s with crt := if far then { c with farBusy := true } else { c with nearBusy := true } }) ∧
     ((if s.ev.flag then c.farBusy else c.nearBusy) = true → s.hostCopies = [] → exec .crtCommitDone s = .next
       { s with
         phys := (s.changedBytes s.ev.flag).foldl (fun m q => m.clear q.1 q.2) s.phys
         errors := s.errors.filter fun e => !inRanges (s.changedBytes s.ev.flag) (64 * e.1)
         crt := if s.ev.flag then { c with far := c.farStage, farBusy := false, status := 0 }
           else { c with near := c.nearStage, nearBusy := false, status := 0 }
         msix := s.msix ++ [2] })) ∧
  (∀ (s : State),
     (s.ev.m = 0 → s.ev.flag = true → exec .registerWrite s = .next s) ∧
     (s.ev.m = 0 → s.ev.flag = false →
       (∀ f i, i < 4 → f < 4 → s.ev.n = 0x500 + 32 * f + 8 * i →
         exec .registerWrite s = .next (s.writeFormat f i s.ev.x) ∧
         ((s.ctxs.any fun q => q.2.record.ptfmt = f) = true → exec .registerWrite s = .next s)) ∧
       (s.ev.n = 0x208 → exec .registerWrite s = .next { s with inv := { s.inv with addr := s.ev.x } }) ∧
       (s.ev.n = 0x210 → s.ev.x.getLsbD 33 = true → exec .registerWrite s = .next { s with inv := { s.inv with ovf := false } }) ∧
       (s.ev.n = 0x300 → exec .registerWrite s = .next { s with crt := { s.crt with sel := s.ev.x &&& 0x8000000000000FFF } }) ∧
       (s.ev.n = 0x308 → exec .registerWrite s = .next { s with crt := { s.crt with lo := s.ev.x } }) ∧
       (s.ev.n = 0x310 → exec .registerWrite s = .next { s with crt := { s.crt with hi := s.ev.x &&& 0x3030F00FFFFFF } }) ∧
       (s.ev.n = 0x320 → exec .registerWrite s = .next
         { s with crt := { s.crt with stray := s.crt.stray &&& ~~~s.ev.x.extractLsb' 32 32 } }) ∧
       (s.ev.n = 0x400 → exec .registerWrite s = .next { s with ebudSel := s.ev.x &&& 0xFFFF }) ∧
       (s.ev.n = 0 → exec .registerWrite s = .next s)) ∧
     (s.ev.m = 1 → exec .registerWrite s = .next { s with hdmNear := some s.ev.n }) ∧
     (s.ev.m = 2 → exec .registerWrite s = .next { s with hdmFar := some s.ev.n }) ∧
     (s.ev.m = 3 → exec .registerWrite s = .next { s with peers := s.peers ++ [(s.ev.n, s.ev.x.toNat)] }) ∧
     (s.ev.m = 4 → exec .registerWrite s = .next { s with bar2 := some s.ev.n }) ∧
     (∀ n, s.ev.flag = false → n < 63 → s.ev.x = BitVec.ofNat 64 (2 ^ n) → (s.cove s.ev.n).health.state ≠ .retired →
       s.powered = true → (s.core (coreOf s.ev.n n)).status = .quarantined → exec .qmapRelease s = .next
         (s.setCore (coreOf s.ev.n n) { s.core (coreOf s.ev.n n) with status := .releasing })) ∧
     (s.head.boot = 2 → s.ev.n < 1024 → s.ev.m ≤ 62 → exec .release s = .next ((s.releaseCore s.ev.n s.ev.m).puts 0).flush))

/-- R339, R352-R354, R356, R358, R359: what the headland's commands return; a sample's cycles are those that log entry 71 names. R350:
with boot 3 the mailbox does not answer GET_CERTS and ATTEST (log entry 91). -/
def Obligations.CommandOutputs : Prop :=
  (∀ (s : State), s.head.boot = 2 →
    (s.ev.n < 1024 →
      (let h := (s.cove s.ev.n).health
       let code : Nat := match h.state with
         | .nominal => 0
         | .raised => 1
         | .slowed => 2
         | .retiring => 3
         | .retired => 4
       exec .getHealth s = .next (s.puts 0 (leBytes 2 s.ev.n ++ leBytes 1 code ++ leBytes 1 h.steps ++ leBytes 2 h.margin.toNat ++
         leBytes 2 (Config.margin0 s.ev.n).toNat ++ leBytes 4 h.fails.toNat ++ leBytes 4 0 ++ leBytes 8 h.time.toNat ++
         leBytes 8 (match s.holder s.ev.n with
           | some x => 2 ^ 16 + x
           | none => 0))).flush) ∧
      (∀ v, (s.holder v).isSome = s.held v ∧ ∀ x, s.holder v = some x → (s.cove v).owner = some x) ∧
      (exec .getStall s = .next (s.puts 0 (leBytes 2 s.ev.n ++ leBytes 2 0 ++
        leBytes 4 (boolNat (s.head.sampleCleared.contains s.ev.n)) ++ leBytes 8 s.head.sampleTime.toNat ++
        leBytes 8 ((find? s.ev.n s.head.sampleCycles).getD 0) ++
        ((find? s.ev.n s.head.sample).getD (Vector.replicate 16 0)).toList.flatMap fun n => leBytes 8 n.toNat)).flush)) ∧
    (1024 ≤ s.ev.n → exec .getHealth s = .next (s.puts 1).flush ∧ exec .getStall s = .next (s.puts 1).flush) ∧
    exec .getQmap s = .next (s.puts 0 ((upFrom 0 1024).flatMap fun v => leBytes 8 (s.qmap v).toNat)).flush ∧
    (∀ k, s.ctx? s.ev.n = some k → k.phase ≠ .loading → exec .getBudget s = .next
      (s.puts 0 (historyBytes s.ev.n true k.record.budget k.ebud k.events k.history)).flush) ∧
    ((∀ k, s.ctx? s.ev.n = some k → k.phase = .loading) →
      (∀ before e behind, s.head.ended = before ++ e :: behind → (∀ d ∈ before, d.ctx ≠ s.ev.n) → e.ctx = s.ev.n →
        exec .getBudget s = .next (s.puts 0 (historyBytes s.ev.n false e.initial e.final e.events e.history)).flush) ∧
      ((∀ e ∈ s.head.ended, e.ctx ≠ s.ev.n) → exec .getBudget s = .next (s.puts 1).flush)) ∧
    (∀ x live initial final (events : Vector (BitVec 32) 8) history, historyBytes x live initial final events history =
      leBytes 2 x ++ leBytes 1 (if live then 1 else 0) ++ leBytes 1 history.length ++ leBytes 4 initial.toNat ++
        leBytes 4 final.toNat ++ leBytes 4 0 ++ (events.toList.flatMap fun n => leBytes 4 n.toNat) ++
        history.flatMap fun n => leBytes 4 n.toNat) ∧
    (s.ev.n ≤ 1 →
      let runs := (if s.ev.n = 1 then s.crt.far else s.crt.near).filter Run.valid
      exec .getClassmap s = .next
        (s.puts 0 (leBytes 4 runs.length ++ runs.flatMap fun r => leBytes 8 r.lo.toNat ++ leBytes 8 r.hi.toNat)).flush) ∧
    exec .getPower s = .next (s.puts 0 (leBytes 4 (Config.powerWatts s.tick).toNat ++ leBytes 4 s.head.cap ++
      leBytes 2 (Config.inletTenths s.tick).toNat ++ leBytes 2 (Config.junctionTenths s.tick).toNat ++
      leBytes 2 s.head.ceiling ++ leBytes 2 0 ++ leBytes 4 s.head.powerEvents.toNat ++ leBytes 4 s.head.thermalEvents.toNat ++
      leBytes 8 (Config.moduleTime s.tick).toNat)).flush ∧
    (4000 ≤ s.ev.n → s.ev.n ≤ 9600 →
      exec .setCap s = .next (({ s with head := { s.head with cap := s.ev.n } } : State).puts 0).flush) ∧
    (s.ev.n < 4000 ∨ 9600 < s.ev.n → exec .setCap s = .next (s.puts 1).flush) ∧
    ((s.mbox.busy = none ∨ s.ev.flag = true) →
      (s.ev.bytes = [] → exec .getCerts s = .next (s.puts 0 ((upFrom 0 3).flatMap fun i =>
        leBytes 2 (Config.certificate i).length ++ Config.certificate i))) ∧
      (s.ev.bytes.length = 32 →
        let body := leBytes 4 1 ++ leBytes 4 s.head.log.length ++ leBytes 8 s.modinfo.toNat ++ s.ev.bytes ++ s.head.accum ++
          s.head.log.flatten
        let signature := (Config.identitySign body s.free).take 2048
        exec .attest s = .next (({ s with free := s.free + 1 } : State).puts 0
          (body ++ leBytes 2 signature.length ++ signature)))) ∧
    (s.mbox.busy = none → s.powered = true → s.ev.bytes.length ≤ 4096 → exec .fwStage s = .next
      (({ s with head := { s.head with
        staged := Memory.store s.head.staged s.ev.n s.ev.bytes
        stagedLen := max s.head.stagedLen (s.ev.n + s.ev.bytes.length) } } : State).puts 0)) ∧
    (TakesCommand s 0 →
      let bs := s.head.stagedPackage
      let status := packStatus bs fun k => (s.head.image k).minSecurity
      (status ≠ 0 → exec .fwCommit s = .next
        (({ s with head := { s.head with staged := [], stagedLen := 0 } } : State).puts status).flush) ∧
      (status = 0 → exec .fwCommit s = .next (({ s with head := { s.head with
        staged := [], stagedLen := 0
        images := put (packKind bs) { package := bs, minSecurity := (s.head.image (packKind bs)).minSecurity, fresh := true }
          s.head.images } } : State).puts 0).flush))) ∧
  (∀ (s : State), s.head.boot = 3 → s.ev.flag = false → exec .getCerts s = .next s ∧ exec .attest s = .next s)

/-- R350, R329, R331-R334, R337, R342, R360: what reset leaves: no context, no thread, nothing in flight, no record, generation 0,
the phase bits and counters at the values the spec gives, a boot state of 0, and the clock's ceiling at 2.25 GHz; memory in
canonical form. The cap of 9,600 W is the spec's default (R360).
MODULE_RESET (R350, R351, R334, R360): nothing of the cores, the contexts, the packets and the registers is left; memory, its errors
and the coves' ageing stay (log entry 70); the boot starts the four images in order or stops. -/
def Obligations.Resets : Prop :=
  (let s := State.reset
   s.ctxs = [] ∧ s.cores = [] ∧ s.net = [] ∧ s.sound ∧ s.powered = true ∧ s.fu.base = 0 ∧ s.fu.tailPhase = true ∧ s.fu.tailIdx = 0 ∧
   s.fu.gen = 0 ∧ s.inv.stat = 0 ∧ s.crt.near = [] ∧ s.crt.far = [] ∧ s.ebudSel = 0 ∧ s.head.boot = 0 ∧ s.head.ceiling = 2250 ∧
   s.head.cap = 9600 ∧ s.msix = [] ∧ s.pages = [] ∧ s.olds = []) ∧
  (∀ (s : State), (s.powered = true ∨ s.ev.flag = true) →
     ∃ t, exec .moduleReset s = .next t ∧ t.cores = [] ∧ t.ctxs = [] ∧ t.net = [] ∧ t.powered = true ∧ t.phys = s.phys ∧ t.errors = s.errors ∧
       t.pages = [] ∧ t.olds = [] ∧
       t.coves = s.coves.map (fun q => (q.1, { health := q.2.health })) ∧ t.fu = {} ∧ t.inv = {} ∧ t.mbox = {} ∧
       (t.head.boot = 2 ∨ t.head.boot = 3) ∧
       (t.head.boot = 2 → t.head.log.length = 4 ∧ t.crt.near.length = 16 ∧ t.crt.far.length = 8))

/-! ## Encoding -/

/-- R121-R133: words that the spec writes out decode to their instructions, and the words that it names ILLEGAL to none. -/
def Obligations.DecodedWords : Prop :=
  decode 0x4AC5950B = .ok (.csel 10 11 12 5) ∧ decode 0x0025280B = .ok (.itnext 10 8) ∧ decode 0x8000718B = .ok (.ckpt 3) ∧
  decode 0x0090360B = .ok (.ldk 12 9) ∧ decode 0xAEB6452B = .ok (.atmCas 10 12 11 1 3) ∧ decode 0x0085A52B = .ok (.ldf 10 11 8) ∧
  decode 0x06C0568B = .ok (.kbind 13 12) ∧ decode 0x1200450B = .ok (.mpoll 10) ∧ decode 0x0404600B = .ok (.gbar 8) ∧
  decode 0x74A1502B = .ok (.copyAc 2 10 14 0) ∧ decode 0x02B5602B = .ok (.acadd 10 11) ∧ decode 0x042081DB = .ok (.vadd 3 1 2 2) ∧
  decode 0x0436505B = .ok (.vst 12 3 0x40) ∧ decode 0x1010E15B = .ok (.vcvt 2 1 1 0 1) ∧ decode 0x14D510FB = .ok (.mmaBfBf 1 10 13 2) ∧
  decode 0x28B560FB = .ok (.combPutS 10 11 5 1) ∧ decode 0x1000307B = .ok .mwait ∧
  (∀ i, decode 0x00000000 ≠ .ok i) ∧ (∀ i, decode 0xFFFFFFFF ≠ .ok i) ∧ (∀ i, decode 0x1001D58B ≠ .ok i) ∧
  ∀ i, decode 0x0E00600B ≠ .ok i

/-- R122-R133: decoding the word of a well-formed instruction gives it back, with every operand. -/
def Obligations.EncodeDecode : Prop :=
  ∀ (i : Instr) (w : BitVec 32), i.wellFormed = true → encode i = some w → decode w = .ok i

/-- R134: a word has one meaning: an instruction that a word decodes to is within the limits of its fields, and has that word
as its encoding. -/
def Obligations.DecodeEncode : Prop :=
  ∀ (i : Instr) (w : BitVec 32), decode w = .ok i → i.wellFormed = true ∧ encode i = some w

/-! ## Steps -/

/-- R12, R141: when the search of a core's cycle reaches a thread whose fetch gives a word that decodes to an instruction, the step
is that instruction, executed for that thread, but for a divide while the core's divider is busy; once it has issued, the core
remembers the slot. R13, R173: the cycles to its thread's next issue; 8 where the thread has entered its handler in place of the instruction,
which then leaves the divider as it was. -/
def Obligations.StepRunsInstruction : Prop :=
  (∀ (s s' : State) (c k : Nat) (t : Thread) (rest : List Move) (w : BitVec 32) (i : Instr),
    Turn s c k t rest → (t.pend.first = none ∨ t.handler = true) → (s.wakes c rest).fetch c t = .word w → decode w = .ok i →
    (nextIssue i = 40 → ((s.wakes c rest).core c).divider = 0) →
    exec i (s.turn c k t w rest) = .next s' → s'.stillWaits c k t.uid = false →
    step s = .next (s'.issued c k t i)) ∧
  (∀ (i : Instr), issueGap i = nextIssue i ∧ (usesDivider i = true ↔ nextIssue i = 40)) ∧
  (∀ (s : State) (c i uid : Nat) (t : Thread) (instr : Instr), s.holder? c i uid = some t →
    let u := s.setThread c i { t with hold := nextIssue instr }
    (t.hold = 0 → s.issuedBy c i uid instr = if nextIssue instr = 40 then u.setCore c { u.core c with divider := 40 } else u) ∧
    (t.hold ≠ 0 → s.issuedBy c i uid instr = s.setThread c i { t with hold := 8 })) ∧
  (∀ (s : State) (c i uid : Nat) (instr : Instr), s.holder? c i uid = none → s.issuedBy c i uid instr = s) ∧
  (∀ (t : Thread) (k : Trap) (gang : Bool), (t.enter k gang).hold ≠ 0)

/-- R134, R141, R249: the other turns: a pending asynchronous cause with h = 0 goes first, whatever the fetch gives; a word that
encodes no instruction is ILLEGAL; a PC that is no translated address is a fetch fault.
R141: the word of a fetch: the thread's own that has returned, else the four bytes of a line of its context in the instruction
buffer; nothing where neither has it. That the PC's bits [1:0] play no part is log entry 11, that a buffered line gives its own word
whatever has been stored since is log entry 78. -/
def Obligations.StepTakesTraps : Prop :=
  (∀ (s s' : State) (c k : Nat) (t : Thread) (rest : List Move), Turn s c k t rest →
     s'.stillWaits c k t.uid = false → let got := (s.wakes c rest).fetch c t
     (t.pend.first ≠ none → t.handler = false → exec .asyncTrap (s.turn c k t got.latch rest) = .next s' →
       step s = .next (s'.issued c k t .asyncTrap)) ∧
     (∀ w e, (t.pend.first = none ∨ t.handler = true) → got = .word w → decode w = .error e →
       exec .illegalWord (s.turn c k t w rest) = .next s' → step s = .next (s'.issued c k t .illegalWord)) ∧
     ((t.pend.first = none ∨ t.handler = true) → got = .badPc →
       exec .fetchFault (s.turn c k t 0 rest) = .next s' → step s = .next (s'.issued c k t .fetchFault))) ∧
  (∀ (s : State) (c : Nat) (t : Thread),
     (s.window t.ctx c t.pc ≠ .translated → s.fetch c t = .badPc) ∧
     (s.window t.ctx c t.pc = .translated →
       (∀ w, t.fetched = some (t.pc, w) → s.fetch c t = .word w) ∧
       (∀ l, t.fetched = none → (s.core c).ibuf.find? (fun l => l.ctx == t.ctx && l.va == t.pc.toNat / 64 * 64) = some l →
         s.fetch c t = .word (BitVec.ofNat 32 (leNat ((l.bytes.drop (t.pc.toNat % 64 / 4 * 4)).take 4)))) ∧
       (t.fetched = none → (s.core c).ibuf.find? (fun l => l.ctx == t.ctx && l.va == t.pc.toNat / 64 * 64) = none →
         s.fetch c t = .miss)))

/-- A step whose move is an event is that event, with its operands; with an empty agenda it is the default policy's move (log
entry 2). -/
def Obligations.StepEvents : Prop :=
  (∀ (s s' : State) (i : Instr) (a : EvArg) (rest : List Move), s.agenda = .event i a :: rest → isEvent i = true →
    exec i { s with agenda := rest, ev := a } = .next s' → step s = .next { s' with tick := s'.tick + 1 }) ∧
  (∀ s : State, s.agenda = [] → step s = step { s with agenda := [s.nextMove] })

/-- R16: a cycle in which the core issues nothing is charged to exactly one stall counter and changes nothing else, but that every
issue point comes one cycle nearer (R13) and every range of full-empty bits that is being marked goes on by 64 words (R181, log entry
95), and that the core's cycle is counted for the sample (R359): a cycle whose slots hold no thread that may issue, one of a sealed core
(R260) and one of a core that falls back to a whole-core save (R256). A core without a clock charges nothing: after a thermal shutdown
(R360), in a retired cove (R355).
R15: what an event or the marking of a range wakes in a cycle issues from the next one on: a slot that waited as the cycle began is passed
over. R182: the ranges of a core go on in the order of their issue. R16: the counter: that of the first slot in search order, as the cycle
found it, that is not empty: 0 for one held, reserved or awaiting, the counter that its
thread's wait names, 14 where its range is being marked, 1 where its thread has not passed its issue point (the cycles between a trap's
entry and its handler's first issue among them: log entry 106), 15 in pre-emption service, where
the causes of the others' waits are as they stand now (log entry 86); 0 if every slot is empty. -/
def Obligations.IdleCycles : Prop :=
  (∀ (s : State) (c : Nat) (rest : List Move), Clocked s c rest →
     let u := s.wakes c rest
     let order := searchOrder (s.core c).lastIssued
     let charged (v : State) : State := v.chargeStall c (stallOf (v.core c) (s.core c) order)
     let ends (v : State) : Prop := step s = .next { v with tick := v.tick + 1 }
     ((u.core c).sealed = true ∨ (u.core c).frozen = false ∧ (∀ i, i < 16 → u.passedOver (s.core c) c i) → ends (charged u)) ∧
     ((u.core c).sealed = false → (u.core c).frozen = true →
       ends (charged ((List.range 16).foldl (fun s i => s.reviewed c i) u)))) ∧
  (∀ (s : State) (c i : Nat),
     ((∀ t n, s.thread? c i = some t → t.park ≠ .retry n) → s.reviewed c i = s) ∧
     (∀ t n, s.thread? c i = some t → t.park = .retry n →
       (∀ u m v, attempt s c i = .notReady u → u.thread? c i = some v → v.park = .retry m →
         s.reviewed c i = s.setThread c i { t with park := .retry m }) ∧
       (∀ u, attempt s c i = .issued u → s.reviewed c i = s.setThread c i { t with park := .none }))) ∧
  (∀ (s : State) (c : Nat) (rest : List Move), s.agenda = .core c :: rest →
     s.powered = false ∨ (s.cove (coveOf c)).health.state = .retired →
     step s = .next { s with agenda := rest, tick := s.tick + 1 }) ∧
  (∀ (s : State) (c n : Nat), n < 16 → s.chargeStall c n = s.setCore c { s.core c with
     stall := Vector.ofFn fun i => if i.val = n then (s.core c).stall.get i + 1 else (s.core c).stall.get i }) ∧
  (∀ (s : State) (c : Nat), (∀ i t, s.thread? c i = some t → t.range = none) → (∀ i t, (s.aged c).thread? c i = some t ↔
     ∃ u, s.thread? c i = some u ∧ t = { u with hold := u.hold - 1 }) ∧
     (∀ i, s.thread? c i = none → (s.aged c).slot c i = s.slot c i) ∧ (s.aged c).core c = { s.core c with
       slots := ((s.aged c).core c).slots, divider := (s.core c).divider - 1 } ∧ ∀ d, d ≠ c → (s.aged c).core d = s.core d) ∧
  (∀ (k : Core), (∀ i, i ∈ k.rangeSlots ↔ ∃ t, (k.slot i).occ = .thread t ∧ t.range.isSome = true) ∧ k.rangeSlots.Nodup ∧
     k.rangeSlots.Pairwise fun i j => ∀ t r u q, (k.slot i).occ = .thread t → t.range = some r → (k.slot j).occ = .thread u →
       u.range = some q → r.issued ≤ q.issued) ∧
  (∀ (s : State) (c : Nat), s.aged c = (s.core c).rangeSlots.foldl (fun s i => s.advanceRange c i) (({ s with head := { s.head with
     cycles := put c ((find? c s.head.cycles).getD 0 + 1) s.head.cycles } } : State).setCore c { s.core c with
     slots := (s.core c).slots.map fun v => match v.occ with
       | .thread t => { v with occ := .thread { t with hold := t.hold - 1 } }
       | _ => v
     divider := (s.core c).divider - 1 })) ∧
  (∀ (s : State) (c i : Nat) (t : Thread), s.thread? c i = some t →
     (t.range = none → s.advanceRange c i = s) ∧
     (∀ r, t.range = some r → s.advanceRange c i = (s.setThread c i { t with
       range := if r.left ≤ 64 then none else some { r with next := r.next + 64, left := r.left - 64 } }).markWords c r.next
         (min 64 r.left) r.set)) ∧
  (∀ (s : State) (c first n w : Nat), (s.core c).full.wf = true → let u := s.markWords c first n false
     u = s.setCore c { s.core c with full := (u.core c).full } ∧
     (u.core c).isFull w = ((s.core c).isFull w && !(decide (first ≤ w) && decide (w < first + n)))) ∧
  (∀ (k start : Core) (order : List Nat),
     let taken (i : Nat) : Core := if (start.slot i).engaged then start else k
     ((∀ i ∈ order, ((taken i).slot i).occ = .empty) → stallOf k start order = 0) ∧
     (∀ before i behind, order = before ++ i :: behind → (∀ j ∈ before, ((taken j).slot j).occ = .empty) →
       let v := (taken i).slot i
       let charges (n : Nat) : Prop := stallOf k start order = n
       ((∃ l, v.occ = .held l) ∨ (∃ x, v.occ = .reserved x) ∨ (∃ t, v.occ = .awaiting t) → charges 0) ∧
       (∀ t, v.occ = .thread t →
         (∀ n, t.park = .retry n → charges n) ∧ (∀ n w, t.park = .await n w → charges n) ∧
         (t.park = .none →
           charges (if t.range.isSome then 14 else if t.hold ≠ 0 then 1 else if (taken i).frozen then 15 else 0))))) ∧
  (∀ v : Slot, v.engaged = true ↔ ∃ t, v.occ = .thread t ∧ (t.range.isSome = true ∨ ∃ n w, t.park = .await n w))

/-- Nothing that a program, an engine, the host or the operator does stops the machine: every state has a next state. -/
def Obligations.StepNeverStops : Prop :=
  ∀ s : State, ∃ s', step s = .next s'

/-- Every step keeps memory in its canonical form: physical memory, every core's local store and full-empty bits, and those of
every save. -/
def Obligations.StepKeepsMemory : Prop :=
  ∀ (s s' : State), s.sound → step s = .next s' → s'.sound

end Statements
end

