-- ==== Sys2Proof/Laws/State.lean ====
section
/-! SUPPORT. One lemma for each field of the state under each update of it, and what reading a part back gives. -/

namespace Sys2Proof.Machine

/-! ## setCore -/

@[simp] theorem State.setCore_agenda (s : State) (c : Nat) (k : Core) : (s.setCore c k).agenda = s.agenda := rfl
@[simp] theorem State.setCore_tick (s : State) (c : Nat) (k : Core) : (s.setCore c k).tick = s.tick := rfl
@[simp] theorem State.setCore_free (s : State) (c : Nat) (k : Core) : (s.setCore c k).free = s.free := rfl
@[simp] theorem State.setCore_serial (s : State) (c : Nat) (k : Core) : (s.setCore c k).serial = s.serial := rfl
@[simp] theorem State.setCore_curCore (s : State) (c : Nat) (k : Core) : (s.setCore c k).curCore = s.curCore := rfl
@[simp] theorem State.setCore_curSlot (s : State) (c : Nat) (k : Core) : (s.setCore c k).curSlot = s.curSlot := rfl
@[simp] theorem State.setCore_ev (s : State) (c : Nat) (k : Core) : (s.setCore c k).ev = s.ev := rfl
@[simp] theorem State.setCore_powered (s : State) (c : Nat) (k : Core) : (s.setCore c k).powered = s.powered := rfl
@[simp] theorem State.setCore_coves (s : State) (c : Nat) (k : Core) : (s.setCore c k).coves = s.coves := rfl
@[simp] theorem State.setCore_ctxs (s : State) (c : Nat) (k : Core) : (s.setCore c k).ctxs = s.ctxs := rfl
@[simp] theorem State.setCore_pages (s : State) (c : Nat) (k : Core) : (s.setCore c k).pages = s.pages := rfl
@[simp] theorem State.setCore_net (s : State) (c : Nat) (k : Core) : (s.setCore c k).net = s.net := rfl
@[simp] theorem State.setCore_armed (s : State) (c : Nat) (k : Core) : (s.setCore c k).armed = s.armed := rfl
@[simp] theorem State.setCore_barriers (s : State) (c : Nat) (k : Core) : (s.setCore c k).barriers = s.barriers := rfl
@[simp] theorem State.setCore_taskWaits (s : State) (c : Nat) (k : Core) : (s.setCore c k).taskWaits = s.taskWaits := rfl
@[simp] theorem State.setCore_olds (s : State) (c : Nat) (k : Core) : (s.setCore c k).olds = s.olds := rfl
@[simp] theorem State.setCore_phys (s : State) (c : Nat) (k : Core) : (s.setCore c k).phys = s.phys := rfl
@[simp] theorem State.setCore_errors (s : State) (c : Nat) (k : Core) : (s.setCore c k).errors = s.errors := rfl
@[simp] theorem State.setCore_localErrors (s : State) (c : Nat) (k : Core) : (s.setCore c k).localErrors = s.localErrors := rfl
@[simp] theorem State.setCore_owned (s : State) (c : Nat) (k : Core) : (s.setCore c k).owned = s.owned := rfl
@[simp] theorem State.setCore_hostCopies (s : State) (c : Nat) (k : Core) : (s.setCore c k).hostCopies = s.hostCopies := rfl
@[simp] theorem State.setCore_hdmNear (s : State) (c : Nat) (k : Core) : (s.setCore c k).hdmNear = s.hdmNear := rfl
@[simp] theorem State.setCore_hdmFar (s : State) (c : Nat) (k : Core) : (s.setCore c k).hdmFar = s.hdmFar := rfl
@[simp] theorem State.setCore_peers (s : State) (c : Nat) (k : Core) : (s.setCore c k).peers = s.peers := rfl
@[simp] theorem State.setCore_bar2 (s : State) (c : Nat) (k : Core) : (s.setCore c k).bar2 = s.bar2 := rfl
@[simp] theorem State.setCore_ptfmt (s : State) (c : Nat) (k : Core) : (s.setCore c k).ptfmt = s.ptfmt := rfl
@[simp] theorem State.setCore_fu (s : State) (c : Nat) (k : Core) : (s.setCore c k).fu = s.fu := rfl
@[simp] theorem State.setCore_inv (s : State) (c : Nat) (k : Core) : (s.setCore c k).inv = s.inv := rfl
@[simp] theorem State.setCore_crt (s : State) (c : Nat) (k : Core) : (s.setCore c k).crt = s.crt := rfl
@[simp] theorem State.setCore_ebudSel (s : State) (c : Nat) (k : Core) : (s.setCore c k).ebudSel = s.ebudSel := rfl
@[simp] theorem State.setCore_head (s : State) (c : Nat) (k : Core) : (s.setCore c k).head = s.head := rfl
@[simp] theorem State.setCore_mbox (s : State) (c : Nat) (k : Core) : (s.setCore c k).mbox = s.mbox := rfl
@[simp] theorem State.setCore_msix (s : State) (c : Nat) (k : Core) : (s.setCore c k).msix = s.msix := rfl

/-! ## setCove -/

@[simp] theorem State.setCove_agenda (s : State) (v : Nat) (k : Cove) : (s.setCove v k).agenda = s.agenda := rfl
@[simp] theorem State.setCove_tick (s : State) (v : Nat) (k : Cove) : (s.setCove v k).tick = s.tick := rfl
@[simp] theorem State.setCove_free (s : State) (v : Nat) (k : Cove) : (s.setCove v k).free = s.free := rfl
@[simp] theorem State.setCove_serial (s : State) (v : Nat) (k : Cove) : (s.setCove v k).serial = s.serial := rfl
@[simp] theorem State.setCove_curCore (s : State) (v : Nat) (k : Cove) : (s.setCove v k).curCore = s.curCore := rfl
@[simp] theorem State.setCove_curSlot (s : State) (v : Nat) (k : Cove) : (s.setCove v k).curSlot = s.curSlot := rfl
@[simp] theorem State.setCove_ev (s : State) (v : Nat) (k : Cove) : (s.setCove v k).ev = s.ev := rfl
@[simp] theorem State.setCove_powered (s : State) (v : Nat) (k : Cove) : (s.setCove v k).powered = s.powered := rfl
@[simp] theorem State.setCove_cores (s : State) (v : Nat) (k : Cove) : (s.setCove v k).cores = s.cores := rfl
@[simp] theorem State.setCove_ctxs (s : State) (v : Nat) (k : Cove) : (s.setCove v k).ctxs = s.ctxs := rfl
@[simp] theorem State.setCove_pages (s : State) (v : Nat) (k : Cove) : (s.setCove v k).pages = s.pages := rfl
@[simp] theorem State.setCove_net (s : State) (v : Nat) (k : Cove) : (s.setCove v k).net = s.net := rfl
@[simp] theorem State.setCove_armed (s : State) (v : Nat) (k : Cove) : (s.setCove v k).armed = s.armed := rfl
@[simp] theorem State.setCove_barriers (s : State) (v : Nat) (k : Cove) : (s.setCove v k).barriers = s.barriers := rfl
@[simp] theorem State.setCove_taskWaits (s : State) (v : Nat) (k : Cove) : (s.setCove v k).taskWaits = s.taskWaits := rfl
@[simp] theorem State.setCove_olds (s : State) (v : Nat) (k : Cove) : (s.setCove v k).olds = s.olds := rfl
@[simp] theorem State.setCove_phys (s : State) (v : Nat) (k : Cove) : (s.setCove v k).phys = s.phys := rfl
@[simp] theorem State.setCove_errors (s : State) (v : Nat) (k : Cove) : (s.setCove v k).errors = s.errors := rfl
@[simp] theorem State.setCove_localErrors (s : State) (v : Nat) (k : Cove) : (s.setCove v k).localErrors = s.localErrors := rfl
@[simp] theorem State.setCove_owned (s : State) (v : Nat) (k : Cove) : (s.setCove v k).owned = s.owned := rfl
@[simp] theorem State.setCove_hostCopies (s : State) (v : Nat) (k : Cove) : (s.setCove v k).hostCopies = s.hostCopies := rfl
@[simp] theorem State.setCove_hdmNear (s : State) (v : Nat) (k : Cove) : (s.setCove v k).hdmNear = s.hdmNear := rfl
@[simp] theorem State.setCove_hdmFar (s : State) (v : Nat) (k : Cove) : (s.setCove v k).hdmFar = s.hdmFar := rfl
@[simp] theorem State.setCove_peers (s : State) (v : Nat) (k : Cove) : (s.setCove v k).peers = s.peers := rfl
@[simp] theorem State.setCove_bar2 (s : State) (v : Nat) (k : Cove) : (s.setCove v k).bar2 = s.bar2 := rfl
@[simp] theorem State.setCove_ptfmt (s : State) (v : Nat) (k : Cove) : (s.setCove v k).ptfmt = s.ptfmt := rfl
@[simp] theorem State.setCove_fu (s : State) (v : Nat) (k : Cove) : (s.setCove v k).fu = s.fu := rfl
@[simp] theorem State.setCove_inv (s : State) (v : Nat) (k : Cove) : (s.setCove v k).inv = s.inv := rfl
@[simp] theorem State.setCove_crt (s : State) (v : Nat) (k : Cove) : (s.setCove v k).crt = s.crt := rfl
@[simp] theorem State.setCove_ebudSel (s : State) (v : Nat) (k : Cove) : (s.setCove v k).ebudSel = s.ebudSel := rfl
@[simp] theorem State.setCove_head (s : State) (v : Nat) (k : Cove) : (s.setCove v k).head = s.head := rfl
@[simp] theorem State.setCove_mbox (s : State) (v : Nat) (k : Cove) : (s.setCove v k).mbox = s.mbox := rfl
@[simp] theorem State.setCove_msix (s : State) (v : Nat) (k : Cove) : (s.setCove v k).msix = s.msix := rfl

/-! ## setCtx -/

@[simp] theorem State.setCtx_agenda (s : State) (x : Nat) (k : Ctx) : (s.setCtx x k).agenda = s.agenda := rfl
@[simp] theorem State.setCtx_tick (s : State) (x : Nat) (k : Ctx) : (s.setCtx x k).tick = s.tick := rfl
@[simp] theorem State.setCtx_free (s : State) (x : Nat) (k : Ctx) : (s.setCtx x k).free = s.free := rfl
@[simp] theorem State.setCtx_serial (s : State) (x : Nat) (k : Ctx) : (s.setCtx x k).serial = s.serial := rfl
@[simp] theorem State.setCtx_curCore (s : State) (x : Nat) (k : Ctx) : (s.setCtx x k).curCore = s.curCore := rfl
@[simp] theorem State.setCtx_curSlot (s : State) (x : Nat) (k : Ctx) : (s.setCtx x k).curSlot = s.curSlot := rfl
@[simp] theorem State.setCtx_ev (s : State) (x : Nat) (k : Ctx) : (s.setCtx x k).ev = s.ev := rfl
@[simp] theorem State.setCtx_powered (s : State) (x : Nat) (k : Ctx) : (s.setCtx x k).powered = s.powered := rfl
@[simp] theorem State.setCtx_cores (s : State) (x : Nat) (k : Ctx) : (s.setCtx x k).cores = s.cores := rfl
@[simp] theorem State.setCtx_coves (s : State) (x : Nat) (k : Ctx) : (s.setCtx x k).coves = s.coves := rfl
@[simp] theorem State.setCtx_pages (s : State) (x : Nat) (k : Ctx) : (s.setCtx x k).pages = s.pages := rfl
@[simp] theorem State.setCtx_net (s : State) (x : Nat) (k : Ctx) : (s.setCtx x k).net = s.net := rfl
@[simp] theorem State.setCtx_armed (s : State) (x : Nat) (k : Ctx) : (s.setCtx x k).armed = s.armed := rfl
@[simp] theorem State.setCtx_barriers (s : State) (x : Nat) (k : Ctx) : (s.setCtx x k).barriers = s.barriers := rfl
@[simp] theorem State.setCtx_taskWaits (s : State) (x : Nat) (k : Ctx) : (s.setCtx x k).taskWaits = s.taskWaits := rfl
@[simp] theorem State.setCtx_olds (s : State) (x : Nat) (k : Ctx) : (s.setCtx x k).olds = s.olds := rfl
@[simp] theorem State.setCtx_phys (s : State) (x : Nat) (k : Ctx) : (s.setCtx x k).phys = s.phys := rfl
@[simp] theorem State.setCtx_errors (s : State) (x : Nat) (k : Ctx) : (s.setCtx x k).errors = s.errors := rfl
@[simp] theorem State.setCtx_localErrors (s : State) (x : Nat) (k : Ctx) : (s.setCtx x k).localErrors = s.localErrors := rfl
@[simp] theorem State.setCtx_owned (s : State) (x : Nat) (k : Ctx) : (s.setCtx x k).owned = s.owned := rfl
@[simp] theorem State.setCtx_hostCopies (s : State) (x : Nat) (k : Ctx) : (s.setCtx x k).hostCopies = s.hostCopies := rfl
@[simp] theorem State.setCtx_hdmNear (s : State) (x : Nat) (k : Ctx) : (s.setCtx x k).hdmNear = s.hdmNear := rfl
@[simp] theorem State.setCtx_hdmFar (s : State) (x : Nat) (k : Ctx) : (s.setCtx x k).hdmFar = s.hdmFar := rfl
@[simp] theorem State.setCtx_peers (s : State) (x : Nat) (k : Ctx) : (s.setCtx x k).peers = s.peers := rfl
@[simp] theorem State.setCtx_bar2 (s : State) (x : Nat) (k : Ctx) : (s.setCtx x k).bar2 = s.bar2 := rfl
@[simp] theorem State.setCtx_ptfmt (s : State) (x : Nat) (k : Ctx) : (s.setCtx x k).ptfmt = s.ptfmt := rfl
@[simp] theorem State.setCtx_fu (s : State) (x : Nat) (k : Ctx) : (s.setCtx x k).fu = s.fu := rfl
@[simp] theorem State.setCtx_inv (s : State) (x : Nat) (k : Ctx) : (s.setCtx x k).inv = s.inv := rfl
@[simp] theorem State.setCtx_crt (s : State) (x : Nat) (k : Ctx) : (s.setCtx x k).crt = s.crt := rfl
@[simp] theorem State.setCtx_ebudSel (s : State) (x : Nat) (k : Ctx) : (s.setCtx x k).ebudSel = s.ebudSel := rfl
@[simp] theorem State.setCtx_head (s : State) (x : Nat) (k : Ctx) : (s.setCtx x k).head = s.head := rfl
@[simp] theorem State.setCtx_mbox (s : State) (x : Nat) (k : Ctx) : (s.setCtx x k).mbox = s.mbox := rfl
@[simp] theorem State.setCtx_msix (s : State) (x : Nat) (k : Ctx) : (s.setCtx x k).msix = s.msix := rfl

/-! ## setHere -/

@[simp] theorem State.setHere_agenda (s : State) (k : Core) : (s.setHere k).agenda = s.agenda := rfl
@[simp] theorem State.setHere_tick (s : State) (k : Core) : (s.setHere k).tick = s.tick := rfl
@[simp] theorem State.setHere_free (s : State) (k : Core) : (s.setHere k).free = s.free := rfl
@[simp] theorem State.setHere_serial (s : State) (k : Core) : (s.setHere k).serial = s.serial := rfl
@[simp] theorem State.setHere_curCore (s : State) (k : Core) : (s.setHere k).curCore = s.curCore := rfl
@[simp] theorem State.setHere_curSlot (s : State) (k : Core) : (s.setHere k).curSlot = s.curSlot := rfl
@[simp] theorem State.setHere_ev (s : State) (k : Core) : (s.setHere k).ev = s.ev := rfl
@[simp] theorem State.setHere_powered (s : State) (k : Core) : (s.setHere k).powered = s.powered := rfl
@[simp] theorem State.setHere_coves (s : State) (k : Core) : (s.setHere k).coves = s.coves := rfl
@[simp] theorem State.setHere_ctxs (s : State) (k : Core) : (s.setHere k).ctxs = s.ctxs := rfl
@[simp] theorem State.setHere_pages (s : State) (k : Core) : (s.setHere k).pages = s.pages := rfl
@[simp] theorem State.setHere_net (s : State) (k : Core) : (s.setHere k).net = s.net := rfl
@[simp] theorem State.setHere_armed (s : State) (k : Core) : (s.setHere k).armed = s.armed := rfl
@[simp] theorem State.setHere_barriers (s : State) (k : Core) : (s.setHere k).barriers = s.barriers := rfl
@[simp] theorem State.setHere_taskWaits (s : State) (k : Core) : (s.setHere k).taskWaits = s.taskWaits := rfl
@[simp] theorem State.setHere_olds (s : State) (k : Core) : (s.setHere k).olds = s.olds := rfl
@[simp] theorem State.setHere_phys (s : State) (k : Core) : (s.setHere k).phys = s.phys := rfl
@[simp] theorem State.setHere_errors (s : State) (k : Core) : (s.setHere k).errors = s.errors := rfl
@[simp] theorem State.setHere_localErrors (s : State) (k : Core) : (s.setHere k).localErrors = s.localErrors := rfl
@[simp] theorem State.setHere_owned (s : State) (k : Core) : (s.setHere k).owned = s.owned := rfl
@[simp] theorem State.setHere_hostCopies (s : State) (k : Core) : (s.setHere k).hostCopies = s.hostCopies := rfl
@[simp] theorem State.setHere_hdmNear (s : State) (k : Core) : (s.setHere k).hdmNear = s.hdmNear := rfl
@[simp] theorem State.setHere_hdmFar (s : State) (k : Core) : (s.setHere k).hdmFar = s.hdmFar := rfl
@[simp] theorem State.setHere_peers (s : State) (k : Core) : (s.setHere k).peers = s.peers := rfl
@[simp] theorem State.setHere_bar2 (s : State) (k : Core) : (s.setHere k).bar2 = s.bar2 := rfl
@[simp] theorem State.setHere_ptfmt (s : State) (k : Core) : (s.setHere k).ptfmt = s.ptfmt := rfl
@[simp] theorem State.setHere_fu (s : State) (k : Core) : (s.setHere k).fu = s.fu := rfl
@[simp] theorem State.setHere_inv (s : State) (k : Core) : (s.setHere k).inv = s.inv := rfl
@[simp] theorem State.setHere_crt (s : State) (k : Core) : (s.setHere k).crt = s.crt := rfl
@[simp] theorem State.setHere_ebudSel (s : State) (k : Core) : (s.setHere k).ebudSel = s.ebudSel := rfl
@[simp] theorem State.setHere_head (s : State) (k : Core) : (s.setHere k).head = s.head := rfl
@[simp] theorem State.setHere_mbox (s : State) (k : Core) : (s.setHere k).mbox = s.mbox := rfl
@[simp] theorem State.setHere_msix (s : State) (k : Core) : (s.setHere k).msix = s.msix := rfl

/-! ## setSlot -/

@[simp] theorem State.setSlot_agenda (s : State) (c i : Nat) (v : Slot) : (s.setSlot c i v).agenda = s.agenda := rfl
@[simp] theorem State.setSlot_tick (s : State) (c i : Nat) (v : Slot) : (s.setSlot c i v).tick = s.tick := rfl
@[simp] theorem State.setSlot_free (s : State) (c i : Nat) (v : Slot) : (s.setSlot c i v).free = s.free := rfl
@[simp] theorem State.setSlot_serial (s : State) (c i : Nat) (v : Slot) : (s.setSlot c i v).serial = s.serial := rfl
@[simp] theorem State.setSlot_curCore (s : State) (c i : Nat) (v : Slot) : (s.setSlot c i v).curCore = s.curCore := rfl
@[simp] theorem State.setSlot_curSlot (s : State) (c i : Nat) (v : Slot) : (s.setSlot c i v).curSlot = s.curSlot := rfl
@[simp] theorem State.setSlot_ev (s : State) (c i : Nat) (v : Slot) : (s.setSlot c i v).ev = s.ev := rfl
@[simp] theorem State.setSlot_powered (s : State) (c i : Nat) (v : Slot) : (s.setSlot c i v).powered = s.powered := rfl
@[simp] theorem State.setSlot_coves (s : State) (c i : Nat) (v : Slot) : (s.setSlot c i v).coves = s.coves := rfl
@[simp] theorem State.setSlot_ctxs (s : State) (c i : Nat) (v : Slot) : (s.setSlot c i v).ctxs = s.ctxs := rfl
@[simp] theorem State.setSlot_pages (s : State) (c i : Nat) (v : Slot) : (s.setSlot c i v).pages = s.pages := rfl
@[simp] theorem State.setSlot_net (s : State) (c i : Nat) (v : Slot) : (s.setSlot c i v).net = s.net := rfl
@[simp] theorem State.setSlot_armed (s : State) (c i : Nat) (v : Slot) : (s.setSlot c i v).armed = s.armed := rfl
@[simp] theorem State.setSlot_barriers (s : State) (c i : Nat) (v : Slot) : (s.setSlot c i v).barriers = s.barriers := rfl
@[simp] theorem State.setSlot_taskWaits (s : State) (c i : Nat) (v : Slot) : (s.setSlot c i v).taskWaits = s.taskWaits := rfl
@[simp] theorem State.setSlot_olds (s : State) (c i : Nat) (v : Slot) : (s.setSlot c i v).olds = s.olds := rfl
@[simp] theorem State.setSlot_phys (s : State) (c i : Nat) (v : Slot) : (s.setSlot c i v).phys = s.phys := rfl
@[simp] theorem State.setSlot_errors (s : State) (c i : Nat) (v : Slot) : (s.setSlot c i v).errors = s.errors := rfl
@[simp] theorem State.setSlot_localErrors (s : State) (c i : Nat) (v : Slot) : (s.setSlot c i v).localErrors = s.localErrors := rfl
@[simp] theorem State.setSlot_owned (s : State) (c i : Nat) (v : Slot) : (s.setSlot c i v).owned = s.owned := rfl
@[simp] theorem State.setSlot_hostCopies (s : State) (c i : Nat) (v : Slot) : (s.setSlot c i v).hostCopies = s.hostCopies := rfl
@[simp] theorem State.setSlot_hdmNear (s : State) (c i : Nat) (v : Slot) : (s.setSlot c i v).hdmNear = s.hdmNear := rfl
@[simp] theorem State.setSlot_hdmFar (s : State) (c i : Nat) (v : Slot) : (s.setSlot c i v).hdmFar = s.hdmFar := rfl
@[simp] theorem State.setSlot_peers (s : State) (c i : Nat) (v : Slot) : (s.setSlot c i v).peers = s.peers := rfl
@[simp] theorem State.setSlot_bar2 (s : State) (c i : Nat) (v : Slot) : (s.setSlot c i v).bar2 = s.bar2 := rfl
@[simp] theorem State.setSlot_ptfmt (s : State) (c i : Nat) (v : Slot) : (s.setSlot c i v).ptfmt = s.ptfmt := rfl
@[simp] theorem State.setSlot_fu (s : State) (c i : Nat) (v : Slot) : (s.setSlot c i v).fu = s.fu := rfl
@[simp] theorem State.setSlot_inv (s : State) (c i : Nat) (v : Slot) : (s.setSlot c i v).inv = s.inv := rfl
@[simp] theorem State.setSlot_crt (s : State) (c i : Nat) (v : Slot) : (s.setSlot c i v).crt = s.crt := rfl
@[simp] theorem State.setSlot_ebudSel (s : State) (c i : Nat) (v : Slot) : (s.setSlot c i v).ebudSel = s.ebudSel := rfl
@[simp] theorem State.setSlot_head (s : State) (c i : Nat) (v : Slot) : (s.setSlot c i v).head = s.head := rfl
@[simp] theorem State.setSlot_mbox (s : State) (c i : Nat) (v : Slot) : (s.setSlot c i v).mbox = s.mbox := rfl
@[simp] theorem State.setSlot_msix (s : State) (c i : Nat) (v : Slot) : (s.setSlot c i v).msix = s.msix := rfl

/-! ## setThread -/

@[simp] theorem State.setThread_agenda (s : State) (c i : Nat) (t : Thread) : (s.setThread c i t).agenda = s.agenda := rfl
@[simp] theorem State.setThread_tick (s : State) (c i : Nat) (t : Thread) : (s.setThread c i t).tick = s.tick := rfl
@[simp] theorem State.setThread_free (s : State) (c i : Nat) (t : Thread) : (s.setThread c i t).free = s.free := rfl
@[simp] theorem State.setThread_serial (s : State) (c i : Nat) (t : Thread) : (s.setThread c i t).serial = s.serial := rfl
@[simp] theorem State.setThread_curCore (s : State) (c i : Nat) (t : Thread) : (s.setThread c i t).curCore = s.curCore := rfl
@[simp] theorem State.setThread_curSlot (s : State) (c i : Nat) (t : Thread) : (s.setThread c i t).curSlot = s.curSlot := rfl
@[simp] theorem State.setThread_ev (s : State) (c i : Nat) (t : Thread) : (s.setThread c i t).ev = s.ev := rfl
@[simp] theorem State.setThread_powered (s : State) (c i : Nat) (t : Thread) : (s.setThread c i t).powered = s.powered := rfl
@[simp] theorem State.setThread_coves (s : State) (c i : Nat) (t : Thread) : (s.setThread c i t).coves = s.coves := rfl
@[simp] theorem State.setThread_ctxs (s : State) (c i : Nat) (t : Thread) : (s.setThread c i t).ctxs = s.ctxs := rfl
@[simp] theorem State.setThread_pages (s : State) (c i : Nat) (t : Thread) : (s.setThread c i t).pages = s.pages := rfl
@[simp] theorem State.setThread_net (s : State) (c i : Nat) (t : Thread) : (s.setThread c i t).net = s.net := rfl
@[simp] theorem State.setThread_armed (s : State) (c i : Nat) (t : Thread) : (s.setThread c i t).armed = s.armed := rfl
@[simp] theorem State.setThread_barriers (s : State) (c i : Nat) (t : Thread) : (s.setThread c i t).barriers = s.barriers := rfl
@[simp] theorem State.setThread_taskWaits (s : State) (c i : Nat) (t : Thread) : (s.setThread c i t).taskWaits = s.taskWaits := rfl
@[simp] theorem State.setThread_olds (s : State) (c i : Nat) (t : Thread) : (s.setThread c i t).olds = s.olds := rfl
@[simp] theorem State.setThread_phys (s : State) (c i : Nat) (t : Thread) : (s.setThread c i t).phys = s.phys := rfl
@[simp] theorem State.setThread_errors (s : State) (c i : Nat) (t : Thread) : (s.setThread c i t).errors = s.errors := rfl
@[simp] theorem State.setThread_localErrors (s : State) (c i : Nat) (t : Thread) : (s.setThread c i t).localErrors = s.localErrors := rfl
@[simp] theorem State.setThread_owned (s : State) (c i : Nat) (t : Thread) : (s.setThread c i t).owned = s.owned := rfl
@[simp] theorem State.setThread_hostCopies (s : State) (c i : Nat) (t : Thread) : (s.setThread c i t).hostCopies = s.hostCopies := rfl
@[simp] theorem State.setThread_hdmNear (s : State) (c i : Nat) (t : Thread) : (s.setThread c i t).hdmNear = s.hdmNear := rfl
@[simp] theorem State.setThread_hdmFar (s : State) (c i : Nat) (t : Thread) : (s.setThread c i t).hdmFar = s.hdmFar := rfl
@[simp] theorem State.setThread_peers (s : State) (c i : Nat) (t : Thread) : (s.setThread c i t).peers = s.peers := rfl
@[simp] theorem State.setThread_bar2 (s : State) (c i : Nat) (t : Thread) : (s.setThread c i t).bar2 = s.bar2 := rfl
@[simp] theorem State.setThread_ptfmt (s : State) (c i : Nat) (t : Thread) : (s.setThread c i t).ptfmt = s.ptfmt := rfl
@[simp] theorem State.setThread_fu (s : State) (c i : Nat) (t : Thread) : (s.setThread c i t).fu = s.fu := rfl
@[simp] theorem State.setThread_inv (s : State) (c i : Nat) (t : Thread) : (s.setThread c i t).inv = s.inv := rfl
@[simp] theorem State.setThread_crt (s : State) (c i : Nat) (t : Thread) : (s.setThread c i t).crt = s.crt := rfl
@[simp] theorem State.setThread_ebudSel (s : State) (c i : Nat) (t : Thread) : (s.setThread c i t).ebudSel = s.ebudSel := rfl
@[simp] theorem State.setThread_head (s : State) (c i : Nat) (t : Thread) : (s.setThread c i t).head = s.head := rfl
@[simp] theorem State.setThread_mbox (s : State) (c i : Nat) (t : Thread) : (s.setThread c i t).mbox = s.mbox := rfl
@[simp] theorem State.setThread_msix (s : State) (c i : Nat) (t : Thread) : (s.setThread c i t).msix = s.msix := rfl

/-! ## setCur -/

@[simp] theorem State.setCur_agenda (s : State) (t : Thread) : (s.setCur t).agenda = s.agenda := rfl
@[simp] theorem State.setCur_tick (s : State) (t : Thread) : (s.setCur t).tick = s.tick := rfl
@[simp] theorem State.setCur_free (s : State) (t : Thread) : (s.setCur t).free = s.free := rfl
@[simp] theorem State.setCur_serial (s : State) (t : Thread) : (s.setCur t).serial = s.serial := rfl
@[simp] theorem State.setCur_curCore (s : State) (t : Thread) : (s.setCur t).curCore = s.curCore := rfl
@[simp] theorem State.setCur_curSlot (s : State) (t : Thread) : (s.setCur t).curSlot = s.curSlot := rfl
@[simp] theorem State.setCur_ev (s : State) (t : Thread) : (s.setCur t).ev = s.ev := rfl
@[simp] theorem State.setCur_powered (s : State) (t : Thread) : (s.setCur t).powered = s.powered := rfl
@[simp] theorem State.setCur_coves (s : State) (t : Thread) : (s.setCur t).coves = s.coves := rfl
@[simp] theorem State.setCur_ctxs (s : State) (t : Thread) : (s.setCur t).ctxs = s.ctxs := rfl
@[simp] theorem State.setCur_pages (s : State) (t : Thread) : (s.setCur t).pages = s.pages := rfl
@[simp] theorem State.setCur_net (s : State) (t : Thread) : (s.setCur t).net = s.net := rfl
@[simp] theorem State.setCur_armed (s : State) (t : Thread) : (s.setCur t).armed = s.armed := rfl
@[simp] theorem State.setCur_barriers (s : State) (t : Thread) : (s.setCur t).barriers = s.barriers := rfl
@[simp] theorem State.setCur_taskWaits (s : State) (t : Thread) : (s.setCur t).taskWaits = s.taskWaits := rfl
@[simp] theorem State.setCur_olds (s : State) (t : Thread) : (s.setCur t).olds = s.olds := rfl
@[simp] theorem State.setCur_phys (s : State) (t : Thread) : (s.setCur t).phys = s.phys := rfl
@[simp] theorem State.setCur_errors (s : State) (t : Thread) : (s.setCur t).errors = s.errors := rfl
@[simp] theorem State.setCur_localErrors (s : State) (t : Thread) : (s.setCur t).localErrors = s.localErrors := rfl
@[simp] theorem State.setCur_owned (s : State) (t : Thread) : (s.setCur t).owned = s.owned := rfl
@[simp] theorem State.setCur_hostCopies (s : State) (t : Thread) : (s.setCur t).hostCopies = s.hostCopies := rfl
@[simp] theorem State.setCur_hdmNear (s : State) (t : Thread) : (s.setCur t).hdmNear = s.hdmNear := rfl
@[simp] theorem State.setCur_hdmFar (s : State) (t : Thread) : (s.setCur t).hdmFar = s.hdmFar := rfl
@[simp] theorem State.setCur_peers (s : State) (t : Thread) : (s.setCur t).peers = s.peers := rfl
@[simp] theorem State.setCur_bar2 (s : State) (t : Thread) : (s.setCur t).bar2 = s.bar2 := rfl
@[simp] theorem State.setCur_ptfmt (s : State) (t : Thread) : (s.setCur t).ptfmt = s.ptfmt := rfl
@[simp] theorem State.setCur_fu (s : State) (t : Thread) : (s.setCur t).fu = s.fu := rfl
@[simp] theorem State.setCur_inv (s : State) (t : Thread) : (s.setCur t).inv = s.inv := rfl
@[simp] theorem State.setCur_crt (s : State) (t : Thread) : (s.setCur t).crt = s.crt := rfl
@[simp] theorem State.setCur_ebudSel (s : State) (t : Thread) : (s.setCur t).ebudSel = s.ebudSel := rfl
@[simp] theorem State.setCur_head (s : State) (t : Thread) : (s.setCur t).head = s.head := rfl
@[simp] theorem State.setCur_mbox (s : State) (t : Thread) : (s.setCur t).mbox = s.mbox := rfl
@[simp] theorem State.setCur_msix (s : State) (t : Thread) : (s.setCur t).msix = s.msix := rfl

/-! ## send -/

@[simp] theorem State.send_agenda (s : State) (p : Packet) : (s.send p).agenda = s.agenda := rfl
@[simp] theorem State.send_tick (s : State) (p : Packet) : (s.send p).tick = s.tick := rfl
@[simp] theorem State.send_free (s : State) (p : Packet) : (s.send p).free = s.free := rfl
@[simp] theorem State.send_curCore (s : State) (p : Packet) : (s.send p).curCore = s.curCore := rfl
@[simp] theorem State.send_curSlot (s : State) (p : Packet) : (s.send p).curSlot = s.curSlot := rfl
@[simp] theorem State.send_ev (s : State) (p : Packet) : (s.send p).ev = s.ev := rfl
@[simp] theorem State.send_powered (s : State) (p : Packet) : (s.send p).powered = s.powered := rfl
@[simp] theorem State.send_cores (s : State) (p : Packet) : (s.send p).cores = s.cores := rfl
@[simp] theorem State.send_coves (s : State) (p : Packet) : (s.send p).coves = s.coves := rfl
@[simp] theorem State.send_ctxs (s : State) (p : Packet) : (s.send p).ctxs = s.ctxs := rfl
@[simp] theorem State.send_pages (s : State) (p : Packet) : (s.send p).pages = s.pages := rfl
@[simp] theorem State.send_armed (s : State) (p : Packet) : (s.send p).armed = s.armed := rfl
@[simp] theorem State.send_barriers (s : State) (p : Packet) : (s.send p).barriers = s.barriers := rfl
@[simp] theorem State.send_taskWaits (s : State) (p : Packet) : (s.send p).taskWaits = s.taskWaits := rfl
@[simp] theorem State.send_olds (s : State) (p : Packet) : (s.send p).olds = s.olds := rfl
@[simp] theorem State.send_phys (s : State) (p : Packet) : (s.send p).phys = s.phys := rfl
@[simp] theorem State.send_errors (s : State) (p : Packet) : (s.send p).errors = s.errors := rfl
@[simp] theorem State.send_localErrors (s : State) (p : Packet) : (s.send p).localErrors = s.localErrors := rfl
@[simp] theorem State.send_owned (s : State) (p : Packet) : (s.send p).owned = s.owned := rfl
@[simp] theorem State.send_hostCopies (s : State) (p : Packet) : (s.send p).hostCopies = s.hostCopies := rfl
@[simp] theorem State.send_hdmNear (s : State) (p : Packet) : (s.send p).hdmNear = s.hdmNear := rfl
@[simp] theorem State.send_hdmFar (s : State) (p : Packet) : (s.send p).hdmFar = s.hdmFar := rfl
@[simp] theorem State.send_peers (s : State) (p : Packet) : (s.send p).peers = s.peers := rfl
@[simp] theorem State.send_bar2 (s : State) (p : Packet) : (s.send p).bar2 = s.bar2 := rfl
@[simp] theorem State.send_ptfmt (s : State) (p : Packet) : (s.send p).ptfmt = s.ptfmt := rfl
@[simp] theorem State.send_fu (s : State) (p : Packet) : (s.send p).fu = s.fu := rfl
@[simp] theorem State.send_inv (s : State) (p : Packet) : (s.send p).inv = s.inv := rfl
@[simp] theorem State.send_crt (s : State) (p : Packet) : (s.send p).crt = s.crt := rfl
@[simp] theorem State.send_ebudSel (s : State) (p : Packet) : (s.send p).ebudSel = s.ebudSel := rfl
@[simp] theorem State.send_head (s : State) (p : Packet) : (s.send p).head = s.head := rfl
@[simp] theorem State.send_mbox (s : State) (p : Packet) : (s.send p).mbox = s.mbox := rfl
@[simp] theorem State.send_msix (s : State) (p : Packet) : (s.send p).msix = s.msix := rfl

/-! ## sendCur -/

@[simp] theorem State.sendCur_agenda (s : State) (t : Thread) (k : Kind) (b : Bool) (l : List Nat) : (s.sendCur t k b l).agenda = s.agenda := rfl
@[simp] theorem State.sendCur_tick (s : State) (t : Thread) (k : Kind) (b : Bool) (l : List Nat) : (s.sendCur t k b l).tick = s.tick := rfl
@[simp] theorem State.sendCur_free (s : State) (t : Thread) (k : Kind) (b : Bool) (l : List Nat) : (s.sendCur t k b l).free = s.free := rfl
@[simp] theorem State.sendCur_curCore (s : State) (t : Thread) (k : Kind) (b : Bool) (l : List Nat) : (s.sendCur t k b l).curCore = s.curCore := rfl
@[simp] theorem State.sendCur_curSlot (s : State) (t : Thread) (k : Kind) (b : Bool) (l : List Nat) : (s.sendCur t k b l).curSlot = s.curSlot := rfl
@[simp] theorem State.sendCur_ev (s : State) (t : Thread) (k : Kind) (b : Bool) (l : List Nat) : (s.sendCur t k b l).ev = s.ev := rfl
@[simp] theorem State.sendCur_powered (s : State) (t : Thread) (k : Kind) (b : Bool) (l : List Nat) : (s.sendCur t k b l).powered = s.powered := rfl
@[simp] theorem State.sendCur_cores (s : State) (t : Thread) (k : Kind) (b : Bool) (l : List Nat) : (s.sendCur t k b l).cores = s.cores := rfl
@[simp] theorem State.sendCur_coves (s : State) (t : Thread) (k : Kind) (b : Bool) (l : List Nat) : (s.sendCur t k b l).coves = s.coves := rfl
@[simp] theorem State.sendCur_ctxs (s : State) (t : Thread) (k : Kind) (b : Bool) (l : List Nat) : (s.sendCur t k b l).ctxs = s.ctxs := rfl
@[simp] theorem State.sendCur_pages (s : State) (t : Thread) (k : Kind) (b : Bool) (l : List Nat) : (s.sendCur t k b l).pages = s.pages := rfl
@[simp] theorem State.sendCur_armed (s : State) (t : Thread) (k : Kind) (b : Bool) (l : List Nat) : (s.sendCur t k b l).armed = s.armed := rfl
@[simp] theorem State.sendCur_barriers (s : State) (t : Thread) (k : Kind) (b : Bool) (l : List Nat) : (s.sendCur t k b l).barriers = s.barriers := rfl
@[simp] theorem State.sendCur_taskWaits (s : State) (t : Thread) (k : Kind) (b : Bool) (l : List Nat) : (s.sendCur t k b l).taskWaits = s.taskWaits := rfl
@[simp] theorem State.sendCur_olds (s : State) (t : Thread) (k : Kind) (b : Bool) (l : List Nat) : (s.sendCur t k b l).olds = s.olds := rfl
@[simp] theorem State.sendCur_phys (s : State) (t : Thread) (k : Kind) (b : Bool) (l : List Nat) : (s.sendCur t k b l).phys = s.phys := rfl
@[simp] theorem State.sendCur_errors (s : State) (t : Thread) (k : Kind) (b : Bool) (l : List Nat) : (s.sendCur t k b l).errors = s.errors := rfl
@[simp] theorem State.sendCur_localErrors (s : State) (t : Thread) (k : Kind) (b : Bool) (l : List Nat) : (s.sendCur t k b l).localErrors = s.localErrors := rfl
@[simp] theorem State.sendCur_owned (s : State) (t : Thread) (k : Kind) (b : Bool) (l : List Nat) : (s.sendCur t k b l).owned = s.owned := rfl
@[simp] theorem State.sendCur_hostCopies (s : State) (t : Thread) (k : Kind) (b : Bool) (l : List Nat) : (s.sendCur t k b l).hostCopies = s.hostCopies := rfl
@[simp] theorem State.sendCur_hdmNear (s : State) (t : Thread) (k : Kind) (b : Bool) (l : List Nat) : (s.sendCur t k b l).hdmNear = s.hdmNear := rfl
@[simp] theorem State.sendCur_hdmFar (s : State) (t : Thread) (k : Kind) (b : Bool) (l : List Nat) : (s.sendCur t k b l).hdmFar = s.hdmFar := rfl
@[simp] theorem State.sendCur_peers (s : State) (t : Thread) (k : Kind) (b : Bool) (l : List Nat) : (s.sendCur t k b l).peers = s.peers := rfl
@[simp] theorem State.sendCur_bar2 (s : State) (t : Thread) (k : Kind) (b : Bool) (l : List Nat) : (s.sendCur t k b l).bar2 = s.bar2 := rfl
@[simp] theorem State.sendCur_ptfmt (s : State) (t : Thread) (k : Kind) (b : Bool) (l : List Nat) : (s.sendCur t k b l).ptfmt = s.ptfmt := rfl
@[simp] theorem State.sendCur_fu (s : State) (t : Thread) (k : Kind) (b : Bool) (l : List Nat) : (s.sendCur t k b l).fu = s.fu := rfl
@[simp] theorem State.sendCur_inv (s : State) (t : Thread) (k : Kind) (b : Bool) (l : List Nat) : (s.sendCur t k b l).inv = s.inv := rfl
@[simp] theorem State.sendCur_crt (s : State) (t : Thread) (k : Kind) (b : Bool) (l : List Nat) : (s.sendCur t k b l).crt = s.crt := rfl
@[simp] theorem State.sendCur_ebudSel (s : State) (t : Thread) (k : Kind) (b : Bool) (l : List Nat) : (s.sendCur t k b l).ebudSel = s.ebudSel := rfl
@[simp] theorem State.sendCur_head (s : State) (t : Thread) (k : Kind) (b : Bool) (l : List Nat) : (s.sendCur t k b l).head = s.head := rfl
@[simp] theorem State.sendCur_mbox (s : State) (t : Thread) (k : Kind) (b : Bool) (l : List Nat) : (s.sendCur t k b l).mbox = s.mbox := rfl
@[simp] theorem State.sendCur_msix (s : State) (t : Thread) (k : Kind) (b : Bool) (l : List Nat) : (s.sendCur t k b l).msix = s.msix := rfl

/-! ## dropPacket -/

@[simp] theorem State.dropPacket_agenda (s : State) (id : Nat) : (s.dropPacket id).agenda = s.agenda := rfl
@[simp] theorem State.dropPacket_tick (s : State) (id : Nat) : (s.dropPacket id).tick = s.tick := rfl
@[simp] theorem State.dropPacket_free (s : State) (id : Nat) : (s.dropPacket id).free = s.free := rfl
@[simp] theorem State.dropPacket_serial (s : State) (id : Nat) : (s.dropPacket id).serial = s.serial := rfl
@[simp] theorem State.dropPacket_curCore (s : State) (id : Nat) : (s.dropPacket id).curCore = s.curCore := rfl
@[simp] theorem State.dropPacket_curSlot (s : State) (id : Nat) : (s.dropPacket id).curSlot = s.curSlot := rfl
@[simp] theorem State.dropPacket_ev (s : State) (id : Nat) : (s.dropPacket id).ev = s.ev := rfl
@[simp] theorem State.dropPacket_powered (s : State) (id : Nat) : (s.dropPacket id).powered = s.powered := rfl
@[simp] theorem State.dropPacket_cores (s : State) (id : Nat) : (s.dropPacket id).cores = s.cores := rfl
@[simp] theorem State.dropPacket_coves (s : State) (id : Nat) : (s.dropPacket id).coves = s.coves := rfl
@[simp] theorem State.dropPacket_ctxs (s : State) (id : Nat) : (s.dropPacket id).ctxs = s.ctxs := rfl
@[simp] theorem State.dropPacket_pages (s : State) (id : Nat) : (s.dropPacket id).pages = s.pages := rfl
@[simp] theorem State.dropPacket_armed (s : State) (id : Nat) : (s.dropPacket id).armed = s.armed := rfl
@[simp] theorem State.dropPacket_barriers (s : State) (id : Nat) : (s.dropPacket id).barriers = s.barriers := rfl
@[simp] theorem State.dropPacket_taskWaits (s : State) (id : Nat) : (s.dropPacket id).taskWaits = s.taskWaits := rfl
@[simp] theorem State.dropPacket_olds (s : State) (id : Nat) : (s.dropPacket id).olds = s.olds := rfl
@[simp] theorem State.dropPacket_phys (s : State) (id : Nat) : (s.dropPacket id).phys = s.phys := rfl
@[simp] theorem State.dropPacket_errors (s : State) (id : Nat) : (s.dropPacket id).errors = s.errors := rfl
@[simp] theorem State.dropPacket_localErrors (s : State) (id : Nat) : (s.dropPacket id).localErrors = s.localErrors := rfl
@[simp] theorem State.dropPacket_owned (s : State) (id : Nat) : (s.dropPacket id).owned = s.owned := rfl
@[simp] theorem State.dropPacket_hostCopies (s : State) (id : Nat) : (s.dropPacket id).hostCopies = s.hostCopies := rfl
@[simp] theorem State.dropPacket_hdmNear (s : State) (id : Nat) : (s.dropPacket id).hdmNear = s.hdmNear := rfl
@[simp] theorem State.dropPacket_hdmFar (s : State) (id : Nat) : (s.dropPacket id).hdmFar = s.hdmFar := rfl
@[simp] theorem State.dropPacket_peers (s : State) (id : Nat) : (s.dropPacket id).peers = s.peers := rfl
@[simp] theorem State.dropPacket_bar2 (s : State) (id : Nat) : (s.dropPacket id).bar2 = s.bar2 := rfl
@[simp] theorem State.dropPacket_ptfmt (s : State) (id : Nat) : (s.dropPacket id).ptfmt = s.ptfmt := rfl
@[simp] theorem State.dropPacket_fu (s : State) (id : Nat) : (s.dropPacket id).fu = s.fu := rfl
@[simp] theorem State.dropPacket_inv (s : State) (id : Nat) : (s.dropPacket id).inv = s.inv := rfl
@[simp] theorem State.dropPacket_crt (s : State) (id : Nat) : (s.dropPacket id).crt = s.crt := rfl
@[simp] theorem State.dropPacket_ebudSel (s : State) (id : Nat) : (s.dropPacket id).ebudSel = s.ebudSel := rfl
@[simp] theorem State.dropPacket_head (s : State) (id : Nat) : (s.dropPacket id).head = s.head := rfl
@[simp] theorem State.dropPacket_mbox (s : State) (id : Nat) : (s.dropPacket id).mbox = s.mbox := rfl
@[simp] theorem State.dropPacket_msix (s : State) (id : Nat) : (s.dropPacket id).msix = s.msix := rfl

/-! ## turnPacket -/

@[simp] theorem State.turnPacket_agenda (s : State) (id : Nat) (k : Kind) : (s.turnPacket id k).agenda = s.agenda := rfl
@[simp] theorem State.turnPacket_tick (s : State) (id : Nat) (k : Kind) : (s.turnPacket id k).tick = s.tick := rfl
@[simp] theorem State.turnPacket_free (s : State) (id : Nat) (k : Kind) : (s.turnPacket id k).free = s.free := rfl
@[simp] theorem State.turnPacket_serial (s : State) (id : Nat) (k : Kind) : (s.turnPacket id k).serial = s.serial := rfl
@[simp] theorem State.turnPacket_curCore (s : State) (id : Nat) (k : Kind) : (s.turnPacket id k).curCore = s.curCore := rfl
@[simp] theorem State.turnPacket_curSlot (s : State) (id : Nat) (k : Kind) : (s.turnPacket id k).curSlot = s.curSlot := rfl
@[simp] theorem State.turnPacket_ev (s : State) (id : Nat) (k : Kind) : (s.turnPacket id k).ev = s.ev := rfl
@[simp] theorem State.turnPacket_powered (s : State) (id : Nat) (k : Kind) : (s.turnPacket id k).powered = s.powered := rfl
@[simp] theorem State.turnPacket_cores (s : State) (id : Nat) (k : Kind) : (s.turnPacket id k).cores = s.cores := rfl
@[simp] theorem State.turnPacket_coves (s : State) (id : Nat) (k : Kind) : (s.turnPacket id k).coves = s.coves := rfl
@[simp] theorem State.turnPacket_ctxs (s : State) (id : Nat) (k : Kind) : (s.turnPacket id k).ctxs = s.ctxs := rfl
@[simp] theorem State.turnPacket_pages (s : State) (id : Nat) (k : Kind) : (s.turnPacket id k).pages = s.pages := rfl
@[simp] theorem State.turnPacket_armed (s : State) (id : Nat) (k : Kind) : (s.turnPacket id k).armed = s.armed := rfl
@[simp] theorem State.turnPacket_barriers (s : State) (id : Nat) (k : Kind) : (s.turnPacket id k).barriers = s.barriers := rfl
@[simp] theorem State.turnPacket_taskWaits (s : State) (id : Nat) (k : Kind) : (s.turnPacket id k).taskWaits = s.taskWaits := rfl
@[simp] theorem State.turnPacket_olds (s : State) (id : Nat) (k : Kind) : (s.turnPacket id k).olds = s.olds := rfl
@[simp] theorem State.turnPacket_phys (s : State) (id : Nat) (k : Kind) : (s.turnPacket id k).phys = s.phys := rfl
@[simp] theorem State.turnPacket_errors (s : State) (id : Nat) (k : Kind) : (s.turnPacket id k).errors = s.errors := rfl
@[simp] theorem State.turnPacket_localErrors (s : State) (id : Nat) (k : Kind) : (s.turnPacket id k).localErrors = s.localErrors := rfl
@[simp] theorem State.turnPacket_owned (s : State) (id : Nat) (k : Kind) : (s.turnPacket id k).owned = s.owned := rfl
@[simp] theorem State.turnPacket_hostCopies (s : State) (id : Nat) (k : Kind) : (s.turnPacket id k).hostCopies = s.hostCopies := rfl
@[simp] theorem State.turnPacket_hdmNear (s : State) (id : Nat) (k : Kind) : (s.turnPacket id k).hdmNear = s.hdmNear := rfl
@[simp] theorem State.turnPacket_hdmFar (s : State) (id : Nat) (k : Kind) : (s.turnPacket id k).hdmFar = s.hdmFar := rfl
@[simp] theorem State.turnPacket_peers (s : State) (id : Nat) (k : Kind) : (s.turnPacket id k).peers = s.peers := rfl
@[simp] theorem State.turnPacket_bar2 (s : State) (id : Nat) (k : Kind) : (s.turnPacket id k).bar2 = s.bar2 := rfl
@[simp] theorem State.turnPacket_ptfmt (s : State) (id : Nat) (k : Kind) : (s.turnPacket id k).ptfmt = s.ptfmt := rfl
@[simp] theorem State.turnPacket_fu (s : State) (id : Nat) (k : Kind) : (s.turnPacket id k).fu = s.fu := rfl
@[simp] theorem State.turnPacket_inv (s : State) (id : Nat) (k : Kind) : (s.turnPacket id k).inv = s.inv := rfl
@[simp] theorem State.turnPacket_crt (s : State) (id : Nat) (k : Kind) : (s.turnPacket id k).crt = s.crt := rfl
@[simp] theorem State.turnPacket_ebudSel (s : State) (id : Nat) (k : Kind) : (s.turnPacket id k).ebudSel = s.ebudSel := rfl
@[simp] theorem State.turnPacket_head (s : State) (id : Nat) (k : Kind) : (s.turnPacket id k).head = s.head := rfl
@[simp] theorem State.turnPacket_mbox (s : State) (id : Nat) (k : Kind) : (s.turnPacket id k).mbox = s.mbox := rfl
@[simp] theorem State.turnPacket_msix (s : State) (id : Nat) (k : Kind) : (s.turnPacket id k).msix = s.msix := rfl

/-! ## healLocal -/

@[simp] theorem State.healLocal_agenda (s : State) (c : Nat) (ws : List Nat) : (s.healLocal c ws).agenda = s.agenda := rfl
@[simp] theorem State.healLocal_tick (s : State) (c : Nat) (ws : List Nat) : (s.healLocal c ws).tick = s.tick := rfl
@[simp] theorem State.healLocal_free (s : State) (c : Nat) (ws : List Nat) : (s.healLocal c ws).free = s.free := rfl
@[simp] theorem State.healLocal_serial (s : State) (c : Nat) (ws : List Nat) : (s.healLocal c ws).serial = s.serial := rfl
@[simp] theorem State.healLocal_curCore (s : State) (c : Nat) (ws : List Nat) : (s.healLocal c ws).curCore = s.curCore := rfl
@[simp] theorem State.healLocal_curSlot (s : State) (c : Nat) (ws : List Nat) : (s.healLocal c ws).curSlot = s.curSlot := rfl
@[simp] theorem State.healLocal_ev (s : State) (c : Nat) (ws : List Nat) : (s.healLocal c ws).ev = s.ev := rfl
@[simp] theorem State.healLocal_powered (s : State) (c : Nat) (ws : List Nat) : (s.healLocal c ws).powered = s.powered := rfl
@[simp] theorem State.healLocal_cores (s : State) (c : Nat) (ws : List Nat) : (s.healLocal c ws).cores = s.cores := rfl
@[simp] theorem State.healLocal_coves (s : State) (c : Nat) (ws : List Nat) : (s.healLocal c ws).coves = s.coves := rfl
@[simp] theorem State.healLocal_ctxs (s : State) (c : Nat) (ws : List Nat) : (s.healLocal c ws).ctxs = s.ctxs := rfl
@[simp] theorem State.healLocal_pages (s : State) (c : Nat) (ws : List Nat) : (s.healLocal c ws).pages = s.pages := rfl
@[simp] theorem State.healLocal_net (s : State) (c : Nat) (ws : List Nat) : (s.healLocal c ws).net = s.net := rfl
@[simp] theorem State.healLocal_armed (s : State) (c : Nat) (ws : List Nat) : (s.healLocal c ws).armed = s.armed := rfl
@[simp] theorem State.healLocal_barriers (s : State) (c : Nat) (ws : List Nat) : (s.healLocal c ws).barriers = s.barriers := rfl
@[simp] theorem State.healLocal_taskWaits (s : State) (c : Nat) (ws : List Nat) : (s.healLocal c ws).taskWaits = s.taskWaits := rfl
@[simp] theorem State.healLocal_olds (s : State) (c : Nat) (ws : List Nat) : (s.healLocal c ws).olds = s.olds := rfl
@[simp] theorem State.healLocal_phys (s : State) (c : Nat) (ws : List Nat) : (s.healLocal c ws).phys = s.phys := rfl
@[simp] theorem State.healLocal_errors (s : State) (c : Nat) (ws : List Nat) : (s.healLocal c ws).errors = s.errors := rfl
@[simp] theorem State.healLocal_owned (s : State) (c : Nat) (ws : List Nat) : (s.healLocal c ws).owned = s.owned := rfl
@[simp] theorem State.healLocal_hostCopies (s : State) (c : Nat) (ws : List Nat) : (s.healLocal c ws).hostCopies = s.hostCopies := rfl
@[simp] theorem State.healLocal_hdmNear (s : State) (c : Nat) (ws : List Nat) : (s.healLocal c ws).hdmNear = s.hdmNear := rfl
@[simp] theorem State.healLocal_hdmFar (s : State) (c : Nat) (ws : List Nat) : (s.healLocal c ws).hdmFar = s.hdmFar := rfl
@[simp] theorem State.healLocal_peers (s : State) (c : Nat) (ws : List Nat) : (s.healLocal c ws).peers = s.peers := rfl
@[simp] theorem State.healLocal_bar2 (s : State) (c : Nat) (ws : List Nat) : (s.healLocal c ws).bar2 = s.bar2 := rfl
@[simp] theorem State.healLocal_ptfmt (s : State) (c : Nat) (ws : List Nat) : (s.healLocal c ws).ptfmt = s.ptfmt := rfl
@[simp] theorem State.healLocal_fu (s : State) (c : Nat) (ws : List Nat) : (s.healLocal c ws).fu = s.fu := rfl
@[simp] theorem State.healLocal_inv (s : State) (c : Nat) (ws : List Nat) : (s.healLocal c ws).inv = s.inv := rfl
@[simp] theorem State.healLocal_crt (s : State) (c : Nat) (ws : List Nat) : (s.healLocal c ws).crt = s.crt := rfl
@[simp] theorem State.healLocal_ebudSel (s : State) (c : Nat) (ws : List Nat) : (s.healLocal c ws).ebudSel = s.ebudSel := rfl
@[simp] theorem State.healLocal_head (s : State) (c : Nat) (ws : List Nat) : (s.healLocal c ws).head = s.head := rfl
@[simp] theorem State.healLocal_mbox (s : State) (c : Nat) (ws : List Nat) : (s.healLocal c ws).mbox = s.mbox := rfl
@[simp] theorem State.healLocal_msix (s : State) (c : Nat) (ws : List Nat) : (s.healLocal c ws).msix = s.msix := rfl

/-! ## retry -/

@[simp] theorem State.retry_agenda (s : State) (t : Thread) (n : Nat) : (s.retry t n).agenda = s.agenda := rfl
@[simp] theorem State.retry_tick (s : State) (t : Thread) (n : Nat) : (s.retry t n).tick = s.tick := rfl
@[simp] theorem State.retry_free (s : State) (t : Thread) (n : Nat) : (s.retry t n).free = s.free := rfl
@[simp] theorem State.retry_serial (s : State) (t : Thread) (n : Nat) : (s.retry t n).serial = s.serial := rfl
@[simp] theorem State.retry_curCore (s : State) (t : Thread) (n : Nat) : (s.retry t n).curCore = s.curCore := rfl
@[simp] theorem State.retry_curSlot (s : State) (t : Thread) (n : Nat) : (s.retry t n).curSlot = s.curSlot := rfl
@[simp] theorem State.retry_ev (s : State) (t : Thread) (n : Nat) : (s.retry t n).ev = s.ev := rfl
@[simp] theorem State.retry_powered (s : State) (t : Thread) (n : Nat) : (s.retry t n).powered = s.powered := rfl
@[simp] theorem State.retry_coves (s : State) (t : Thread) (n : Nat) : (s.retry t n).coves = s.coves := rfl
@[simp] theorem State.retry_ctxs (s : State) (t : Thread) (n : Nat) : (s.retry t n).ctxs = s.ctxs := rfl
@[simp] theorem State.retry_pages (s : State) (t : Thread) (n : Nat) : (s.retry t n).pages = s.pages := rfl
@[simp] theorem State.retry_net (s : State) (t : Thread) (n : Nat) : (s.retry t n).net = s.net := rfl
@[simp] theorem State.retry_armed (s : State) (t : Thread) (n : Nat) : (s.retry t n).armed = s.armed := rfl
@[simp] theorem State.retry_barriers (s : State) (t : Thread) (n : Nat) : (s.retry t n).barriers = s.barriers := rfl
@[simp] theorem State.retry_taskWaits (s : State) (t : Thread) (n : Nat) : (s.retry t n).taskWaits = s.taskWaits := rfl
@[simp] theorem State.retry_olds (s : State) (t : Thread) (n : Nat) : (s.retry t n).olds = s.olds := rfl
@[simp] theorem State.retry_phys (s : State) (t : Thread) (n : Nat) : (s.retry t n).phys = s.phys := rfl
@[simp] theorem State.retry_errors (s : State) (t : Thread) (n : Nat) : (s.retry t n).errors = s.errors := rfl
@[simp] theorem State.retry_localErrors (s : State) (t : Thread) (n : Nat) : (s.retry t n).localErrors = s.localErrors := rfl
@[simp] theorem State.retry_owned (s : State) (t : Thread) (n : Nat) : (s.retry t n).owned = s.owned := rfl
@[simp] theorem State.retry_hostCopies (s : State) (t : Thread) (n : Nat) : (s.retry t n).hostCopies = s.hostCopies := rfl
@[simp] theorem State.retry_hdmNear (s : State) (t : Thread) (n : Nat) : (s.retry t n).hdmNear = s.hdmNear := rfl
@[simp] theorem State.retry_hdmFar (s : State) (t : Thread) (n : Nat) : (s.retry t n).hdmFar = s.hdmFar := rfl
@[simp] theorem State.retry_peers (s : State) (t : Thread) (n : Nat) : (s.retry t n).peers = s.peers := rfl
@[simp] theorem State.retry_bar2 (s : State) (t : Thread) (n : Nat) : (s.retry t n).bar2 = s.bar2 := rfl
@[simp] theorem State.retry_ptfmt (s : State) (t : Thread) (n : Nat) : (s.retry t n).ptfmt = s.ptfmt := rfl
@[simp] theorem State.retry_fu (s : State) (t : Thread) (n : Nat) : (s.retry t n).fu = s.fu := rfl
@[simp] theorem State.retry_inv (s : State) (t : Thread) (n : Nat) : (s.retry t n).inv = s.inv := rfl
@[simp] theorem State.retry_crt (s : State) (t : Thread) (n : Nat) : (s.retry t n).crt = s.crt := rfl
@[simp] theorem State.retry_ebudSel (s : State) (t : Thread) (n : Nat) : (s.retry t n).ebudSel = s.ebudSel := rfl
@[simp] theorem State.retry_head (s : State) (t : Thread) (n : Nat) : (s.retry t n).head = s.head := rfl
@[simp] theorem State.retry_mbox (s : State) (t : Thread) (n : Nat) : (s.retry t n).mbox = s.mbox := rfl
@[simp] theorem State.retry_msix (s : State) (t : Thread) (n : Nat) : (s.retry t n).msix = s.msix := rfl

/-! ## await -/

@[simp] theorem State.await_agenda (s : State) (t : Thread) (n : Nat) (w : Wait) : (s.await t n w).agenda = s.agenda := rfl
@[simp] theorem State.await_tick (s : State) (t : Thread) (n : Nat) (w : Wait) : (s.await t n w).tick = s.tick := rfl
@[simp] theorem State.await_free (s : State) (t : Thread) (n : Nat) (w : Wait) : (s.await t n w).free = s.free := rfl
@[simp] theorem State.await_serial (s : State) (t : Thread) (n : Nat) (w : Wait) : (s.await t n w).serial = s.serial := rfl
@[simp] theorem State.await_curCore (s : State) (t : Thread) (n : Nat) (w : Wait) : (s.await t n w).curCore = s.curCore := rfl
@[simp] theorem State.await_curSlot (s : State) (t : Thread) (n : Nat) (w : Wait) : (s.await t n w).curSlot = s.curSlot := rfl
@[simp] theorem State.await_ev (s : State) (t : Thread) (n : Nat) (w : Wait) : (s.await t n w).ev = s.ev := rfl
@[simp] theorem State.await_powered (s : State) (t : Thread) (n : Nat) (w : Wait) : (s.await t n w).powered = s.powered := rfl
@[simp] theorem State.await_coves (s : State) (t : Thread) (n : Nat) (w : Wait) : (s.await t n w).coves = s.coves := rfl
@[simp] theorem State.await_ctxs (s : State) (t : Thread) (n : Nat) (w : Wait) : (s.await t n w).ctxs = s.ctxs := rfl
@[simp] theorem State.await_pages (s : State) (t : Thread) (n : Nat) (w : Wait) : (s.await t n w).pages = s.pages := rfl
@[simp] theorem State.await_net (s : State) (t : Thread) (n : Nat) (w : Wait) : (s.await t n w).net = s.net := rfl
@[simp] theorem State.await_armed (s : State) (t : Thread) (n : Nat) (w : Wait) : (s.await t n w).armed = s.armed := rfl
@[simp] theorem State.await_barriers (s : State) (t : Thread) (n : Nat) (w : Wait) : (s.await t n w).barriers = s.barriers := rfl
@[simp] theorem State.await_taskWaits (s : State) (t : Thread) (n : Nat) (w : Wait) : (s.await t n w).taskWaits = s.taskWaits := rfl
@[simp] theorem State.await_olds (s : State) (t : Thread) (n : Nat) (w : Wait) : (s.await t n w).olds = s.olds := rfl
@[simp] theorem State.await_phys (s : State) (t : Thread) (n : Nat) (w : Wait) : (s.await t n w).phys = s.phys := rfl
@[simp] theorem State.await_errors (s : State) (t : Thread) (n : Nat) (w : Wait) : (s.await t n w).errors = s.errors := rfl
@[simp] theorem State.await_localErrors (s : State) (t : Thread) (n : Nat) (w : Wait) : (s.await t n w).localErrors = s.localErrors := rfl
@[simp] theorem State.await_owned (s : State) (t : Thread) (n : Nat) (w : Wait) : (s.await t n w).owned = s.owned := rfl
@[simp] theorem State.await_hostCopies (s : State) (t : Thread) (n : Nat) (w : Wait) : (s.await t n w).hostCopies = s.hostCopies := rfl
@[simp] theorem State.await_hdmNear (s : State) (t : Thread) (n : Nat) (w : Wait) : (s.await t n w).hdmNear = s.hdmNear := rfl
@[simp] theorem State.await_hdmFar (s : State) (t : Thread) (n : Nat) (w : Wait) : (s.await t n w).hdmFar = s.hdmFar := rfl
@[simp] theorem State.await_peers (s : State) (t : Thread) (n : Nat) (w : Wait) : (s.await t n w).peers = s.peers := rfl
@[simp] theorem State.await_bar2 (s : State) (t : Thread) (n : Nat) (w : Wait) : (s.await t n w).bar2 = s.bar2 := rfl
@[simp] theorem State.await_ptfmt (s : State) (t : Thread) (n : Nat) (w : Wait) : (s.await t n w).ptfmt = s.ptfmt := rfl
@[simp] theorem State.await_fu (s : State) (t : Thread) (n : Nat) (w : Wait) : (s.await t n w).fu = s.fu := rfl
@[simp] theorem State.await_inv (s : State) (t : Thread) (n : Nat) (w : Wait) : (s.await t n w).inv = s.inv := rfl
@[simp] theorem State.await_crt (s : State) (t : Thread) (n : Nat) (w : Wait) : (s.await t n w).crt = s.crt := rfl
@[simp] theorem State.await_ebudSel (s : State) (t : Thread) (n : Nat) (w : Wait) : (s.await t n w).ebudSel = s.ebudSel := rfl
@[simp] theorem State.await_head (s : State) (t : Thread) (n : Nat) (w : Wait) : (s.await t n w).head = s.head := rfl
@[simp] theorem State.await_mbox (s : State) (t : Thread) (n : Nat) (w : Wait) : (s.await t n w).mbox = s.mbox := rfl
@[simp] theorem State.await_msix (s : State) (t : Thread) (n : Nat) (w : Wait) : (s.await t n w).msix = s.msix := rfl

/-! ## Sparse lists -/

@[simp] theorem find?_put {α : Type} (k : Nat) (v : α) (l : List (Nat × α)) : find? k (put k v l) = some v := by
  induction l with
  | nil => simp [put, find?]
  | cons p rest ih =>
    obtain ⟨j, w⟩ := p
    simp only [put]
    split
    · simp [find?]
    · split
      · simp [find?]
      · simp [find?, *]

theorem find?_put_of_ne {α : Type} {j k : Nat} (h : j ≠ k) (v : α) (l : List (Nat × α)) :
    find? j (put k v l) = find? j l := by
  induction l with
  | nil => simp [put, find?, Ne.symm h]
  | cons p rest ih =>
    obtain ⟨m, w⟩ := p
    simp only [put]
    split
    · simp [find?, Ne.symm h]
    · split
      · rename_i e; subst e; simp [find?, Ne.symm h]
      · simp only [find?]; split
        · rfl
        · exact ih

@[simp] theorem put_put {α : Type} (k : Nat) (v w : α) (l : List (Nat × α)) : put k v (put k w l) = put k v l := by
  induction l with
  | nil => simp [put]
  | cons p rest ih =>
    obtain ⟨j, x⟩ := p
    simp only [put]
    split
    · simp [put]
    · split
      · simp [put]
      · simp [put, *]

/-! ## Reading a part back -/

@[simp] theorem State.core_setCore (s : State) (c : Nat) (k : Core) : (s.setCore c k).core c = k := by
  simp [State.core, State.setCore]

theorem State.core_setCore_of_ne (s : State) {c d : Nat} (h : d ≠ c) (k : Core) : (s.setCore c k).core d = s.core d := by
  simp [State.core, State.setCore, find?_put_of_ne h]

@[simp] theorem State.setCore_setCore (s : State) (c : Nat) (k l : Core) : (s.setCore c k).setCore c l = s.setCore c l := by
  simp [State.setCore]

@[simp] theorem State.cove_setCove (s : State) (c : Nat) (k : Cove) : (s.setCove c k).cove c = k := by
  simp [State.cove, State.setCove]

@[simp] theorem State.ctx?_setCtx (s : State) (x : Nat) (k : Ctx) : (s.setCtx x k).ctx? x = some k := by
  simp [State.ctx?, State.setCtx]

@[simp] theorem State.ctx?_setCore (s : State) (c : Nat) (k : Core) (x : Nat) : (s.setCore c k).ctx? x = s.ctx? x := rfl

@[simp] theorem State.ctx?_setThread (s : State) (c i : Nat) (t : Thread) (x : Nat) :
    (s.setThread c i t).ctx? x = s.ctx? x := rfl

@[simp] theorem State.ctx?_setCur (s : State) (t : Thread) (x : Nat) : (s.setCur t).ctx? x = s.ctx? x := rfl

@[simp] theorem Core.slot_setSlot (k : Core) {i : Nat} (h : i < 16) (v : Slot) : (k.setSlot i v).slot i = v := by
  simp [Core.slot, Core.setSlot, h]

theorem Core.slot_setSlot_of_ne (k : Core) {i j : Nat} (h : j ≠ i) (v : Slot) : (k.setSlot i v).slot j = k.slot j := by
  simp [Core.slot, Core.setSlot, Ne.symm h]

@[simp] theorem Core.setSlot_setSlot (k : Core) (i : Nat) (v w : Slot) : (k.setSlot i v).setSlot i w = k.setSlot i w := by
  simp [Core.setSlot, Vector.setIfInBounds_setIfInBounds]

@[simp] theorem State.slot_setSlot (s : State) (c : Nat) {i : Nat} (h : i < 16) (v : Slot) : (s.setSlot c i v).slot c i = v := by
  simp [State.slot, State.setSlot, h]

@[simp] theorem State.setSlot_setSlot (s : State) (c i : Nat) (v w : Slot) : (s.setSlot c i v).setSlot c i w = s.setSlot c i w := by
  simp [State.setSlot]

/-- A thread in a slot is in one of the sixteen. -/
theorem State.slot_lt {s : State} {c i : Nat} {t : Thread} (h : s.thread? c i = some t) : i < 16 := by
  by_contra hi
  have : ((s.core c).slots[i]?) = none := by simp; omega
  simp [State.thread?, State.slot, Core.slot, this, Slot.thread?] at h

@[simp] theorem State.thread?_setThread (s : State) (c : Nat) {i : Nat} (h : i < 16) (t : Thread) :
    (s.setThread c i t).thread? c i = some t := by
  simp [State.thread?, State.setThread, Slot.thread?, h]

@[simp] theorem State.setThread_setThread (s : State) (c : Nat) {i : Nat} (h : i < 16) (t u : Thread) :
    (s.setThread c i t).setThread c i u = s.setThread c i u := by
  simp [State.setThread, h]

/-- The executing thread's slot is one of the sixteen. -/
theorem State.curSlot_lt {s : State} {t : Thread} (h : s.cur? = some t) : s.curSlot < 16 := State.slot_lt h

theorem State.cur?_setCur {s : State} {t : Thread} (h : s.cur? = some t) (u : Thread) : (s.setCur u).cur? = some u := by
  have hi := State.curSlot_lt h
  simp [State.cur?, State.setCur, hi]

theorem State.setCur_setCur {s : State} {t : Thread} (h : s.cur? = some t) (u v : Thread) :
    (s.setCur u).setCur v = s.setCur v := by
  have hi := State.curSlot_lt h
  simp [State.setCur, hi]

/-- A change of the executing thread leaves every other core as it was. -/
theorem State.core_setCur_of_ne (s : State) (t : Thread) {c : Nat} (h : c ≠ s.curCore) : (s.setCur t).core c = s.core c := by
  simp [State.setCur, State.setThread, State.setSlot, State.core_setCore_of_ne _ h]

/-- A change of the executing thread leaves the local store of its core as it was. -/
@[simp] theorem State.mem_setCur (s : State) (t : Thread) (c : Nat) : ((s.setCur t).core c).mem = (s.core c).mem := by
  by_cases h : c = s.curCore
  · subst h; simp [State.setCur, State.setThread, State.setSlot, Core.setSlot]
  · rw [State.core_setCur_of_ne s t h]

/-- It leaves every other slot of the core as it was. -/
theorem State.slot_setCur_of_ne (s : State) (t : Thread) {i : Nat} (h : i ≠ s.curSlot) :
    (s.setCur t).slot s.curCore i = s.slot s.curCore i := by
  simp [State.setCur, State.setThread, State.setSlot, State.slot, Core.slot_setSlot_of_ne _ h]

/-- A change of the executing thread leaves the queues of its slot as they were. -/
theorem State.queues_setCur {s : State} {t : Thread} (h : s.cur? = some t) (u : Thread) :
    (s.setCur u).queues = s.queues := by
  have hi := State.curSlot_lt h
  simp [State.queues, State.setCur, State.setThread, hi]

end Sys2Proof.Machine
end

