-- ==== Sys2Proof/Laws/Issue.lean ====
section
/-! SUPPORT. Issue, retirement and operands: what the shared operations of Ops.lean and Operands.lean answer. -/

namespace Sys2Proof.Machine

/-! ## Queue ports -/

theorem plainReg_iff {r : Reg} : plainReg r = true ↔ r ≠ 28#5 ∧ r ≠ 29#5 ∧ r ≠ 30#5 := by
  simp [plainReg, and_assoc]

theorem readsOf_of_plain {p : Reg} {reads : List Reg} (h : p ∉ reads) : readsOf p reads = 0 := by
  simp only [readsOf, List.length_eq_zero_iff, List.filter_eq_nil_iff]
  intro r hr e
  simp at e
  exact h (e ▸ hr)

/-- An instruction that names no port passes the checks of its ports. -/
theorem Issues.of_plain {s : State} {t : Thread} {reads : List Reg} {write : Reg} {irreversible : Bool}
    (cur : s.cur? = some t) (hr : ∀ r ∈ reads, plainReg r = true) (hw : plainReg write = true)
    (firm : irreversible = true → s.heldBack t = false) : Issues s t reads write irreversible := by
  have h28 : 28#5 ∉ reads := fun h => by simpa [plainReg] using hr _ h
  have h29 : 29#5 ∉ reads := fun h => by simpa [plainReg] using hr _ h
  have hw30 : write ≠ 30#5 := (plainReg_iff.1 hw).2.2
  refine ⟨cur, ?_, ?_, ?_, firm, ?_⟩
  · simp [State.portWait, readsOf_of_plain h28, readsOf_of_plain h29, hw30]
  · clear cur firm hw hw30
    induction reads with
    | nil => rfl
    | cons r rest ih =>
      have hp := plainReg_iff.1 (hr r (by simp))
      simp only [State.readTrap]
      rw [if_neg (by simp; tauto), ih (fun q hq => hr q (by simp [hq])) (fun q => h28 (List.mem_cons_of_mem _ q)) (fun q => h29 (List.mem_cons_of_mem _ q))]
  · simp [State.writeTrap, hw30]
  · simp [State.portOffsets, readsOf_of_plain h28, readsOf_of_plain h29, upFrom]

theorem State.popPorts_of_plain (s : State) (t : Thread) {reads : List Reg} (hr : ∀ r ∈ reads, plainReg r = true) :
    s.popPorts t reads = s := by
  have h28 : 28#5 ∉ reads := fun h => by simpa [plainReg] using hr _ h
  have h29 : 29#5 ∉ reads := fun h => by simpa [plainReg] using hr _ h
  simp [State.popPorts, readsOf_of_plain h28, readsOf_of_plain h29]

theorem State.readg_of_plain (s : State) (t : Thread) (before : List Reg) {r : Reg} (h : plainReg r = true) :
    s.readg t before r = t.getG r := by
  obtain ⟨a, b, c⟩ := plainReg_iff.1 h
  simp [State.readg, a, b, c]

/-! ## Words of local store -/

theorem State.readLocal_of_sound {s : State} {x off n : Nat} {k : Word → State → State}
    (h : s.localError s.curCore off n = none) : s.readLocal x off n k = k (s.localLoad s.curCore off n) s := by
  simp [State.readLocal, State.checkLocal, h]

theorem State.readWords_of_sound {s : State} {x : Nat} {offs : List Nat} {ws : List Word} {k : List Word → State → State}
    (h : ∀ off ∈ offs, s.localError s.curCore off 8 = none) :
    s.readWords x offs ws k = k (ws ++ offs.map fun off => s.localLoad s.curCore off 8) s := by
  induction offs generalizing ws with
  | nil => simp [State.readWords]
  | cons a rest ih =>
    rw [State.readWords, State.readLocal_of_sound (h a (by simp)), ih fun off ho => h off (by simp [ho])]
    simp

/-! ## Issue -/

/-- An instruction that passes its checks has its effect. -/
theorem Issues.go {s : State} {t : Thread} {reads : List Reg} {write : Reg} {irreversible : Bool} {effect : State → State}
    (h : Issues s t reads write irreversible) : s.issue t reads write irreversible (.go effect) = effect (s.popPorts t reads) := by
  have hf : (irreversible && s.heldBack t) = false := by
    cases irreversible
    · rfl
    · simp [h.firm rfl]
  simp [State.issue, Act.busy, h.ports, h.open_, h.room, hf, State.readWords_of_sound h.sound]

/-- An instruction that passes the checks of its ports takes the trap that its own checks find. -/
theorem Issues.trap {s : State} {t : Thread} {reads : List Reg} {write : Reg} {irreversible : Bool} {cause : Nat} {utval : Word}
    (h : Issues s t reads write irreversible) : s.issue t reads write irreversible (.trap cause utval) = s.trap cause utval := by
  have hf : (irreversible && s.heldBack t) = false := by
    cases irreversible
    · rfl
    · simp [h.firm rfl]
  simp [State.issue, Act.busy, h.ports, h.open_, hf]

theorem Issues.notReady {s : State} {t : Thread} {reads : List Reg} {write : Reg} {irreversible : Bool} {cause : Nat}
    (h : Issues s t reads write irreversible) : s.issue t reads write irreversible (.notReady cause) = s.retry t cause := by
  have hf : (irreversible && s.heldBack t) = false := by
    cases irreversible
    · rfl
    · simp [h.firm rfl]
  by_cases h11 : cause = 11
  · simp [State.issue, Act.busy, h.ports, h11]
  · simp [State.issue, Act.busy, h.ports, h.open_, hf, h11]

/-- A wait for a unit comes before the traps of the ports, which the wait for words precedes (R12, R222). -/
theorem State.issue_busy {s : State} {t : Thread} {reads : List Reg} {write : Reg} {irreversible : Bool} {body : Act}
    (ports : s.portWait reads write = none) (busy : body.busy = true) : s.issue t reads write irreversible body = s.retry t 11 := by
  simp [State.issue, ports, busy]

/-- A meaning acts on the executing thread. -/
theorem run_of_cur {s : State} {t : Thread} (h : s.cur? = some t) (f : Thread → State) : run s f = .next (f t) := by
  simp [run, h]

/-- A computational instruction. -/
theorem Issues.compute {s : State} {t : Thread} {reads : List Reg} {rd : Reg} (h : Issues s t reads rd false) (f : Thread → Word) :
    compute s rd reads f = .next ((s.popPorts t reads).finish rd (f t)) := by
  simp [Machine.compute, run_of_cur h.cur, h.go]

/-! ## Retirement -/

/-- The thread of a slot retires. -/
theorem State.retireAt_of_settled {s : State} {c i : Nat} {t : Thread} (h : s.thread? c i = some t)
    (hc : s.checking t = true → t.checker.pending = false) (pc : Word) (transfer : Bool) :
    s.retireAt c i pc transfer = s.setThread c i (t.after pc transfer (s.checking t)) := by
  by_cases k : s.checking t = true
  · simp [State.retireAt, h, k, hc k, Thread.after]
  · simp [State.retireAt, h, k, Thread.after]

/-- A retirement with a silent error (R191, R262). -/
theorem State.retireAt_of_pending {s : State} {c i : Nat} {t : Thread} (h : s.thread? c i = some t)
    (hc : s.checking t = true) (hp : t.checker.pending = true) (pc : Word) (transfer : Bool) :
    s.retireAt c i pc transfer = s.silentError t.ctx c := by
  simp [State.retireAt, h, hc, hp]

@[simp] theorem Thread.setG_pc (t : Thread) (r : Reg) (v : Word) : (t.setG r v).pc = t.pc := by
  unfold Thread.setG; split <;> rfl
@[simp] theorem Thread.setG_ctx (t : Thread) (r : Reg) (v : Word) : (t.setG r v).ctx = t.ctx := by
  unfold Thread.setG; split <;> rfl
@[simp] theorem Thread.setG_checker (t : Thread) (r : Reg) (v : Word) : (t.setG r v).checker = t.checker := by
  unfold Thread.setG; split <;> rfl
@[simp] theorem Thread.setG_spec (t : Thread) (r : Reg) (v : Word) : (t.setG r v).spec = t.spec := by
  unfold Thread.setG; split <;> rfl
@[simp] theorem Thread.setG_iword (t : Thread) (r : Reg) (v : Word) : (t.setG r v).iword = t.iword := by
  unfold Thread.setG; split <;> rfl

/-- Whether the checker runs depends on the thread's context and its checker alone. -/
theorem State.checking_congr {s s' : State} {t u : Thread} (hx : u.ctx = t.ctx) (hk : u.checker = t.checker)
    (hc : s'.ctx? t.ctx = s.ctx? t.ctx) : s'.checking u = s.checking t := by
  simp [State.checking, hx, hk, hc]

/-- The executing thread changed and retired. -/
theorem Retires.retireAt {s : State} {t u : Thread} (h : Retires s t) (hx : u.ctx = t.ctx) (hk : u.checker = t.checker) (pc : Word)
    (transfer : Bool) :
    (s.setCur u).retireAt s.curCore s.curSlot pc transfer = s.setCur (u.after pc transfer (s.checking t)) := by
  have hi := State.curSlot_lt h.cur
  have hc : (s.setCur u).checking u = s.checking t := State.checking_congr hx hk (by simp)
  rw [State.retireAt_of_settled (t := u) (by simp [State.setCur, hi]) (by rw [hc, hk]; exact h.settled), hc]
  simp [State.setCur, hi]

theorem Retires.done {s : State} {t u : Thread} (h : Retires s t) (hx : u.ctx = t.ctx) (hk : u.checker = t.checker) :
    (s.setCur u).done = s.setCur (u.after (u.pc + 4) false (s.checking t)) := by
  have hi := State.curSlot_lt h.cur
  have := h.retireAt hx hk (u.pc + 4) false
  simp [State.done, State.retire, State.setCur, hi] at *
  exact this

/-- The executing thread as it stands, retired. -/
theorem Retires.done_same {s : State} {t : Thread} (h : Retires s t) : s.done = s.setCur (t.after (t.pc + 4) false (s.checking t)) := by
  have hc : s.thread? s.curCore s.curSlot = some t := h.cur
  simp [State.done, State.retire, hc, State.retireAt_of_settled hc h.settled, State.setCur]

theorem Retires.goTo {s : State} {t : Thread} (h : Retires s t) (pc : Word) : s.goTo pc = s.setCur (t.after pc true (s.checking t)) := by
  have hc : s.thread? s.curCore s.curSlot = some t := h.cur
  simp [State.goTo, State.retireAt_of_settled hc h.settled, State.setCur]

/-- A write of a register that is no port. -/
theorem State.writeg_of_plain {s : State} {t : Thread} (h : s.cur? = some t) {rd : Reg} (hp : rd ≠ 30#5) (v : Word) :
    s.writeg s.curCore s.curSlot rd v = s.setCur (t.setG rd v) := by
  have hc : s.thread? s.curCore s.curSlot = some t := h
  simp [State.writeg, hc, hp, State.setCur]

/-- A register result of the executing thread. -/
theorem Retires.finish {s : State} {t : Thread} (h : Retires s t) {rd : Reg} (hp : rd ≠ 30#5) (v : Word) :
    s.finish rd v = s.setCur ((t.setG rd v).after (t.pc + 4) false (s.checking t)) := by
  have := h.done (u := t.setG rd v) (by simp) (by simp)
  rw [State.finish, State.writeg_of_plain h.cur hp, this]
  simp

/-- Any other change of the executing thread. -/
theorem Retires.finishWith {s : State} {t : Thread} (h : Retires s t) {f : Thread → Thread} (hx : (f t).ctx = t.ctx)
    (hk : (f t).checker = t.checker) : s.finishWith f = s.setCur ((f t).after ((f t).pc + 4) false (s.checking t)) := by
  have hc : s.thread? s.curCore s.curSlot = some t := h.cur
  rw [State.finishWith, State.onThread, hc]
  exact h.done hx hk

end Sys2Proof.Machine
end

