-- ==== Sys2Proof/Laws/Memory.lean ====
section
/-! SUPPORT. Memory: every operation keeps the canonical form, and what a read gives after a write. -/

namespace Sys2Proof.Machine

/-! ## The canonical form -/

theorem Memory.wfFrom_mono {m : Memory} {a b : Nat} (h : b ≤ a) (w : Memory.wfFrom a m = true) : Memory.wfFrom b m = true := by
  cases m with
  | nil => rfl
  | cons c rest => obtain ⟨j, v⟩ := c; simp [Memory.wfFrom] at *; exact ⟨⟨by omega, w.1.2⟩, w.2⟩

theorem Memory.wfFrom_write {m : Memory} {lo a : Nat} (v : Byte) (h : lo ≤ a) (w : Memory.wfFrom lo m = true) :
    Memory.wfFrom lo (Memory.write a v m) = true := by
  induction m generalizing lo with
  | nil => simp only [Memory.write]; split <;> simp_all [Memory.wfFrom]
  | cons c rest ih =>
    obtain ⟨j, x⟩ := c
    simp only [Memory.wfFrom, Bool.and_eq_true, decide_eq_true_eq, bne_iff_ne] at w
    obtain ⟨⟨hj, hx⟩, hr⟩ := w
    simp only [Memory.write]
    split
    · split <;> simp_all [Memory.wfFrom]
    · split
      · subst_vars
        split
        · exact Memory.wfFrom_mono (by omega) hr
        · simp_all [Memory.wfFrom]
      · have := ih (lo := j + 1) (by omega) hr
        simp_all [Memory.wfFrom]

/-- A write keeps the canonical form. -/
theorem Memory.wf_write {m : Memory} (a : Nat) (v : Byte) (w : m.wf = true) : (Memory.write a v m).wf = true :=
  Memory.wfFrom_write v (Nat.zero_le a) w

/-- So does a store of any bytes. -/
theorem Memory.wf_store {m : Memory} (a : Nat) (bs : List Byte) (w : m.wf = true) : (m.store a bs).wf = true := by
  induction bs generalizing m a with
  | nil => exact w
  | cons b rest ih => exact ih (a + 1) (Memory.wf_write a b w)

theorem Memory.wf_save {m : Memory} (a n : Nat) (v : Word) (w : m.wf = true) : (m.save a n v).wf = true :=
  Memory.wf_store a _ w

theorem Memory.wf_cells {m : Memory} (cs : List Host.Cell) (w : m.wf = true) : (m.cells cs).wf = true := by
  induction cs generalizing m with
  | nil => exact w
  | cons c rest ih => exact ih (Memory.wf_write c.1 c.2 w)

theorem Memory.wfFrom_filter {m : Memory} {lo : Nat} (p : Host.Cell → Bool) (w : Memory.wfFrom lo m = true) :
    Memory.wfFrom lo (m.filter p) = true := by
  induction m generalizing lo with
  | nil => exact w
  | cons c rest ih =>
    obtain ⟨j, x⟩ := c
    simp only [Memory.wfFrom, Bool.and_eq_true, decide_eq_true_eq, bne_iff_ne] at w
    obtain ⟨⟨hj, hx⟩, hr⟩ := w
    simp only [List.filter_cons]
    split
    · simp_all [Memory.wfFrom]
    · exact Memory.wfFrom_mono (by omega) (ih hr)

theorem Memory.wf_clear {m : Memory} (lo len : Nat) (w : m.wf = true) : (m.clear lo len).wf = true :=
  Memory.wfFrom_filter _ w

theorem Memory.wf_range {m : Memory} (lo len : Nat) (w : m.wf = true) : (m.range lo len).wf = true :=
  Memory.wfFrom_filter _ w

/-- The memory of the reset state has it. -/
theorem reset_phys_wf : State.reset.phys.wf = true := rfl

/-! ## Reading after a write -/

/-- A memory lists nothing below the bound of its canonical form. -/
theorem Memory.read_below {m : Memory} {lo a : Nat} (h : a < lo) (w : Memory.wfFrom lo m = true) : m.read a = 0 := by
  induction m generalizing lo with
  | nil => rfl
  | cons c rest ih =>
    obtain ⟨j, x⟩ := c
    simp only [Memory.wfFrom, Bool.and_eq_true, decide_eq_true_eq, bne_iff_ne] at w
    have : (j = a) = False := by simp; omega
    have := ih (lo := j + 1) (by omega) w.2
    simp_all [Memory.read, find?]

theorem Memory.read_write_from {m : Memory} {lo : Nat} (a b : Nat) (v : Byte) (h : lo ≤ a) (w : Memory.wfFrom lo m = true) :
    (Memory.write a v m).read b = if b = a then v else m.read b := by
  induction m generalizing lo with
  | nil =>
    by_cases hb : b = a
    · subst hb; simp only [Memory.write]; split <;> simp_all [Memory.read, find?]
    · have : ¬ a = b := fun e => hb e.symm
      simp only [Memory.write]; split <;> simp_all [Memory.read, find?]
  | cons c rest ih =>
    obtain ⟨j, x⟩ := c
    simp only [Memory.wfFrom, Bool.and_eq_true, decide_eq_true_eq, bne_iff_ne] at w
    obtain ⟨⟨hj, hx⟩, hr⟩ := w
    have low : a ≤ j → Memory.read rest a = 0 := fun k => Memory.read_below (by omega) hr
    simp only [Memory.write]
    split
    · have hl := low (by omega)
      have hne : ¬ j = a := by omega
      by_cases hb : b = a
      · subst hb
        split <;> simp_all [Memory.read, find?]
      · have : ¬ a = b := fun e => hb e.symm
        split <;> simp_all [Memory.read, find?]
    · split
      · subst_vars
        have hl := low (by omega)
        by_cases hb : b = j
        · subst hb
          split <;> simp_all [Memory.read, find?]
        · have : ¬ j = b := fun e => hb e.symm
          split <;> simp_all [Memory.read, find?]
      · have hi := ih (lo := j + 1) (by omega) hr
        by_cases hb : j = b
        · have : ¬ b = a := by omega
          subst hb; simp_all [Memory.read, find?]
        · simp_all [Memory.read, find?]

/-- A read of one byte after a write of one byte. -/
theorem Memory.read_write {m : Memory} (w : m.wf = true) (a b : Nat) (v : Byte) :
    (Memory.write a v m).read b = if b = a then v else m.read b :=
  Memory.read_write_from a b v (Nat.zero_le a) w

/-- A byte outside the bytes stored reads as before. -/
theorem Memory.read_store_of_outside {m : Memory} (w : m.wf = true) (a b : Nat) (bs : List Byte)
    (h : b < a ∨ a + bs.length ≤ b) : (m.store a bs).read b = m.read b := by
  induction bs generalizing m a with
  | nil => rfl
  | cons x rest ih =>
    simp only [List.length_cons] at h
    rw [Memory.store, ih (Memory.wf_write a x w) (a + 1) (by omega), Memory.read_write w, if_neg (by omega)]

/-- A byte among the bytes stored reads as the byte stored there. -/
theorem Memory.read_store {m : Memory} (w : m.wf = true) (a k : Nat) (bs : List Byte) (h : k < bs.length) :
    (m.store a bs).read (a + k) = bs[k] := by
  induction bs generalizing m a k with
  | nil => simp at h
  | cons x rest ih =>
    rw [Memory.store]
    cases k with
    | zero =>
      rw [Memory.read_store_of_outside (Memory.wf_write a x w) (a + 1) (a + 0) rest (by omega), Memory.read_write w]
      simp
    | succ j =>
      have e : a + (j + 1) = a + 1 + j := by omega
      rw [e, ih (Memory.wf_write a x w) (a + 1) j (by simpa using h)]
      simp

/-- The bytes stored read back. -/
theorem Memory.bytes_store {m : Memory} (w : m.wf = true) (a : Nat) (bs : List Byte) : (m.store a bs).bytes a bs.length = bs := by
  have key : ∀ n k, k + n = bs.length → (m.store a bs).bytes (a + k) n = bs.drop k := by
    intro n
    induction n with
    | zero => intro k h; simp [Memory.bytes, List.drop_eq_nil_of_le (by omega : bs.length ≤ k)]
    | succ n ih =>
      intro k h
      have hk : k < bs.length := by omega
      rw [Memory.bytes, Memory.read_store w a k bs hk, Nat.add_assoc, ih (k + 1) (by omega)]
      simp
  simpa using key bs.length 0 (by omega)

/-! ## Little-endian numbers (R2) -/

@[simp] theorem leBytes_length (n v : Nat) : (leBytes n v).length = n := by
  induction n generalizing v with
  | zero => rfl
  | succ n ih => simp [leBytes, ih]

/-- The number that the bytes of a number hold. -/
theorem leNat_leBytes (n v : Nat) : leNat (leBytes n v) = v % 2 ^ (8 * n) := by
  induction n generalizing v with
  | zero => simp [leBytes, leNat]; omega
  | succ n ih =>
    have e : 2 ^ (8 * (n + 1)) = 256 * 2 ^ (8 * n) := by rw [Nat.mul_add, Nat.pow_add]; omega
    rw [leBytes, leNat, ih, e, Nat.mod_mul]
    simp

/-- A word saved reads back, reduced to the bytes saved. -/
theorem Memory.load_save {m : Memory} (w : m.wf = true) (a n : Nat) (v : Word) :
    (m.save a n v).load a n = BitVec.ofNat 64 (v.toNat % 2 ^ (8 * n)) := by
  have h := Memory.bytes_store w a (leBytes n v.toNat)
  rw [leBytes_length] at h
  rw [Memory.load, Memory.save, h, leNat_leBytes]

end Sys2Proof.Machine
end

