-- ==== Sys2Proof/Laws/Access.lean ====
section
/-! SUPPORT. What the shared operations of loads, stores, traps and packet events do, each said once: a thread without a
speculative part, little-endian values, a load's value delivered, an event with its packet. -/

namespace Sys2Proof.Machine

/-! ## Threads that R69 does not concern -/

theorem State.specWords_of_none {s : State} {c : Nat} {t : Thread} (h : t.spec = none) : s.specWords c t = [] := by
  simp [State.specWords, Core.part?, h]

theorem State.noteRead_of_none {s : State} {c : Nat} {t : Thread} {a : Word} (h : t.spec = none) : s.noteRead c t a = s := by
  simp [State.noteRead, h]

theorem specBytes_nil (t : Target) (n : Nat) : specBytes [] t n = (upFrom 0 n).map fun _ => none := by
  simp [specBytes, specByte]

theorem not_all_buffered (t : Target) {n : Nat} (h : n ≠ 0) : ((specBytes [] t n).all Option.isSome) = false := by
  cases n with
  | zero => exact absurd rfl h
  | succ n => simp [specBytes_nil, upFrom]

/-! ## Values -/

theorem simm_eq (imm : BitVec 12) (x : Word) : x + simm imm = wide (x.toInt + imm.toInt) := by
  simp [wide, simm, BitVec.ofInt_add]
  rfl

/-- The bytes of a word from a place on are a slice of it. -/
theorem leNat_slices (v : Word) : ∀ n k : Nat,
    leNat ((upFrom k n).map fun k => v.extractLsb' (8 * k) 8) = v.toNat / 2 ^ (8 * k) % 2 ^ (8 * n)
  | 0, k => by simp [upFrom, leNat, Nat.mod_one]
  | n + 1, k => by
    simp only [upFrom, List.map, leNat, leNat_slices v n (k + 1)]
    simp only [BitVec.extractLsb'_toNat, Nat.shiftRight_eq_div_pow]
    rw [show 8 * (k + 1) = 8 * k + 8 from rfl, Nat.pow_add, ← Nat.div_div_eq_div_mul, show 8 * (n + 1) = 8 + 8 * n from by omega,
      Nat.pow_add, Nat.mod_mul]

/-- Without buffered bytes a load reads the low n bytes of the word. -/
theorem overlay_nil (t : Target) (n : Nat) (v : Word) : overlay [] t n v = BitVec.ofNat 64 (v.toNat % 2 ^ (8 * n)) := by
  have h : overlay [] t n v = BitVec.ofNat 64 (leNat ((upFrom 0 n).map fun k => v.extractLsb' (8 * k) 8)) := by
    simp [overlay, specByte]
  rw [h, leNat_slices]
  simp

theorem leNat_lt (bs : List Byte) : leNat bs < 2 ^ (8 * bs.length) := by
  induction bs with
  | nil => simp [leNat]
  | cons b rest ih =>
    have := b.isLt
    simp only [leNat, List.length_cons]
    rw [show 8 * (rest.length + 1) = 8 + 8 * rest.length from by omega, Nat.pow_add]
    omega

@[simp] theorem Memory.bytes_length (m : Memory) (a n : Nat) : (m.bytes a n).length = n := by
  induction n generalizing a <;> simp_all [Memory.bytes]

/-- A load of n bytes lies below 2^(8 n). -/
theorem Memory.load_lt (m : Memory) (a : Nat) {n : Nat} (h : n ≤ 8) : (m.load a n).toNat < 2 ^ (8 * n) := by
  have hb := leNat_lt (m.bytes a n)
  rw [Memory.bytes_length] at hb
  have h64 : 2 ^ (8 * n) ≤ 2 ^ 64 := Nat.pow_le_pow_right (by decide) (by omega)
  simp only [Memory.load, BitVec.toNat_ofNat]
  rw [Nat.mod_eq_of_lt (by omega)]
  exact hb

theorem zext_wide (v : Word) {n : Nat} (hn : n = 1 ∨ n = 2 ∨ n = 4 ∨ n = 8) : zext v n = wide (v.toNat % 2 ^ (8 * n) : Nat) := by
  rcases hn with rfl | rfl | rfl | rfl <;> apply BitVec.eq_of_toNat_eq <;> simp [zext, wide] <;> omega

theorem signExtend_slice (v : Word) (m : Nat) :
    (v.extractLsb' 0 m).signExtend 64 = wide ((v.toNat : Int).bmod (2 ^ m)) := by
  rw [BitVec.signExtend, wide, BitVec.toInt_eq_toNat_bmod, BitVec.extractLsb'_toNat, Nat.shiftRight_zero]
  have := Int.emod_bmod (v.toNat : Int) (2 ^ m)
  push_cast at this ⊢
  rw [this]

theorem sext_wide (v : Word) {n : Nat} (hn : n = 1 ∨ n = 2 ∨ n = 4 ∨ n = 8) :
    sext v n = wide ((v.toNat : Int).bmod (2 ^ (8 * n))) := by
  rcases hn with rfl | rfl | rfl | rfl
  · simpa [sext] using signExtend_slice v 8
  · simpa [sext] using signExtend_slice v 16
  · simpa [sext] using signExtend_slice v 32
  · rw [show sext v 8 = v from rfl, wide]
    have h := BitVec.toInt_eq_toNat_bmod v
    rw [show 8 * 8 = 64 from rfl]
    conv => lhs; rw [← BitVec.ofInt_toInt (x := v), h]

/-! ## A load's value reaches its destination -/

theorem Thread.setF_same (t : Thread) (r : Reg) (v : BitVec 32) :
    (t.setF r v).ctx = t.ctx ∧ (t.setF r v).checker = t.checker ∧ (t.setF r v).pc = t.pc := ⟨rfl, rfl, rfl⟩

/-- The value written to the destination of a load that the executing thread, changed to u, completes: its instruction
retires. -/
theorem Retires.loaded {s : State} {t u : Thread} (h : Retires s t) (hx : u.ctx = t.ctx) (hk : u.checker = t.checker) (hp : u.pc = t.pc)
    {d : Dest} (v : Word) (hd : ∀ rd n b, d = .g rd n b → rd ≠ 30#5 ∧ (n = 1 ∨ n = 2 ∨ n = 4 ∨ n = 8)) :
    (s.setCur u).loaded s.curCore s.curSlot d v = s.beyond t (u.given d v) := by
  have hi := State.curSlot_lt h.cur
  have key : ∀ w : Thread, w.ctx = t.ctx → w.checker = t.checker → w.pc = t.pc →
      (s.setCur w).retire s.curCore s.curSlot = s.beyond t w := by
    intro w a b c
    have := h.done (u := w) a b
    rw [c] at this
    exact this
  have cur : (s.setCur u).thread? s.curCore s.curSlot = some u := by simp [State.setCur, hi]
  have twice : ∀ w : Thread, (s.setCur u).setThread s.curCore s.curSlot w = s.setCur w := by
    intro w; simp [State.setCur, State.setThread_setThread, hi]
  cases d with
  | none => exact key u hx hk hp
  | f rd =>
    have : (s.setCur u).deliver s.curCore s.curSlot (.f rd) v = s.setCur (u.given (.f rd) v) := by
      simp only [State.deliver, State.onThread, cur, twice, Thread.given]
      congr 2
    rw [State.loaded, this]
    exact key _ hx hk hp
  | g rd n b =>
    obtain ⟨h30, hn⟩ := hd rd n b rfl
    have : (s.setCur u).deliver s.curCore s.curSlot (.g rd n b) v = s.setCur (u.given (.g rd n b) v) := by
      cases b <;> simp [State.deliver, State.writeg, cur, h30, Thread.given, twice, zext_wide v hn, sext_wide v hn]
    rw [State.loaded, this]
    cases b <;> exact key _ (by simp [Thread.given, hx]) (by simp [Thread.given, hk]) (by simp [Thread.given, hp])

/-! ## Notify pages -/

/-- A store to a notify page (R343): 64 bits write its register, any other size nothing. -/
theorem State.storePhys_page (s : State) (x c pa n : Nat) (v va : Word) (kind : BitVec 4) {y off : Nat} (h : s.notify? pa = some (y, off)) :
    s.storePhys x c pa (leBytes n v.toNat) va kind = if n = 8 then s.writesPage y off v else s := by
  by_cases hn : n = 8
  · subst hn
    have hv : (BitVec.ofNat 64 (leNat (leBytes 8 v.toNat)) : Word) = v := by
      rw [leNat_leBytes]
      apply BitVec.eq_of_toNat_eq
      have := v.isLt
      simp [Nat.mod_eq_of_lt this]
    unfold State.storePhys State.storeNotify State.writesPage State.notify State.writeChead Ctx.notified
    simp only [h, leBytes_length, hv]
    cases s.live? y with
    | none => simp
    | some k => by_cases h0 : off = 0 <;> by_cases h1 : off = 24 <;> simp [h0, h1]
  · simp [State.storePhys, h, State.storeNotify, hn]

/-! ## Events of packets -/

/-- An event with its packet. -/
theorem Brings.run {s : State} {p : Packet} {k : Kind} (h : Brings s p k) (f : Packet → State) : onPacket s f = .next (f p).flush := by
  simp [onPacket, State.admits, h.found, h.clear, h.free, h.turn]

/-- An event whose packet is not there, or must wait, changes nothing. -/
theorem onPacket_none {s : State} (f : Packet → State) (h : s.packet? s.ev.n = none) : onPacket s f = .next s := by
  simp [onPacket, h]
theorem onPacket_waits {s : State} {p : Packet} (f : Packet → State) (h : s.packet? s.ev.n = some p) (hc : s.clear p.after = false) :
    onPacket s f = .next s := by
  simp [onPacket, State.admits, State.putOff, h, hc]

/-- A packet that comes to a core from which its context is vacated waits there (R20). -/
theorem onPacket_held {s : State} {p : Packet} (f : Packet → State) (h : s.packet? s.ev.n = some p) (hc : s.clear p.after = true)
    (hk : s.keeps p = true) : onPacket s f = .next (s.holdAt p) := by
  simp [onPacket, State.admits, State.putOff, h, hc, hk]

/-- What waits at a router changes in nothing but the mark of its arrival. -/
theorem State.holdAt_same (s : State) (p : Packet) : { s.holdAt p with net := s.net } = s := rfl
@[simp] theorem State.holdAt_core (s : State) (p : Packet) (c : Nat) : (s.holdAt p).core c = s.core c := rfl
@[simp] theorem State.holdAt_ctx? (s : State) (p : Packet) (x : Nat) : (s.holdAt p).ctx? x = s.ctx? x := rfl
@[simp] theorem State.holdAt_phys (s : State) (p : Packet) : (s.holdAt p).phys = s.phys := rfl

/-- A packet behind one that has waited longer changes nothing. -/
theorem onPacket_behind {s : State} {p : Packet} (f : Packet → State) (h : s.packet? s.ev.n = some p) (hk : s.keeps p = false)
    (ht : s.inTurn p = false) : onPacket s f = .next s := by
  simp [onPacket, State.admits, State.putOff, h, hk, ht]

/-- Where nothing waits at a router, every packet is in turn. -/
theorem State.inTurn_of_none {s : State} (p : Packet) (h : ∀ q ∈ s.net, q.held = none) : s.inTurn p = true := by
  simp only [State.inTurn, Bool.not_eq_true', List.any_eq_false]
  intro q hq
  simp [Packet.before, h q hq]

/-- A packet whose context is vacated from no core is kept at none. -/
theorem State.keeps_of_none {s : State} {p : Packet} (h : ∀ c, s.away p.ctx c = false) : s.keeps p = false := by
  unfold State.keeps
  split <;> simp [h]

end Sys2Proof.Machine
end

