-- ==== Sys2Proof/Laws/Effects.lean ====
section
/-! SUPPORT. What the shared operations of ordered tasks, armed TCBs, host lines, a core's cycle, records and gathers do and leave unchanged. -/

namespace Sys2Proof.Machine

/-! ## What engine commands may still read (R88, R91) -/

@[simp] theorem State.amend_phys (s : State) (t : Target) (bs : List Byte) : (s.amend t bs).phys = s.phys := rfl
@[simp] theorem State.amend_cores (s : State) (t : Target) (bs : List Byte) : (s.amend t bs).cores = s.cores := rfl
@[simp] theorem State.amend_ctxs (s : State) (t : Target) (bs : List Byte) : (s.amend t bs).ctxs = s.ctxs := rfl
@[simp] theorem State.amend_net (s : State) (t : Target) (bs : List Byte) : (s.amend t bs).net = s.net := rfl
@[simp] theorem State.amend_armed (s : State) (t : Target) (bs : List Byte) : (s.amend t bs).armed = s.armed := rfl
@[simp] theorem State.amend_wordAt (s : State) (t u : Target) (bs : List Byte) : (s.amend t bs).wordAt u = s.wordAt u := by
  cases u <;> rfl

/-- A write changes of the words kept for engine commands only their values. -/
theorem State.amend_same (s : State) (t : Target) (bs : List Byte) : { s.amend t bs with olds := s.olds } = s := rfl

/-! ## Armed TCBs (R52, R56) -/

@[simp] theorem State.disarm_phys (s : State) (t : Task) : (s.disarm t).phys = s.phys := rfl
@[simp] theorem State.disarm_coves (s : State) (t : Task) : (s.disarm t).coves = s.coves := rfl
@[simp] theorem State.disarm_ctxs (s : State) (t : Task) : (s.disarm t).ctxs = s.ctxs := rfl
@[simp] theorem State.arm_phys (s : State) (t : Task) : (s.arm t).phys = s.phys := rfl
@[simp] theorem State.arm_coves (s : State) (t : Task) : (s.arm t).coves = s.coves := rfl
@[simp] theorem State.arm_ctxs (s : State) (t : Task) : (s.arm t).ctxs = s.ctxs := rfl

theorem State.mem_disarm (s : State) (t a : Task) : a ∈ (s.disarm t).armed ↔ a ∈ s.armed ∧ ¬(a.ctx = t.ctx ∧ a.tcb = t.tcb) := by
  simp [State.disarm, imp_iff_not_or]

theorem State.mem_arm (s : State) (t a : Task) :
    a ∈ (s.arm t).armed ↔ a = t ∨ a ∈ s.armed ∧ ¬(a.ctx = t.ctx ∧ a.tcb = t.tcb) := by
  simp [State.arm, State.disarm, imp_iff_not_or]

/-- An armed task that a decrement finds is one of the decrement's own context. -/
theorem State.armedTask_mem {s : State} {x pa : Nat} {va : Word} {a : Task} (h : s.armedTask x va pa = some a) :
    a ∈ s.armed ∧ a.ctx = x := by
  unfold State.armedTask at h
  split at h
  · rename_i t ht
    cases h
    exact ⟨List.mem_of_find?_eq_some ht, by have := List.find?_some ht; simp_all⟩
  · exact ⟨List.mem_of_find?_eq_some h, by have := List.find?_some h; simp_all⟩

/-- A decrement of the count changes memory and what engine commands may read of it. -/
theorem State.lowerPred_same (s : State) (pa : Nat) : { s.lowerPred pa with phys := s.phys, olds := s.olds } = s := rfl

/-! ## Commits (R70, R89, R333) -/

/-- The loads that follow a commit stay the packets that they were but for what they follow. -/
theorem State.followCommit_same (s : State) (uid : Nat) : { s.followCommit uid with net := s.net } = s := rfl

theorem State.joinInvalidations_same (s : State) (p : SpecPart) : { s.joinInvalidations p with inv := s.inv } = s := rfl

/-- A word of a commit on its way is one more packet. -/
theorem State.sendCommit_net (s : State) (c : Nat) (p : SpecPart) (w : SpecWord) :
    ∃ q, (s.sendCommit c p w).net = s.net ++ [q] ∧ q.id = s.serial ∧ q.kind = .commit w ∧ q.ctx = p.task.ctx ∧ q.uid = p.uid ∧
      (s.sendCommit c p w).serial = s.serial + 1 := ⟨_, rfl, rfl, rfl, rfl, rfl, rfl⟩

/-- What another task has written never shows in the bytes that the part's own task has stored (R73). -/
theorem SpecWord.refresh_same (w : SpecWord) (t : Target) (n : Nat) (v : Word) :
    (w.refresh t n v).va = w.va ∧ (w.refresh t n v).target = w.target ∧ (w.refresh t n v).mask = w.mask := by
  unfold SpecWord.refresh
  split <;> exact ⟨rfl, rfl, rfl⟩

/-! ## Lines of the host (R325) -/

/-- A read of several lines is itself where the host holds none of them exclusively. -/
theorem State.withLines_free {s : State} {lines : List Nat} (f : State → State) (h : ∀ l ∈ lines, s.exclusive (64 * l) = false) :
    s.withLines lines f = f s := by
  have : lines.find? (fun l => s.exclusive (64 * l)) = none := by
    rw [List.find?_eq_none]
    intro l hl
    simp [h l hl]
  rw [State.withLines, this]

/-! ## A core's cycle (R13, R181) -/

/-- Without a range in progress a cycle of marking does nothing. -/
theorem State.advanceRange_none {s : State} {c i : Nat} {t : Thread} (h : s.thread? c i = some t) (hr : t.range = none) :
    s.advanceRange c i = s := by
  simp [State.advanceRange, h, hr]

theorem State.advanceRange_empty {s : State} {c i : Nat} (h : s.thread? c i = none) : s.advanceRange c i = s := by
  simp [State.advanceRange, h]

/-- A counted cycle changes the count of its core and nothing else (R359). -/
theorem State.clocked_same (s : State) (c : Nat) : { s.clocked c with head := s.head } = s := rfl
@[simp] theorem State.clocked_cores (s : State) (c : Nat) : (s.clocked c).cores = s.cores := rfl
@[simp] theorem State.clocked_core (s : State) (c d : Nat) : (s.clocked c).core d = s.core d := rfl
@[simp] theorem State.clocked_count (s : State) (c : Nat) :
    find? c (s.clocked c).head.cycles = some ((find? c s.head.cycles).getD 0 + 1) := by simp [State.clocked]
theorem State.clocked_count_of_ne (s : State) {c d : Nat} (h : d ≠ c) :
    find? d (s.clocked c).head.cycles = find? d s.head.cycles := by simp [State.clocked, find?_put_of_ne h]

/-! ## What comes back to a thread that waits no more (R249) -/

/-- The thread that a reply reaches holds its slot and waits. -/
theorem State.waiter?_some {s : State} {p : Packet} {t : Thread} {w : Wait} (h : s.waiter? p = some (t, w)) :
    s.holder? p.core p.slot p.uid = some t ∧ t.waits = some w := by
  unfold State.waiter? at h
  split at h
  · rename_i u hu
    cases hw : u.waits with
    | none => simp [hw] at h
    | some v => simp [hw] at h; obtain ⟨rfl, rfl⟩ := h; exact ⟨hu, hw⟩
  · cases h

/-! ## Records that wait for a page (R252, R340) -/

/-- Nothing is asked for where the next record's page is there. -/
theorem State.wantRecord_none {s : State} {x : Nat} (h : s.recordLacks x = none) : s.wantRecord x = s := by
  simp only [State.wantRecord, h]
  cases s.ctx? x <;> rfl

theorem State.wantRecord_some {s : State} {x : Nat} {k : Ctx} {va : Word} (hk : s.ctx? x = some k) (h : s.recordLacks x = some va) :
    s.wantRecord x = s.partFault x (k.record.coves.headD 0) va 10 := by simp only [State.wantRecord, hk, h]

/-! ## A gather behind its thread's commands (R97, R218) -/

@[simp] theorem earlier_nil (uid : Nat) : earlier [] uid = false := rfl

/-- Only a gather waits, and only behind a command that is none. -/
theorem Core.gatherWaits_false {k : Core} {q : VCmd} (h : q.op.isGather = false ∨ k.vflight = []) : k.gatherWaits q = false := by
  rcases h with h | h <;> simp [Core.gatherWaits, h]

end Sys2Proof.Machine
end

