-- ==== Sys2Proof/Laws/Encoding.lean ====
section
/-! SUPPORT. The fields of an encoded word: what the decoder reads from each format of the encoder (R122). -/

namespace Sys2Proof

/-! ## Slices of a concatenation -/

theorem slice_low {m n : Nat} (a : BitVec m) (x : BitVec n) (s l : Nat) (h : s + l ≤ n) :
    (a ++ x).extractLsb' s l = x.extractLsb' s l := by
  apply BitVec.eq_of_getLsbD_eq
  intro i hi
  have : s + i < n := by omega
  simp [BitVec.getLsbD_append, this]

theorem slice_high {m n : Nat} (a : BitVec m) (x : BitVec n) (s l : Nat) (h : n ≤ s) :
    (a ++ x).extractLsb' s l = a.extractLsb' (s - n) l := by
  apply BitVec.eq_of_getLsbD_eq
  intro i hi
  have : ¬ s + i < n := by omega
  have h2 : s + i - n = s - n + i := by omega
  simp [BitVec.getLsbD_append, this, h2]

theorem slice_all {n : Nat} (x : BitVec n) : x.extractLsb' 0 n = x := by
  apply BitVec.eq_of_getLsbD_eq
  intro i hi
  simp [hi]

/-- A slice of a slice. -/
theorem slice_slice {n : Nat} (x : BitVec n) (s l a b : Nat) (h : a + b ≤ l) :
    (x.extractLsb' s l).extractLsb' a b = x.extractLsb' (s + a) b := by
  apply BitVec.eq_of_getLsbD_eq
  intro i hi
  have : a + i < l := by omega
  simp [this, Nat.add_assoc]

/-- Two slices that meet are one. -/
theorem slice_join {n : Nat} (x : BitVec n) (s a b t : Nat) (h : t = s + a) :
    x.extractLsb' t b ++ x.extractLsb' s a = x.extractLsb' s (b + a) := by
  subst h
  apply BitVec.eq_of_getLsbD_eq
  intro i hi
  simp only [BitVec.getLsbD_extractLsb', BitVec.getLsbD_append]
  split <;> rename_i h
  · have : i < b + a := by omega
    simp [h, this]
  · have h2 : s + a + (i - a) = s + i := by omega
    have h3 : i - a < b := by omega
    simp [h2, h3, hi]

/-- A concatenation is a word exactly when its parts are the word's slices. -/
theorem append_eq_iff {m n : Nat} (a : BitVec m) (x : BitVec n) (y : BitVec (m + n)) :
    a ++ x = y ↔ a = y.extractLsb' n m ∧ x = y.extractLsb' 0 n := by
  constructor
  · rintro rfl
    refine ⟨?_, ?_⟩
    · rw [slice_high _ _ _ _ (Nat.le_refl n), Nat.sub_self, slice_all]
    · rw [slice_low _ _ _ _ (by omega), slice_all]
  · rintro ⟨rfl, rfl⟩
    rw [slice_join y 0 n m n (by omega), slice_all]

/-! The parts of composite fields, at the widths that the encodings have. -/

theorem high_6_6 (a : BitVec 6) (x : BitVec 6) : BitVec.extractLsb' 6 6 (a ++ x : BitVec 12) = a := by
  rw [slice_high a x 6 6 (by decide)]; exact slice_all a
theorem low_6_6 (a : BitVec 6) (x : BitVec 6) : BitVec.extractLsb' 0 6 (a ++ x : BitVec 12) = x := by
  rw [slice_low a x 0 6 (by decide)]; exact slice_all x
theorem high_4_8 (a : BitVec 4) (x : BitVec 8) : BitVec.extractLsb' 8 4 (a ++ x : BitVec 12) = a := by
  rw [slice_high a x 8 4 (by decide)]; exact slice_all a
theorem low_4_8 (a : BitVec 4) (x : BitVec 8) : BitVec.extractLsb' 0 8 (a ++ x : BitVec 12) = x := by
  rw [slice_low a x 0 8 (by decide)]; exact slice_all x
theorem high_4_3 (a : BitVec 4) (x : BitVec 3) : BitVec.extractLsb' 3 4 (a ++ x : BitVec 7) = a := by
  rw [slice_high a x 3 4 (by decide)]; exact slice_all a
theorem low_4_3 (a : BitVec 4) (x : BitVec 3) : BitVec.extractLsb' 0 3 (a ++ x : BitVec 7) = x := by
  rw [slice_low a x 0 3 (by decide)]; exact slice_all x
theorem high_5_2 (a : BitVec 5) (x : BitVec 2) : BitVec.extractLsb' 2 5 (a ++ x : BitVec 7) = a := by
  rw [slice_high a x 2 5 (by decide)]; exact slice_all a
theorem low_5_2 (a : BitVec 5) (x : BitVec 2) : BitVec.extractLsb' 0 2 (a ++ x : BitVec 7) = x := by
  rw [slice_low a x 0 2 (by decide)]; exact slice_all x

/-- The funct7 of an atomic: its operation, its size and its scope. -/
theorem atomic_high (a : BitVec 4) (b : BitVec 1) (c : BitVec 2) : BitVec.extractLsb' 3 4 (a ++ b ++ c : BitVec 7) = a := by
  rw [slice_high (a ++ b) c 3 4 (by decide), slice_high a b 1 4 (by decide)]; exact slice_all a
theorem atomic_mid (a : BitVec 4) (b : BitVec 1) (c : BitVec 2) : BitVec.extractLsb' 2 1 (a ++ b ++ c : BitVec 7) = b := by
  rw [slice_high (a ++ b) c 2 1 (by decide), slice_low a b 0 1 (by decide)]; exact slice_all b
theorem atomic_low (a : BitVec 4) (b : BitVec 1) (c : BitVec 2) : BitVec.extractLsb' 0 2 (a ++ b ++ c : BitVec 7) = c := by
  rw [slice_low (a ++ b) c 0 2 (by decide)]; exact slice_all c

/-- The same fields where operation and size are one literal, as in `atm.fadd`. -/
theorem fadd_high (a : BitVec 5) (c : BitVec 2) : BitVec.extractLsb' 3 4 (a ++ c : BitVec 7) = a.extractLsb' 1 4 :=
  slice_high a c 3 4 (by decide)
theorem fadd_mid (a : BitVec 5) (c : BitVec 2) : BitVec.extractLsb' 2 1 (a ++ c : BitVec 7) = a.extractLsb' 0 1 :=
  slice_high a c 2 1 (by decide)

/-- `fence.sc` is no `feset` and no `feclr`. -/
theorem fenceSc_ne (c : BitVec 2) (k : BitVec 7) (h : k.extractLsb' 2 5 ≠ 4#5) : ¬(4#5 ++ c : BitVec 7) = k :=
  fun e => h (e ▸ high_5_2 4#5 c)

/-- The immediate of FENCE: its three fields. -/
theorem fence_high (a b c : BitVec 4) : BitVec.extractLsb' 8 4 (a ++ b ++ c : BitVec 12) = a := by
  rw [slice_high (a ++ b) c 8 4 (by decide), slice_high a b 4 4 (by decide)]; exact slice_all a
theorem fence_mid (a b c : BitVec 4) : BitVec.extractLsb' 4 4 (a ++ b ++ c : BitVec 12) = b := by
  rw [slice_high (a ++ b) c 4 4 (by decide), slice_low a b 0 4 (by decide)]; exact slice_all b
theorem fence_low (a b c : BitVec 4) : BitVec.extractLsb' 0 4 (a ++ b ++ c : BitVec 12) = c := by
  rw [slice_low (a ++ b) c 0 4 (by decide)]; exact slice_all c

/-- The funct7 of `csel`: the predicate's number behind 0b01. -/
theorem csel_high (p : BitVec 5) : BitVec.extractLsb' 5 2 (1#2 ++ p : BitVec 7) = 1#2 := by
  rw [slice_high (1#2) p 5 2 (by decide)]; exact slice_all (1#2)
theorem csel_low (p : BitVec 5) : BitVec.extractLsb' 0 5 (1#2 ++ p : BitVec 7) = p := by
  rw [slice_low (1#2) p 0 5 (by decide)]; exact slice_all p
theorem csel_ne (p : BitVec 5) (k : BitVec 7) (h : k.extractLsb' 5 2 ≠ 1#2) : ¬(1#2 ++ p : BitVec 7) = k :=
  fun e => h (e ▸ csel_high p)

@[simp] theorem unused_true (i : Instr) : unused true i = .ok i := rfl

/-! ## A words -/

section
variable (f7 : BitVec 7) (rs2 rs1 rd : Reg) (f3 : BitVec 3) (op : BitVec 7)

@[simp] theorem fOp_encA : fOp (encA f7 rs2 rs1 f3 rd op) = op := by
  simp (disch := decide) only [encA, fOp, field, slice_low]; exact slice_all _
@[simp] theorem fRd_encA : fRd (encA f7 rs2 rs1 f3 rd op) = rd := by
  simp (disch := decide) only [encA, fRd, field, slice_low, slice_high]; exact slice_all _
@[simp] theorem fF3_encA : fF3 (encA f7 rs2 rs1 f3 rd op) = f3 := by
  simp (disch := decide) only [encA, fF3, field, slice_low, slice_high]; exact slice_all _
@[simp] theorem fRs1_encA : fRs1 (encA f7 rs2 rs1 f3 rd op) = rs1 := by
  simp (disch := decide) only [encA, fRs1, field, slice_low, slice_high]; exact slice_all _
@[simp] theorem fRs2_encA : fRs2 (encA f7 rs2 rs1 f3 rd op) = rs2 := by
  simp (disch := decide) only [encA, fRs2, field, slice_low, slice_high]; exact slice_all _
@[simp] theorem fF7_encA : fF7 (encA f7 rs2 rs1 f3 rd op) = f7 := by
  simp (disch := decide) only [encA, fF7, field, slice_high]; exact slice_all _

/-- Any slice of the upper seven bits. -/
theorem field_encA (lo n : Nat) (h : 25 ≤ lo) : field (encA f7 rs2 rs1 f3 rd op) lo n = f7.extractLsb' (lo - 25) n := by
  simp only [encA, field]
  rw [slice_high _ _ _ _ (by omega), slice_high _ _ _ _ (by omega), slice_high _ _ _ _ (by omega), slice_high _ _ _ _ (by omega),
    slice_high _ _ _ _ (by omega)]
  congr 1
end

/-! ## I words -/

section
variable (imm : BitVec 12) (rs1 rd : Reg) (f3 : BitVec 3) (op : BitVec 7)

@[simp] theorem fOp_encI : fOp (encI imm rs1 f3 rd op) = op := by
  simp (disch := decide) only [encI, fOp, field, slice_low]; exact slice_all _
@[simp] theorem fRd_encI : fRd (encI imm rs1 f3 rd op) = rd := by
  simp (disch := decide) only [encI, fRd, field, slice_low, slice_high]; exact slice_all _
@[simp] theorem fF3_encI : fF3 (encI imm rs1 f3 rd op) = f3 := by
  simp (disch := decide) only [encI, fF3, field, slice_low, slice_high]; exact slice_all _
@[simp] theorem fRs1_encI : fRs1 (encI imm rs1 f3 rd op) = rs1 := by
  simp (disch := decide) only [encI, fRs1, field, slice_low, slice_high]; exact slice_all _
@[simp] theorem fImmI_encI : fImmI (encI imm rs1 f3 rd op) = imm := by
  simp (disch := decide) only [encI, fImmI, field, slice_high]; exact slice_all _

/-- Any slice of the upper twelve bits. -/
theorem field_encI (lo n : Nat) (h : 20 ≤ lo) : field (encI imm rs1 f3 rd op) lo n = imm.extractLsb' (lo - 20) n := by
  simp only [encI, field]
  rw [slice_high _ _ _ _ (by omega), slice_high _ _ _ _ (by omega), slice_high _ _ _ _ (by omega), slice_high _ _ _ _ (by omega)]
  congr 1
end

/-! ## S and B words -/

section
variable (imm : BitVec 12) (rs2 rs1 : Reg) (f3 : BitVec 3) (op : BitVec 7)

@[simp] theorem fOp_encS : fOp (encS imm rs2 rs1 f3 op) = op := by simp [encS]
@[simp] theorem fF3_encS : fF3 (encS imm rs2 rs1 f3 op) = f3 := by simp [encS]
@[simp] theorem fRs1_encS : fRs1 (encS imm rs2 rs1 f3 op) = rs1 := by simp [encS]
@[simp] theorem fRs2_encS : fRs2 (encS imm rs2 rs1 f3 op) = rs2 := by simp [encS]
@[simp] theorem fImmS_encS : fImmS (encS imm rs2 rs1 f3 op) = imm := by
  have h1 : field (encS imm rs2 rs1 f3 op) 25 7 = imm.extractLsb' 5 7 := fF7_encA _ _ _ _ _ _
  have h2 : field (encS imm rs2 rs1 f3 op) 7 5 = imm.extractLsb' 0 5 := fRd_encA _ _ _ _ _ _
  rw [fImmS, h1, h2, slice_join imm 0 5 7 5 rfl]
  exact slice_all _

@[simp] theorem fOp_encB : fOp (encB imm rs2 rs1 f3 op) = op := by simp [encB]
@[simp] theorem fF3_encB : fF3 (encB imm rs2 rs1 f3 op) = f3 := by simp [encB]
@[simp] theorem fRs1_encB : fRs1 (encB imm rs2 rs1 f3 op) = rs1 := by simp [encB]
@[simp] theorem fRs2_encB : fRs2 (encB imm rs2 rs1 f3 op) = rs2 := by simp [encB]

/-- A slice of the rd field of an A word. -/
theorem field_encA_rd (f7 : BitVec 7) (rs2 rs1 rd : Reg) (f3 : BitVec 3) (op : BitVec 7) (lo n : Nat) (h : 7 ≤ lo) (h' : lo + n ≤ 12) :
    field (encA f7 rs2 rs1 f3 rd op) lo n = rd.extractLsb' (lo - 7) n := by
  simp only [encA, field]
  rw [slice_high _ _ _ _ h, slice_low _ _ _ _ (by omega)]

@[simp] theorem fImmB_encB : fImmB (encB imm rs2 rs1 f3 op) = imm := by
  have h1 : field (encB imm rs2 rs1 f3 op) 31 1 = imm.extractLsb' 11 1 := by
    rw [encB, field_encA _ _ _ _ _ _ _ _ (by decide), slice_high _ _ _ _ (by decide), slice_slice _ _ _ _ _ (by decide)]
  have h2 : field (encB imm rs2 rs1 f3 op) 7 1 = imm.extractLsb' 10 1 := by
    rw [encB, field_encA_rd _ _ _ _ _ _ _ _ (by decide) (by decide), slice_low _ _ _ _ (by decide), slice_slice _ _ _ _ _ (by decide)]
  have h3 : field (encB imm rs2 rs1 f3 op) 25 6 = imm.extractLsb' 4 6 := by
    rw [encB, field_encA _ _ _ _ _ _ _ _ (by decide), slice_low _ _ _ _ (by decide), slice_slice _ _ _ _ _ (by decide)]
  have h4 : field (encB imm rs2 rs1 f3 op) 8 4 = imm.extractLsb' 0 4 := by
    rw [encB, field_encA_rd _ _ _ _ _ _ _ _ (by decide) (by decide), slice_high _ _ _ _ (by decide), slice_slice _ _ _ _ _ (by decide)]
  rw [fImmB, h1, h2, h3, h4, slice_join imm 10 1 1 11 rfl, slice_join imm 4 6 2 10 rfl, slice_join imm 0 4 8 4 rfl]
  exact slice_all _
end

/-! ## U, J, Q and L words -/

section
variable (imm : BitVec 20) (rd : Reg) (op : BitVec 7)

@[simp] theorem fOp_encU : fOp (encU imm rd op) = op := by
  simp (disch := decide) only [encU, fOp, field, slice_low]; exact slice_all _
@[simp] theorem fRd_encU : fRd (encU imm rd op) = rd := by
  simp (disch := decide) only [encU, fRd, field, slice_low, slice_high]; exact slice_all _
@[simp] theorem fImmU_encU : fImmU (encU imm rd op) = imm := by
  simp (disch := decide) only [encU, fImmU, field, slice_high]; exact slice_all _

@[simp] theorem fOp_encJ : fOp (encJ imm rd op) = op := by
  simp (disch := decide) only [encJ, fOp, field, slice_low]; exact slice_all _
@[simp] theorem fRd_encJ : fRd (encJ imm rd op) = rd := by
  simp (disch := decide) only [encJ, fRd, field, slice_low, slice_high]; exact slice_all _
@[simp] theorem fImmJ_encJ : fImmJ (encJ imm rd op) = imm := by
  have h1 : field (encJ imm rd op) 31 1 = imm.extractLsb' 19 1 := by
    simp (disch := decide) only [encJ, field, slice_high]; exact slice_all _
  have h2 : field (encJ imm rd op) 12 8 = imm.extractLsb' 11 8 := by
    simp (disch := decide) only [encJ, field, slice_low, slice_high]; exact slice_all _
  have h3 : field (encJ imm rd op) 20 1 = imm.extractLsb' 10 1 := by
    simp (disch := decide) only [encJ, field, slice_low, slice_high]; exact slice_all _
  have h4 : field (encJ imm rd op) 21 10 = imm.extractLsb' 0 10 := by
    simp (disch := decide) only [encJ, field, slice_low, slice_high]; exact slice_all _
  rw [fImmJ, h1, h2, h3, h4, slice_join imm 11 8 1 19 rfl, slice_join imm 10 1 9 11 rfl, slice_join imm 0 10 10 10 rfl]
  exact slice_all _
end

section
variable (rs3 rs2 rs1 rd : Reg) (f2 : BitVec 2) (f3 : BitVec 3) (op : BitVec 7)

@[simp] theorem fOp_encQ : fOp (encQ rs3 f2 rs2 rs1 f3 rd op) = op := by
  simp (disch := decide) only [encQ, fOp, field, slice_low]; exact slice_all _
@[simp] theorem fRd_encQ : fRd (encQ rs3 f2 rs2 rs1 f3 rd op) = rd := by
  simp (disch := decide) only [encQ, fRd, field, slice_low, slice_high]; exact slice_all _
@[simp] theorem fF3_encQ : fF3 (encQ rs3 f2 rs2 rs1 f3 rd op) = f3 := by
  simp (disch := decide) only [encQ, fF3, field, slice_low, slice_high]; exact slice_all _
@[simp] theorem fRs1_encQ : fRs1 (encQ rs3 f2 rs2 rs1 f3 rd op) = rs1 := by
  simp (disch := decide) only [encQ, fRs1, field, slice_low, slice_high]; exact slice_all _
@[simp] theorem fRs2_encQ : fRs2 (encQ rs3 f2 rs2 rs1 f3 rd op) = rs2 := by
  simp (disch := decide) only [encQ, fRs2, field, slice_low, slice_high]; exact slice_all _
@[simp] theorem fF2_encQ : fF2 (encQ rs3 f2 rs2 rs1 f3 rd op) = f2 := by
  simp (disch := decide) only [encQ, fF2, field, slice_low, slice_high]; exact slice_all _
@[simp] theorem fRs3_encQ : fRs3 (encQ rs3 f2 rs2 rs1 f3 rd op) = rs3 := by
  simp (disch := decide) only [encQ, fRs3, field, slice_high]; exact slice_all _
end

section
variable (top : BitVec 1) (n : BitVec 21) (f3 : BitVec 3) (op : BitVec 7)

@[simp] theorem fOp_encL : fOp (encL top n f3 op) = op := by
  simp (disch := decide) only [encL, fOp, field, slice_low]; exact slice_all _
@[simp] theorem fF3_encL : fF3 (encL top n f3 op) = f3 := by
  simp (disch := decide) only [encL, fF3, field, slice_low, slice_high]; exact slice_all _
@[simp] theorem field_encL_top : field (encL top n f3 op) 31 1 = top := by
  simp (disch := decide) only [encL, field, slice_high]; exact slice_all _
@[simp] theorem fImmL_encL : fImmL (encL top n f3 op) = n := by
  have h1 : field (encL top n f3 op) 20 11 = n.extractLsb' 10 11 := by
    simp (disch := decide) only [encL, field, slice_low, slice_high]; exact slice_all _
  have h2 : field (encL top n f3 op) 15 5 = n.extractLsb' 5 5 := by
    simp (disch := decide) only [encL, field, slice_low, slice_high]; exact slice_all _
  have h3 : field (encL top n f3 op) 7 5 = n.extractLsb' 0 5 := by
    simp (disch := decide) only [encL, field, slice_low, slice_high]; exact slice_all _
  rw [fImmL, h1, h2, h3, slice_join n 5 5 11 10 rfl, slice_join n 0 5 16 5 rfl]
  exact slice_all _
end

end Sys2Proof
end

