-- ==== Sys2Proof/Laws/PerInstr.lean ====
section
/-! SUPPORT. The family Encodes, constructor by constructor: decoding the word of a well-formed instruction gives it back. -/

namespace Sys2Proof.Laws.Encodes

/-- What decoding the instruction's word gives. -/
def Statement (i : Instr) : Prop := i.wellFormed = true → ∀ w, encode i = some w → decode w = .ok i

theorem of_select {i : Instr} {w : BitVec 32} (he : encode i = some w) (hd : decodeSelect w = .ok i) : Statement i := by
  intro hw v hv
  rw [he] at hv
  cases hv
  simp [decode, hd, hw]

theorem of_none {i : Instr} (he : encode i = none) : Statement i := by
  intro _ v hv
  rw [he] at hv
  cases hv

theorem lui (rd : Reg) (imm : BitVec 20) : Statement (.lui rd imm) :=
  of_select rfl (by simp [decodeSelect])
theorem auipc (rd : Reg) (imm : BitVec 20) : Statement (.auipc rd imm) :=
  of_select rfl (by simp [decodeSelect])
theorem jal (rd : Reg) (imm : BitVec 20) : Statement (.jal rd imm) :=
  of_select rfl (by simp [decodeSelect])
theorem jalr (rd : Reg) (rs1 : Reg) (imm : BitVec 12) : Statement (.jalr rd rs1 imm) :=
  of_select rfl (by simp [decodeSelect])
theorem beq (rs1 : Reg) (rs2 : Reg) (imm : BitVec 12) : Statement (.beq rs1 rs2 imm) :=
  of_select rfl (by simp [decodeSelect, decodeBranch])
theorem bne (rs1 : Reg) (rs2 : Reg) (imm : BitVec 12) : Statement (.bne rs1 rs2 imm) :=
  of_select rfl (by simp [decodeSelect, decodeBranch])
theorem blt (rs1 : Reg) (rs2 : Reg) (imm : BitVec 12) : Statement (.blt rs1 rs2 imm) :=
  of_select rfl (by simp [decodeSelect, decodeBranch])
theorem bge (rs1 : Reg) (rs2 : Reg) (imm : BitVec 12) : Statement (.bge rs1 rs2 imm) :=
  of_select rfl (by simp [decodeSelect, decodeBranch])
theorem bltu (rs1 : Reg) (rs2 : Reg) (imm : BitVec 12) : Statement (.bltu rs1 rs2 imm) :=
  of_select rfl (by simp [decodeSelect, decodeBranch])
theorem bgeu (rs1 : Reg) (rs2 : Reg) (imm : BitVec 12) : Statement (.bgeu rs1 rs2 imm) :=
  of_select rfl (by simp [decodeSelect, decodeBranch])
theorem lb (rd : Reg) (rs1 : Reg) (imm : BitVec 12) : Statement (.lb rd rs1 imm) :=
  of_select rfl (by simp [decodeSelect, decodeLoad])
theorem lh (rd : Reg) (rs1 : Reg) (imm : BitVec 12) : Statement (.lh rd rs1 imm) :=
  of_select rfl (by simp [decodeSelect, decodeLoad])
theorem lw (rd : Reg) (rs1 : Reg) (imm : BitVec 12) : Statement (.lw rd rs1 imm) :=
  of_select rfl (by simp [decodeSelect, decodeLoad])
theorem ld (rd : Reg) (rs1 : Reg) (imm : BitVec 12) : Statement (.ld rd rs1 imm) :=
  of_select rfl (by simp [decodeSelect, decodeLoad])
theorem lbu (rd : Reg) (rs1 : Reg) (imm : BitVec 12) : Statement (.lbu rd rs1 imm) :=
  of_select rfl (by simp [decodeSelect, decodeLoad])
theorem lhu (rd : Reg) (rs1 : Reg) (imm : BitVec 12) : Statement (.lhu rd rs1 imm) :=
  of_select rfl (by simp [decodeSelect, decodeLoad])
theorem lwu (rd : Reg) (rs1 : Reg) (imm : BitVec 12) : Statement (.lwu rd rs1 imm) :=
  of_select rfl (by simp [decodeSelect, decodeLoad])
theorem sb (rs1 : Reg) (rs2 : Reg) (imm : BitVec 12) : Statement (.sb rs1 rs2 imm) :=
  of_select rfl (by simp [decodeSelect, decodeStore])
theorem sh (rs1 : Reg) (rs2 : Reg) (imm : BitVec 12) : Statement (.sh rs1 rs2 imm) :=
  of_select rfl (by simp [decodeSelect, decodeStore])
theorem sw (rs1 : Reg) (rs2 : Reg) (imm : BitVec 12) : Statement (.sw rs1 rs2 imm) :=
  of_select rfl (by simp [decodeSelect, decodeStore])
theorem sd (rs1 : Reg) (rs2 : Reg) (imm : BitVec 12) : Statement (.sd rs1 rs2 imm) :=
  of_select rfl (by simp [decodeSelect, decodeStore])
theorem addi (rd : Reg) (rs1 : Reg) (imm : BitVec 12) : Statement (.addi rd rs1 imm) :=
  of_select rfl (by simp [decodeSelect, decodeOpImm])
theorem slti (rd : Reg) (rs1 : Reg) (imm : BitVec 12) : Statement (.slti rd rs1 imm) :=
  of_select rfl (by simp [decodeSelect, decodeOpImm])
theorem sltiu (rd : Reg) (rs1 : Reg) (imm : BitVec 12) : Statement (.sltiu rd rs1 imm) :=
  of_select rfl (by simp [decodeSelect, decodeOpImm])
theorem xori (rd : Reg) (rs1 : Reg) (imm : BitVec 12) : Statement (.xori rd rs1 imm) :=
  of_select rfl (by simp [decodeSelect, decodeOpImm])
theorem ori (rd : Reg) (rs1 : Reg) (imm : BitVec 12) : Statement (.ori rd rs1 imm) :=
  of_select rfl (by simp [decodeSelect, decodeOpImm])
theorem andi (rd : Reg) (rs1 : Reg) (imm : BitVec 12) : Statement (.andi rd rs1 imm) :=
  of_select rfl (by simp [decodeSelect, decodeOpImm])
theorem slli (rd : Reg) (rs1 : Reg) (sh : BitVec 6) : Statement (.slli rd rs1 sh) :=
  of_select rfl (by simp [decodeSelect, decodeOpImm, field_encI, high_6_6, low_6_6])
theorem srli (rd : Reg) (rs1 : Reg) (sh : BitVec 6) : Statement (.srli rd rs1 sh) :=
  of_select rfl (by simp [decodeSelect, decodeOpImm, field_encI, high_6_6, low_6_6])
theorem srai (rd : Reg) (rs1 : Reg) (sh : BitVec 6) : Statement (.srai rd rs1 sh) :=
  of_select rfl (by simp [decodeSelect, decodeOpImm, field_encI, high_6_6, low_6_6])
theorem add (rd : Reg) (rs1 : Reg) (rs2 : Reg) : Statement (.add rd rs1 rs2) :=
  of_select rfl (by simp [decodeSelect, decodeOp])
theorem sub (rd : Reg) (rs1 : Reg) (rs2 : Reg) : Statement (.sub rd rs1 rs2) :=
  of_select rfl (by simp [decodeSelect, decodeOp])
theorem sll (rd : Reg) (rs1 : Reg) (rs2 : Reg) : Statement (.sll rd rs1 rs2) :=
  of_select rfl (by simp [decodeSelect, decodeOp])
theorem slt (rd : Reg) (rs1 : Reg) (rs2 : Reg) : Statement (.slt rd rs1 rs2) :=
  of_select rfl (by simp [decodeSelect, decodeOp])
theorem sltu (rd : Reg) (rs1 : Reg) (rs2 : Reg) : Statement (.sltu rd rs1 rs2) :=
  of_select rfl (by simp [decodeSelect, decodeOp])
theorem xor (rd : Reg) (rs1 : Reg) (rs2 : Reg) : Statement (.xor rd rs1 rs2) :=
  of_select rfl (by simp [decodeSelect, decodeOp])
theorem srl (rd : Reg) (rs1 : Reg) (rs2 : Reg) : Statement (.srl rd rs1 rs2) :=
  of_select rfl (by simp [decodeSelect, decodeOp])
theorem sra (rd : Reg) (rs1 : Reg) (rs2 : Reg) : Statement (.sra rd rs1 rs2) :=
  of_select rfl (by simp [decodeSelect, decodeOp])
theorem or (rd : Reg) (rs1 : Reg) (rs2 : Reg) : Statement (.or rd rs1 rs2) :=
  of_select rfl (by simp [decodeSelect, decodeOp])
theorem and (rd : Reg) (rs1 : Reg) (rs2 : Reg) : Statement (.and rd rs1 rs2) :=
  of_select rfl (by simp [decodeSelect, decodeOp])
theorem fence (fm : BitVec 4) (pred : BitVec 4) (succ : BitVec 4) : Statement (.fence fm pred succ) :=
  of_select rfl (by simp [decodeSelect, field_encI, fence_high, fence_mid, fence_low])
theorem addiw (rd : Reg) (rs1 : Reg) (imm : BitVec 12) : Statement (.addiw rd rs1 imm) :=
  of_select rfl (by simp [decodeSelect, decodeOpImm32])
theorem slliw (rd : Reg) (rs1 : Reg) (sh : BitVec 5) : Statement (.slliw rd rs1 sh) :=
  of_select rfl (by simp [decodeSelect, decodeOpImm32])
theorem srliw (rd : Reg) (rs1 : Reg) (sh : BitVec 5) : Statement (.srliw rd rs1 sh) :=
  of_select rfl (by simp [decodeSelect, decodeOpImm32])
theorem sraiw (rd : Reg) (rs1 : Reg) (sh : BitVec 5) : Statement (.sraiw rd rs1 sh) :=
  of_select rfl (by simp [decodeSelect, decodeOpImm32])
theorem addw (rd : Reg) (rs1 : Reg) (rs2 : Reg) : Statement (.addw rd rs1 rs2) :=
  of_select rfl (by simp [decodeSelect, decodeOp32])
theorem subw (rd : Reg) (rs1 : Reg) (rs2 : Reg) : Statement (.subw rd rs1 rs2) :=
  of_select rfl (by simp [decodeSelect, decodeOp32])
theorem sllw (rd : Reg) (rs1 : Reg) (rs2 : Reg) : Statement (.sllw rd rs1 rs2) :=
  of_select rfl (by simp [decodeSelect, decodeOp32])
theorem srlw (rd : Reg) (rs1 : Reg) (rs2 : Reg) : Statement (.srlw rd rs1 rs2) :=
  of_select rfl (by simp [decodeSelect, decodeOp32])
theorem sraw (rd : Reg) (rs1 : Reg) (rs2 : Reg) : Statement (.sraw rd rs1 rs2) :=
  of_select rfl (by simp [decodeSelect, decodeOp32])
theorem mul (rd : Reg) (rs1 : Reg) (rs2 : Reg) : Statement (.mul rd rs1 rs2) :=
  of_select rfl (by simp [decodeSelect, decodeOp])
theorem mulh (rd : Reg) (rs1 : Reg) (rs2 : Reg) : Statement (.mulh rd rs1 rs2) :=
  of_select rfl (by simp [decodeSelect, decodeOp])
theorem mulhsu (rd : Reg) (rs1 : Reg) (rs2 : Reg) : Statement (.mulhsu rd rs1 rs2) :=
  of_select rfl (by simp [decodeSelect, decodeOp])
theorem mulhu (rd : Reg) (rs1 : Reg) (rs2 : Reg) : Statement (.mulhu rd rs1 rs2) :=
  of_select rfl (by simp [decodeSelect, decodeOp])
theorem div (rd : Reg) (rs1 : Reg) (rs2 : Reg) : Statement (.div rd rs1 rs2) :=
  of_select rfl (by simp [decodeSelect, decodeOp])
theorem divu (rd : Reg) (rs1 : Reg) (rs2 : Reg) : Statement (.divu rd rs1 rs2) :=
  of_select rfl (by simp [decodeSelect, decodeOp])
theorem rem (rd : Reg) (rs1 : Reg) (rs2 : Reg) : Statement (.rem rd rs1 rs2) :=
  of_select rfl (by simp [decodeSelect, decodeOp])
theorem remu (rd : Reg) (rs1 : Reg) (rs2 : Reg) : Statement (.remu rd rs1 rs2) :=
  of_select rfl (by simp [decodeSelect, decodeOp])
theorem mulw (rd : Reg) (rs1 : Reg) (rs2 : Reg) : Statement (.mulw rd rs1 rs2) :=
  of_select rfl (by simp [decodeSelect, decodeOp32])
theorem divw (rd : Reg) (rs1 : Reg) (rs2 : Reg) : Statement (.divw rd rs1 rs2) :=
  of_select rfl (by simp [decodeSelect, decodeOp32])
theorem divuw (rd : Reg) (rs1 : Reg) (rs2 : Reg) : Statement (.divuw rd rs1 rs2) :=
  of_select rfl (by simp [decodeSelect, decodeOp32])
theorem remw (rd : Reg) (rs1 : Reg) (rs2 : Reg) : Statement (.remw rd rs1 rs2) :=
  of_select rfl (by simp [decodeSelect, decodeOp32])
theorem remuw (rd : Reg) (rs1 : Reg) (rs2 : Reg) : Statement (.remuw rd rs1 rs2) :=
  of_select rfl (by simp [decodeSelect, decodeOp32])
theorem csrrw (rd : Reg) (rs1 : Reg) (csr : BitVec 12) : Statement (.csrrw rd rs1 csr) :=
  of_select rfl (by simp [decodeSelect, decodeSystem])
theorem csrrs (rd : Reg) (rs1 : Reg) (csr : BitVec 12) : Statement (.csrrs rd rs1 csr) :=
  of_select rfl (by simp [decodeSelect, decodeSystem])
theorem csrrc (rd : Reg) (rs1 : Reg) (csr : BitVec 12) : Statement (.csrrc rd rs1 csr) :=
  of_select rfl (by simp [decodeSelect, decodeSystem])
theorem csrrwi (rd : Reg) (csr : BitVec 12) (uimm : BitVec 5) : Statement (.csrrwi rd csr uimm) :=
  of_select rfl (by simp [decodeSelect, decodeSystem])
theorem csrrsi (rd : Reg) (csr : BitVec 12) (uimm : BitVec 5) : Statement (.csrrsi rd csr uimm) :=
  of_select rfl (by simp [decodeSelect, decodeSystem])
theorem csrrci (rd : Reg) (csr : BitVec 12) (uimm : BitVec 5) : Statement (.csrrci rd csr uimm) :=
  of_select rfl (by simp [decodeSelect, decodeSystem])
theorem flw (rd : Reg) (rs1 : Reg) (imm : BitVec 12) : Statement (.flw rd rs1 imm) :=
  of_select rfl (by simp [decodeSelect])
theorem fsw (rs1 : Reg) (rs2 : Reg) (imm : BitVec 12) : Statement (.fsw rs1 rs2 imm) :=
  of_select rfl (by simp [decodeSelect])
theorem fmaddS (rd : Reg) (rs1 : Reg) (rs2 : Reg) (rs3 : Reg) (rm : BitVec 3) : Statement (.fmaddS rd rs1 rs2 rs3 rm) :=
  of_select rfl (by simp [decodeSelect])
theorem fmsubS (rd : Reg) (rs1 : Reg) (rs2 : Reg) (rs3 : Reg) (rm : BitVec 3) : Statement (.fmsubS rd rs1 rs2 rs3 rm) :=
  of_select rfl (by simp [decodeSelect])
theorem fnmsubS (rd : Reg) (rs1 : Reg) (rs2 : Reg) (rs3 : Reg) (rm : BitVec 3) : Statement (.fnmsubS rd rs1 rs2 rs3 rm) :=
  of_select rfl (by simp [decodeSelect])
theorem fnmaddS (rd : Reg) (rs1 : Reg) (rs2 : Reg) (rs3 : Reg) (rm : BitVec 3) : Statement (.fnmaddS rd rs1 rs2 rs3 rm) :=
  of_select rfl (by simp [decodeSelect])
theorem faddS (rd : Reg) (rs1 : Reg) (rs2 : Reg) (rm : BitVec 3) : Statement (.faddS rd rs1 rs2 rm) :=
  of_select rfl (by simp [decodeSelect, decodeFp])
theorem fsubS (rd : Reg) (rs1 : Reg) (rs2 : Reg) (rm : BitVec 3) : Statement (.fsubS rd rs1 rs2 rm) :=
  of_select rfl (by simp [decodeSelect, decodeFp])
theorem fmulS (rd : Reg) (rs1 : Reg) (rs2 : Reg) (rm : BitVec 3) : Statement (.fmulS rd rs1 rs2 rm) :=
  of_select rfl (by simp [decodeSelect, decodeFp])
theorem fdivS (rd : Reg) (rs1 : Reg) (rs2 : Reg) (rm : BitVec 3) : Statement (.fdivS rd rs1 rs2 rm) :=
  of_select rfl (by simp [decodeSelect, decodeFp])
theorem fsqrtS (rd : Reg) (rs1 : Reg) (rm : BitVec 3) : Statement (.fsqrtS rd rs1 rm) :=
  of_select rfl (by simp [decodeSelect, decodeFp])
theorem fsgnjS (rd : Reg) (rs1 : Reg) (rs2 : Reg) : Statement (.fsgnjS rd rs1 rs2) :=
  of_select rfl (by simp [decodeSelect, decodeFp])
theorem fsgnjnS (rd : Reg) (rs1 : Reg) (rs2 : Reg) : Statement (.fsgnjnS rd rs1 rs2) :=
  of_select rfl (by simp [decodeSelect, decodeFp])
theorem fsgnjxS (rd : Reg) (rs1 : Reg) (rs2 : Reg) : Statement (.fsgnjxS rd rs1 rs2) :=
  of_select rfl (by simp [decodeSelect, decodeFp])
theorem fminS (rd : Reg) (rs1 : Reg) (rs2 : Reg) : Statement (.fminS rd rs1 rs2) :=
  of_select rfl (by simp [decodeSelect, decodeFp])
theorem fmaxS (rd : Reg) (rs1 : Reg) (rs2 : Reg) : Statement (.fmaxS rd rs1 rs2) :=
  of_select rfl (by simp [decodeSelect, decodeFp])
theorem fcvtWS (rd : Reg) (rs1 : Reg) (rm : BitVec 3) : Statement (.fcvtWS rd rs1 rm) :=
  of_select rfl (by simp [decodeSelect, decodeFp])
theorem fcvtWuS (rd : Reg) (rs1 : Reg) (rm : BitVec 3) : Statement (.fcvtWuS rd rs1 rm) :=
  of_select rfl (by simp [decodeSelect, decodeFp])
theorem fcvtLS (rd : Reg) (rs1 : Reg) (rm : BitVec 3) : Statement (.fcvtLS rd rs1 rm) :=
  of_select rfl (by simp [decodeSelect, decodeFp])
theorem fcvtLuS (rd : Reg) (rs1 : Reg) (rm : BitVec 3) : Statement (.fcvtLuS rd rs1 rm) :=
  of_select rfl (by simp [decodeSelect, decodeFp])
theorem fcvtSW (rd : Reg) (rs1 : Reg) (rm : BitVec 3) : Statement (.fcvtSW rd rs1 rm) :=
  of_select rfl (by simp [decodeSelect, decodeFp])
theorem fcvtSWu (rd : Reg) (rs1 : Reg) (rm : BitVec 3) : Statement (.fcvtSWu rd rs1 rm) :=
  of_select rfl (by simp [decodeSelect, decodeFp])
theorem fcvtSL (rd : Reg) (rs1 : Reg) (rm : BitVec 3) : Statement (.fcvtSL rd rs1 rm) :=
  of_select rfl (by simp [decodeSelect, decodeFp])
theorem fcvtSLu (rd : Reg) (rs1 : Reg) (rm : BitVec 3) : Statement (.fcvtSLu rd rs1 rm) :=
  of_select rfl (by simp [decodeSelect, decodeFp])
theorem fmvXW (rd : Reg) (rs1 : Reg) : Statement (.fmvXW rd rs1) :=
  of_select rfl (by simp [decodeSelect, decodeFp])
theorem fmvWX (rd : Reg) (rs1 : Reg) : Statement (.fmvWX rd rs1) :=
  of_select rfl (by simp [decodeSelect, decodeFp])
theorem feqS (rd : Reg) (rs1 : Reg) (rs2 : Reg) : Statement (.feqS rd rs1 rs2) :=
  of_select rfl (by simp [decodeSelect, decodeFp])
theorem fltS (rd : Reg) (rs1 : Reg) (rs2 : Reg) : Statement (.fltS rd rs1 rs2) :=
  of_select rfl (by simp [decodeSelect, decodeFp])
theorem fleS (rd : Reg) (rs1 : Reg) (rs2 : Reg) : Statement (.fleS rd rs1 rs2) :=
  of_select rfl (by simp [decodeSelect, decodeFp])
theorem fclassS (rd : Reg) (rs1 : Reg) : Statement (.fclassS rd rs1) :=
  of_select rfl (by simp [decodeSelect, decodeFp])
theorem migrS (rs1 : Reg) : Statement (.migrS rs1) :=
  of_select rfl (by simp [decodeSelect, decodeCustom0, decodeC0Move])
theorem migrL (rs1 : Reg) : Statement (.migrL rs1) :=
  of_select rfl (by simp [decodeSelect, decodeCustom0, decodeC0Move])
theorem migrH (rs1 : Reg) : Statement (.migrH rs1) :=
  of_select rfl (by simp [decodeSelect, decodeCustom0, decodeC0Move])
theorem migrA (rs1 : Reg) : Statement (.migrA rs1) :=
  of_select rfl (by simp [decodeSelect, decodeCustom0, decodeC0Move])
theorem twait (rd : Reg) (rs1 : Reg) : Statement (.twait rd rs1) :=
  of_select rfl (by simp [decodeSelect, decodeCustom0, decodeC0Move])
theorem gang (rd : Reg) (rs1 : Reg) : Statement (.gang rd rs1) :=
  of_select rfl (by simp [decodeSelect, decodeCustom0, decodeC0Move])
theorem pcmpEq (rd : Reg) (rs1 : Reg) (rs2 : Reg) : Statement (.pcmpEq rd rs1 rs2) :=
  of_select rfl (by simp [decodeSelect, decodeCustom0, decodeC0Pred])
theorem pcmpNe (rd : Reg) (rs1 : Reg) (rs2 : Reg) : Statement (.pcmpNe rd rs1 rs2) :=
  of_select rfl (by simp [decodeSelect, decodeCustom0, decodeC0Pred])
theorem pcmpLt (rd : Reg) (rs1 : Reg) (rs2 : Reg) : Statement (.pcmpLt rd rs1 rs2) :=
  of_select rfl (by simp [decodeSelect, decodeCustom0, decodeC0Pred])
theorem pcmpGe (rd : Reg) (rs1 : Reg) (rs2 : Reg) : Statement (.pcmpGe rd rs1 rs2) :=
  of_select rfl (by simp [decodeSelect, decodeCustom0, decodeC0Pred])
theorem pcmpLtu (rd : Reg) (rs1 : Reg) (rs2 : Reg) : Statement (.pcmpLtu rd rs1 rs2) :=
  of_select rfl (by simp [decodeSelect, decodeCustom0, decodeC0Pred])
theorem pcmpGeu (rd : Reg) (rs1 : Reg) (rs2 : Reg) : Statement (.pcmpGeu rd rs1 rs2) :=
  of_select rfl (by simp [decodeSelect, decodeCustom0, decodeC0Pred])
theorem pand (rd : Reg) (rs1 : Reg) (rs2 : Reg) : Statement (.pand rd rs1 rs2) :=
  of_select rfl (by simp [decodeSelect, decodeCustom0, decodeC0Pred])
theorem por (rd : Reg) (rs1 : Reg) (rs2 : Reg) : Statement (.por rd rs1 rs2) :=
  of_select rfl (by simp [decodeSelect, decodeCustom0, decodeC0Pred])
theorem pxor (rd : Reg) (rs1 : Reg) (rs2 : Reg) : Statement (.pxor rd rs1 rs2) :=
  of_select rfl (by simp [decodeSelect, decodeCustom0, decodeC0Pred])
theorem pandn (rd : Reg) (rs1 : Reg) (rs2 : Reg) : Statement (.pandn rd rs1 rs2) :=
  of_select rfl (by simp [decodeSelect, decodeCustom0, decodeC0Pred])
theorem pmov (rd : Reg) : Statement (.pmov rd) :=
  of_select rfl (by simp [decodeSelect, decodeCustom0, decodeC0Pred])
theorem pwr (rs1 : Reg) : Statement (.pwr rs1) :=
  of_select rfl (by simp [decodeSelect, decodeCustom0, decodeC0Pred])
theorem csel (rd : Reg) (rs1 : Reg) (rs2 : Reg) (p : BitVec 5) : Statement (.csel rd rs1 rs2 p) :=
  of_select rfl (by simp [decodeSelect, decodeCustom0, decodeC0Pred, csel_ne, field_encA, csel_high, csel_low])
theorem bp (p : BitVec 5) (imm : BitVec 12) : Statement (.bp p imm) :=
  of_select rfl (by simp [decodeSelect, decodeCustom0, decodeC0Branch])
theorem bnp (p : BitVec 5) (imm : BitVec 12) : Statement (.bnp p imm) :=
  of_select rfl (by simp [decodeSelect, decodeCustom0, decodeC0Branch])
theorem itnext (x : Reg) (imm : BitVec 12) : Statement (.itnext x imm) :=
  of_select rfl (by simp [decodeSelect, decodeCustom0, decodeC0Branch])
theorem ldk (rd : Reg) (n : BitVec 8) : Statement (.ldk rd n) :=
  of_select rfl (by simp [decodeSelect, decodeCustom0, decodeC0Const, field_encI, high_4_8, low_4_8])
theorem fldk (rd : Reg) (n : BitVec 8) : Statement (.fldk rd n) :=
  of_select rfl (by simp [decodeSelect, decodeCustom0, decodeC0Const, field_encI, high_4_8, low_4_8])
theorem msend (rd : Reg) (rs1 : Reg) (rs2 : Reg) (n : BitVec 3) : Statement (.msend rd rs1 rs2 n) :=
  of_select rfl (by simp [decodeSelect, decodeCustom0, decodeC0Msg, field_encA, high_4_3, low_4_3])
theorem msendr (rd : Reg) (rs1 : Reg) (rs2 : Reg) : Statement (.msendr rd rs1 rs2) :=
  of_select rfl (by simp [decodeSelect, decodeCustom0, decodeC0Msg, field_encA])
theorem mpoll (rd : Reg) : Statement (.mpoll rd) :=
  of_select rfl (by simp [decodeSelect, decodeCustom0, decodeC0Msg, field_encA])
theorem klook (rd : Reg) (rs1 : Reg) : Statement (.klook rd rs1) :=
  of_select rfl (by simp [decodeSelect, decodeCustom0, decodeC0Map])
theorem klookC (rd : Reg) (rs1 : Reg) (rs2 : Reg) : Statement (.klookC rd rs1 rs2) :=
  of_select rfl (by simp [decodeSelect, decodeCustom0, decodeC0Map])
theorem klookP (rd : Reg) (rs1 : Reg) : Statement (.klookP rd rs1) :=
  of_select rfl (by simp [decodeSelect, decodeCustom0, decodeC0Map])
theorem kbind (rd : Reg) (rs2 : Reg) : Statement (.kbind rd rs2) :=
  of_select rfl (by simp [decodeSelect, decodeCustom0, decodeC0Map])
theorem kpin (rd : Reg) (rs2 : Reg) : Statement (.kpin rd rs2) :=
  of_select rfl (by simp [decodeSelect, decodeCustom0, decodeC0Map])
theorem kunpin (rd : Reg) (rs2 : Reg) : Statement (.kunpin rd rs2) :=
  of_select rfl (by simp [decodeSelect, decodeCustom0, decodeC0Map])
theorem kunbind (rd : Reg) (rs2 : Reg) : Statement (.kunbind rd rs2) :=
  of_select rfl (by simp [decodeSelect, decodeCustom0, decodeC0Map])
theorem kabandon (rd : Reg) (rs2 : Reg) : Statement (.kabandon rd rs2) :=
  of_select rfl (by simp [decodeSelect, decodeCustom0, decodeC0Map])
theorem kvict (rd : Reg) : Statement (.kvict rd) :=
  of_select rfl (by simp [decodeSelect, decodeCustom0, decodeC0Map])
theorem kwait (rd : Reg) (rs2 : Reg) : Statement (.kwait rd rs2) :=
  of_select rfl (by simp [decodeSelect, decodeCustom0, decodeC0Map])
theorem kwaitU (rd : Reg) : Statement (.kwaitU rd) :=
  of_select rfl (by simp [decodeSelect, decodeCustom0, decodeC0Map])
theorem gjoin (rs1 : Reg) : Statement (.gjoin rs1) :=
  of_select rfl (by simp [decodeSelect, decodeCustom0, decodeC0Task])
theorem gleave (rs1 : Reg) : Statement (.gleave rs1) :=
  of_select rfl (by simp [decodeSelect, decodeCustom0, decodeC0Task])
theorem gbar (rs1 : Reg) : Statement (.gbar rs1) :=
  of_select rfl (by simp [decodeSelect, decodeCustom0, decodeC0Task])
theorem tspawn (rd : Reg) (rs1 : Reg) : Statement (.tspawn rd rs1) :=
  of_select rfl (by simp [decodeSelect, decodeCustom0, decodeC0Task])
theorem tdec (rs1 : Reg) : Statement (.tdec rs1) :=
  of_select rfl (by simp [decodeSelect, decodeCustom0, decodeC0Task])
theorem itclaim (rd : Reg) (rs1 : Reg) : Statement (.itclaim rd rs1) :=
  of_select rfl (by simp [decodeSelect, decodeCustom0, decodeC0Task])
theorem bsig (n : BitVec 21) : Statement (.bsig n) :=
  of_select rfl (by simp [decodeSelect, decodeCustom0])
theorem ckpt (n : BitVec 21) : Statement (.ckpt n) :=
  of_select rfl (by simp [decodeSelect, decodeCustom0])
theorem ldsync (rd : Reg) (rs1 : Reg) (imm : BitVec 12) : Statement (.ldsync rd rs1 imm) :=
  of_select rfl (by simp [decodeSelect, decodeCustom1])
theorem ldsyncC (rd : Reg) (rs1 : Reg) (imm : BitVec 12) : Statement (.ldsyncC rd rs1 imm) :=
  of_select rfl (by simp [decodeSelect, decodeCustom1])
theorem ldf (rd : Reg) (rs1 : Reg) (imm : BitVec 12) : Statement (.ldf rd rs1 imm) :=
  of_select rfl (by simp [decodeSelect, decodeCustom1])
theorem feset (rs1 : Reg) (rs2 : Reg) : Statement (.feset rs1 rs2) :=
  of_select rfl (by simp [decodeSelect, decodeCustom1, decodeC1Fence])
theorem feclr (rs1 : Reg) (rs2 : Reg) : Statement (.feclr rs1 rs2) :=
  of_select rfl (by simp [decodeSelect, decodeCustom1, decodeC1Fence])
theorem fenceSc (scope : BitVec 2) : Statement (.fenceSc scope) :=
  of_select rfl (by simp [decodeSelect, decodeCustom1, decodeC1Fence, field_encA, fenceSc_ne, high_5_2, low_5_2])
theorem atmSwap (rd : Reg) (rs1 : Reg) (rs2 : Reg) (size : BitVec 1) (scope : BitVec 2) : Statement (.atmSwap rd rs1 rs2 size scope) :=
  of_select rfl (by simp [decodeSelect, decodeCustom1, decodeC1Atomic, field_encA, atomic_high, atomic_mid, atomic_low])
theorem atmAdd (rd : Reg) (rs1 : Reg) (rs2 : Reg) (size : BitVec 1) (scope : BitVec 2) : Statement (.atmAdd rd rs1 rs2 size scope) :=
  of_select rfl (by simp [decodeSelect, decodeCustom1, decodeC1Atomic, field_encA, atomic_high, atomic_mid, atomic_low])
theorem atmAnd (rd : Reg) (rs1 : Reg) (rs2 : Reg) (size : BitVec 1) (scope : BitVec 2) : Statement (.atmAnd rd rs1 rs2 size scope) :=
  of_select rfl (by simp [decodeSelect, decodeCustom1, decodeC1Atomic, field_encA, atomic_high, atomic_mid, atomic_low])
theorem atmOr (rd : Reg) (rs1 : Reg) (rs2 : Reg) (size : BitVec 1) (scope : BitVec 2) : Statement (.atmOr rd rs1 rs2 size scope) :=
  of_select rfl (by simp [decodeSelect, decodeCustom1, decodeC1Atomic, field_encA, atomic_high, atomic_mid, atomic_low])
theorem atmXor (rd : Reg) (rs1 : Reg) (rs2 : Reg) (size : BitVec 1) (scope : BitVec 2) : Statement (.atmXor rd rs1 rs2 size scope) :=
  of_select rfl (by simp [decodeSelect, decodeCustom1, decodeC1Atomic, field_encA, atomic_high, atomic_mid, atomic_low])
theorem atmMin (rd : Reg) (rs1 : Reg) (rs2 : Reg) (size : BitVec 1) (scope : BitVec 2) : Statement (.atmMin rd rs1 rs2 size scope) :=
  of_select rfl (by simp [decodeSelect, decodeCustom1, decodeC1Atomic, field_encA, atomic_high, atomic_mid, atomic_low])
theorem atmMax (rd : Reg) (rs1 : Reg) (rs2 : Reg) (size : BitVec 1) (scope : BitVec 2) : Statement (.atmMax rd rs1 rs2 size scope) :=
  of_select rfl (by simp [decodeSelect, decodeCustom1, decodeC1Atomic, field_encA, atomic_high, atomic_mid, atomic_low])
theorem atmMinu (rd : Reg) (rs1 : Reg) (rs2 : Reg) (size : BitVec 1) (scope : BitVec 2) : Statement (.atmMinu rd rs1 rs2 size scope) :=
  of_select rfl (by simp [decodeSelect, decodeCustom1, decodeC1Atomic, field_encA, atomic_high, atomic_mid, atomic_low])
theorem atmMaxu (rd : Reg) (rs1 : Reg) (rs2 : Reg) (size : BitVec 1) (scope : BitVec 2) : Statement (.atmMaxu rd rs1 rs2 size scope) :=
  of_select rfl (by simp [decodeSelect, decodeCustom1, decodeC1Atomic, field_encA, atomic_high, atomic_mid, atomic_low])
theorem atmFadd (rd : Reg) (rs1 : Reg) (rs2 : Reg) (scope : BitVec 2) : Statement (.atmFadd rd rs1 rs2 scope) :=
  of_select rfl (by simp [decodeSelect, decodeCustom1, decodeC1Atomic, field_encA, fadd_high, fadd_mid, low_5_2])
theorem atmCas (rd : Reg) (rs1 : Reg) (rs2 : Reg) (size : BitVec 1) (scope : BitVec 2) : Statement (.atmCas rd rs1 rs2 size scope) :=
  of_select rfl (by simp [decodeSelect, decodeCustom1, decodeC1Atomic, field_encA, atomic_high, atomic_mid, atomic_low])
theorem copy (rs1 : Reg) (rs2 : Reg) (rs3 : Reg) : Statement (.copy rs1 rs2 rs3) :=
  of_select rfl (by simp [decodeSelect, decodeCustom1, decodeC1Copy])
theorem copyFe (rs1 : Reg) (rs2 : Reg) (rs3 : Reg) : Statement (.copyFe rs1 rs2 rs3) :=
  of_select rfl (by simp [decodeSelect, decodeCustom1, decodeC1Copy])
theorem copyAc (rs1 : Reg) (rs2 : Reg) (rs3 : Reg) (n : BitVec 5) : Statement (.copyAc rs1 rs2 rs3 n) :=
  of_select rfl (by simp [decodeSelect, decodeCustom1, decodeC1Copy])
theorem copyTk (rs1 : Reg) (rs2 : Reg) (rs3 : Reg) (rd : Reg) : Statement (.copyTk rs1 rs2 rs3 rd) :=
  of_select rfl (by simp [decodeSelect, decodeCustom1, decodeC1Copy])
theorem acpost (rs1 : Reg) (n : BitVec 5) : Statement (.acpost rs1 n) :=
  of_select rfl (by simp [decodeSelect, decodeCustom1, decodeC1Counter])
theorem acadd (rs1 : Reg) (rs2 : Reg) : Statement (.acadd rs1 rs2) :=
  of_select rfl (by simp [decodeSelect, decodeCustom1, decodeC1Counter])
theorem acwait (rd : Reg) (n : BitVec 5) : Statement (.acwait rd n) :=
  of_select rfl (by simp [decodeSelect, decodeCustom1, decodeC1Counter])
theorem actrig (rs1 : Reg) (n : BitVec 5) : Statement (.actrig rs1 n) :=
  of_select rfl (by simp [decodeSelect, decodeCustom1, decodeC1Counter])
theorem acread (rd : Reg) (n : BitVec 5) : Statement (.acread rd n) :=
  of_select rfl (by simp [decodeSelect, decodeCustom1, decodeC1Counter])
theorem vadd (rd : Reg) (rs1 : Reg) (rs2 : Reg) (w : BitVec 2) : Statement (.vadd rd rs1 rs2 w) :=
  of_select rfl (by simp [decodeSelect, decodeCustom2, decodeC2Int, field_encA, high_5_2, low_5_2])
theorem vsub (rd : Reg) (rs1 : Reg) (rs2 : Reg) (w : BitVec 2) : Statement (.vsub rd rs1 rs2 w) :=
  of_select rfl (by simp [decodeSelect, decodeCustom2, decodeC2Int, field_encA, high_5_2, low_5_2])
theorem vmul (rd : Reg) (rs1 : Reg) (rs2 : Reg) (w : BitVec 2) : Statement (.vmul rd rs1 rs2 w) :=
  of_select rfl (by simp [decodeSelect, decodeCustom2, decodeC2Int, field_encA, high_5_2, low_5_2])
theorem vand (rd : Reg) (rs1 : Reg) (rs2 : Reg) (w : BitVec 2) : Statement (.vand rd rs1 rs2 w) :=
  of_select rfl (by simp [decodeSelect, decodeCustom2, decodeC2Int, field_encA, high_5_2, low_5_2])
theorem vor (rd : Reg) (rs1 : Reg) (rs2 : Reg) (w : BitVec 2) : Statement (.vor rd rs1 rs2 w) :=
  of_select rfl (by simp [decodeSelect, decodeCustom2, decodeC2Int, field_encA, high_5_2, low_5_2])
theorem vxor (rd : Reg) (rs1 : Reg) (rs2 : Reg) (w : BitVec 2) : Statement (.vxor rd rs1 rs2 w) :=
  of_select rfl (by simp [decodeSelect, decodeCustom2, decodeC2Int, field_encA, high_5_2, low_5_2])
theorem vsll (rd : Reg) (rs1 : Reg) (rs2 : Reg) (w : BitVec 2) : Statement (.vsll rd rs1 rs2 w) :=
  of_select rfl (by simp [decodeSelect, decodeCustom2, decodeC2Int, field_encA, high_5_2, low_5_2])
theorem vsrl (rd : Reg) (rs1 : Reg) (rs2 : Reg) (w : BitVec 2) : Statement (.vsrl rd rs1 rs2 w) :=
  of_select rfl (by simp [decodeSelect, decodeCustom2, decodeC2Int, field_encA, high_5_2, low_5_2])
theorem vsra (rd : Reg) (rs1 : Reg) (rs2 : Reg) (w : BitVec 2) : Statement (.vsra rd rs1 rs2 w) :=
  of_select rfl (by simp [decodeSelect, decodeCustom2, decodeC2Int, field_encA, high_5_2, low_5_2])
theorem vmin (rd : Reg) (rs1 : Reg) (rs2 : Reg) (w : BitVec 2) : Statement (.vmin rd rs1 rs2 w) :=
  of_select rfl (by simp [decodeSelect, decodeCustom2, decodeC2Int, field_encA, high_5_2, low_5_2])
theorem vmax (rd : Reg) (rs1 : Reg) (rs2 : Reg) (w : BitVec 2) : Statement (.vmax rd rs1 rs2 w) :=
  of_select rfl (by simp [decodeSelect, decodeCustom2, decodeC2Int, field_encA, high_5_2, low_5_2])
theorem vminu (rd : Reg) (rs1 : Reg) (rs2 : Reg) (w : BitVec 2) : Statement (.vminu rd rs1 rs2 w) :=
  of_select rfl (by simp [decodeSelect, decodeCustom2, decodeC2Int, field_encA, high_5_2, low_5_2])
theorem vmaxu (rd : Reg) (rs1 : Reg) (rs2 : Reg) (w : BitVec 2) : Statement (.vmaxu rd rs1 rs2 w) :=
  of_select rfl (by simp [decodeSelect, decodeCustom2, decodeC2Int, field_encA, high_5_2, low_5_2])
theorem vfadd (rd : Reg) (rs1 : Reg) (rs2 : Reg) (fmt : BitVec 2) : Statement (.vfadd rd rs1 rs2 fmt) :=
  of_select rfl (by simp [decodeSelect, decodeCustom2, decodeC2Fp, field_encA, high_5_2, low_5_2])
theorem vfsub (rd : Reg) (rs1 : Reg) (rs2 : Reg) (fmt : BitVec 2) : Statement (.vfsub rd rs1 rs2 fmt) :=
  of_select rfl (by simp [decodeSelect, decodeCustom2, decodeC2Fp, field_encA, high_5_2, low_5_2])
theorem vfmul (rd : Reg) (rs1 : Reg) (rs2 : Reg) (fmt : BitVec 2) : Statement (.vfmul rd rs1 rs2 fmt) :=
  of_select rfl (by simp [decodeSelect, decodeCustom2, decodeC2Fp, field_encA, high_5_2, low_5_2])
theorem vfma (rd : Reg) (rs1 : Reg) (rs2 : Reg) (fmt : BitVec 2) : Statement (.vfma rd rs1 rs2 fmt) :=
  of_select rfl (by simp [decodeSelect, decodeCustom2, decodeC2Fp, field_encA, high_5_2, low_5_2])
theorem vfmin (rd : Reg) (rs1 : Reg) (rs2 : Reg) (fmt : BitVec 2) : Statement (.vfmin rd rs1 rs2 fmt) :=
  of_select rfl (by simp [decodeSelect, decodeCustom2, decodeC2Fp, field_encA, high_5_2, low_5_2])
theorem vfmax (rd : Reg) (rs1 : Reg) (rs2 : Reg) (fmt : BitVec 2) : Statement (.vfmax rd rs1 rs2 fmt) :=
  of_select rfl (by simp [decodeSelect, decodeCustom2, decodeC2Fp, field_encA, high_5_2, low_5_2])
theorem vaddm (rd : Reg) (rs1 : Reg) (rs2 : Reg) : Statement (.vaddm rd rs1 rs2) :=
  of_select rfl (by simp [decodeSelect, decodeCustom2, decodeC2Mod])
theorem vsubm (rd : Reg) (rs1 : Reg) (rs2 : Reg) : Statement (.vsubm rd rs1 rs2) :=
  of_select rfl (by simp [decodeSelect, decodeCustom2, decodeC2Mod])
theorem vmulm (rd : Reg) (rs1 : Reg) (rs2 : Reg) : Statement (.vmulm rd rs1 rs2) :=
  of_select rfl (by simp [decodeSelect, decodeCustom2, decodeC2Mod])
theorem vmont (rd : Reg) (rs1 : Reg) (rs2 : Reg) : Statement (.vmont rd rs1 rs2) :=
  of_select rfl (by simp [decodeSelect, decodeCustom2, decodeC2Mod])
theorem vbfly (rd : Reg) (rs1 : Reg) : Statement (.vbfly rd rs1) :=
  of_select rfl (by simp [decodeSelect, decodeCustom2, decodeC2Mod])
theorem vbflyi (rd : Reg) (rs1 : Reg) : Statement (.vbflyi rd rs1) :=
  of_select rfl (by simp [decodeSelect, decodeCustom2, decodeC2Mod])
theorem vqset (rs1 : Reg) (rs2 : Reg) : Statement (.vqset rs1 rs2) :=
  of_select rfl (by simp [decodeSelect, decodeCustom2, decodeC2Mod])
theorem vpermBf (rd : Reg) (rs1 : Reg) (k : BitVec 5) : Statement (.vpermBf rd rs1 k) :=
  of_select rfl (by simp [decodeSelect, decodeCustom2, decodeC2Move])
theorem vmvx (rd : Reg) (rs1 : Reg) (n : BitVec 5) : Statement (.vmvx rd rs1 n) :=
  of_select rfl (by simp [decodeSelect, decodeCustom2, decodeC2Move])
theorem vins (rd : Reg) (rs1 : Reg) (n : BitVec 5) : Statement (.vins rd rs1 n) :=
  of_select rfl (by simp [decodeSelect, decodeCustom2, decodeC2Move])
theorem vbcast (rd : Reg) (rs1 : Reg) : Statement (.vbcast rd rs1) :=
  of_select rfl (by simp [decodeSelect, decodeCustom2, decodeC2Move])
theorem vredsumS (rd : Reg) (rs1 : Reg) : Statement (.vredsumS rd rs1) :=
  of_select rfl (by simp [decodeSelect, decodeCustom2, decodeC2Move])
theorem vredmaxS (rd : Reg) (rs1 : Reg) : Statement (.vredmaxS rd rs1) :=
  of_select rfl (by simp [decodeSelect, decodeCustom2, decodeC2Move])
theorem vcmpeqS (rd : Reg) (rs1 : Reg) (rs2 : Reg) : Statement (.vcmpeqS rd rs1 rs2) :=
  of_select rfl (by simp [decodeSelect, decodeCustom2, decodeC2Move])
theorem vcmpltS (rd : Reg) (rs1 : Reg) (rs2 : Reg) : Statement (.vcmpltS rd rs1 rs2) :=
  of_select rfl (by simp [decodeSelect, decodeCustom2, decodeC2Move])
theorem vcmpleS (rd : Reg) (rs1 : Reg) (rs2 : Reg) : Statement (.vcmpleS rd rs1 rs2) :=
  of_select rfl (by simp [decodeSelect, decodeCustom2, decodeC2Move])
theorem vsel (rd : Reg) (rs1 : Reg) (rs2 : Reg) : Statement (.vsel rd rs1 rs2) :=
  of_select rfl (by simp [decodeSelect, decodeCustom2, decodeC2Move])
theorem vld (rd : Reg) (rs1 : Reg) (imm : BitVec 12) : Statement (.vld rd rs1 imm) :=
  of_select rfl (by simp [decodeSelect, decodeCustom2])
theorem vst (rs1 : Reg) (rs2 : Reg) (imm : BitVec 12) : Statement (.vst rs1 rs2 imm) :=
  of_select rfl (by simp [decodeSelect, decodeCustom2])
theorem vcvt (rd : Reg) (rs1 : Reg) (dst : BitVec 4) (src : BitVec 3) (part : BitVec 5) : Statement (.vcvt rd rs1 dst src part) :=
  of_select rfl (by simp [decodeSelect, decodeCustom2, field_encA, high_4_3, low_4_3])
theorem vsfu (rd : Reg) (rs1 : Reg) (op : BitVec 5) : Statement (.vsfu rd rs1 op) :=
  of_select rfl (by simp [decodeSelect, decodeCustom2, decodeC2Unit])
theorem gathb (rs1 : Reg) (rs2 : Reg) : Statement (.gathb rs1 rs2) :=
  of_select rfl (by simp [decodeSelect, decodeCustom2, decodeC2Unit])
theorem vquant (rs1 : Reg) (rs2 : Reg) : Statement (.vquant rs1 rs2) :=
  of_select rfl (by simp [decodeSelect, decodeCustom2, decodeC2Unit])
theorem vdquant (rd : Reg) (rs1 : Reg) : Statement (.vdquant rd rs1) :=
  of_select rfl (by simp [decodeSelect, decodeCustom2, decodeC2Unit])
theorem mmaE43E43 (rd : Reg) (rs1 : Reg) (rs2 : Reg) (rs3 : Reg) : Statement (.mmaE43E43 rd rs1 rs2 rs3) :=
  of_select rfl (by simp [decodeSelect, decodeCustom3])
theorem mmaE43E52 (rd : Reg) (rs1 : Reg) (rs2 : Reg) (rs3 : Reg) : Statement (.mmaE43E52 rd rs1 rs2 rs3) :=
  of_select rfl (by simp [decodeSelect, decodeCustom3])
theorem mmaE52E43 (rd : Reg) (rs1 : Reg) (rs2 : Reg) (rs3 : Reg) : Statement (.mmaE52E43 rd rs1 rs2 rs3) :=
  of_select rfl (by simp [decodeSelect, decodeCustom3])
theorem mmaE52E52 (rd : Reg) (rs1 : Reg) (rs2 : Reg) (rs3 : Reg) : Statement (.mmaE52E52 rd rs1 rs2 rs3) :=
  of_select rfl (by simp [decodeSelect, decodeCustom3])
theorem mmaE21xE21x (rd : Reg) (rs1 : Reg) (rs2 : Reg) (rs3 : Reg) : Statement (.mmaE21xE21x rd rs1 rs2 rs3) :=
  of_select rfl (by simp [decodeSelect, decodeCustom3])
theorem mmaE43E21x (rd : Reg) (rs1 : Reg) (rs2 : Reg) (rs3 : Reg) : Statement (.mmaE43E21x rd rs1 rs2 rs3) :=
  of_select rfl (by simp [decodeSelect, decodeCustom3])
theorem mmaBfBf (rd : Reg) (rs1 : Reg) (rs2 : Reg) (rs3 : Reg) : Statement (.mmaBfBf rd rs1 rs2 rs3) :=
  of_select rfl (by simp [decodeSelect, decodeCustom3])
theorem mmaSS (rd : Reg) (rs1 : Reg) (rs2 : Reg) (rs3 : Reg) : Statement (.mmaSS rd rs1 rs2 rs3) :=
  of_select rfl (by simp [decodeSelect, decodeCustom3])
theorem mmaI8I8 (rd : Reg) (rs1 : Reg) (rs2 : Reg) : Statement (.mmaI8I8 rd rs1 rs2) :=
  of_select rfl (by simp [decodeSelect, decodeCustom3])
theorem mldw (rs1 : Reg) (fmt : BitVec 5) : Statement (.mldw rs1 fmt) :=
  of_select rfl (by simp [decodeSelect, decodeCustom3, decodeC3Unit])
theorem mzero (rd : Reg) : Statement (.mzero rd) :=
  of_select rfl (by simp [decodeSelect, decodeCustom3, decodeC3Unit])
theorem mrd (rd : Reg) (rs1 : Reg) (fmt : BitVec 5) : Statement (.mrd rd rs1 fmt) :=
  of_select rfl (by simp [decodeSelect, decodeCustom3, decodeC3Unit])
theorem mrdExp (rd : Reg) (rs1 : Reg) (rs2 : Reg) : Statement (.mrdExp rd rs1 rs2) :=
  of_select rfl (by simp [decodeSelect, decodeCustom3, decodeC3Unit])
theorem mrmax (rd : Reg) (rs1 : Reg) : Statement (.mrmax rd rs1) :=
  of_select rfl (by simp [decodeSelect, decodeCustom3, decodeC3Unit])
theorem mrot (rs1 : Reg) : Statement (.mrot rs1) :=
  of_select rfl (by simp [decodeSelect, decodeCustom3, decodeC3Unit])
theorem mcmd (rs1 : Reg) (rs2 : Reg) : Statement (.mcmd rs1 rs2) :=
  of_select rfl (by simp [decodeSelect, decodeCustom3, decodeC3Unit])
theorem mtmask (rd : Reg) (rs1 : Reg) (rs2 : Reg) (rs3 : Reg) : Statement (.mtmask rd rs1 rs2 rs3) :=
  of_select rfl (by simp [decodeSelect, decodeCustom3])
theorem topkS (rs1 : Reg) (rs2 : Reg) (k : BitVec 5) : Statement (.topkS rs1 rs2 k) :=
  of_select rfl (by simp [decodeSelect, decodeCustom3, decodeC3Topk])
theorem topkSC (rs1 : Reg) (rs2 : Reg) (k : BitVec 5) : Statement (.topkSC rs1 rs2 k) :=
  of_select rfl (by simp [decodeSelect, decodeCustom3, decodeC3Topk])
theorem topkBf (rs1 : Reg) (rs2 : Reg) (k : BitVec 5) : Statement (.topkBf rs1 rs2 k) :=
  of_select rfl (by simp [decodeSelect, decodeCustom3, decodeC3Topk])
theorem topkBfC (rs1 : Reg) (rs2 : Reg) (k : BitVec 5) : Statement (.topkBfC rs1 rs2 k) :=
  of_select rfl (by simp [decodeSelect, decodeCustom3, decodeC3Topk])
theorem rcsnap (rs1 : Reg) : Statement (.rcsnap rs1) :=
  of_select rfl (by simp [decodeSelect, decodeCustom3, decodeC3Topk])
theorem combPutS (rs1 : Reg) (rs2 : Reg) (rs3 : Reg) (rank : BitVec 5) : Statement (.combPutS rs1 rs2 rs3 rank) :=
  of_select rfl (by simp [decodeSelect, decodeCustom3])
theorem combPutBf (rs1 : Reg) (rs2 : Reg) (rs3 : Reg) (rank : BitVec 5) : Statement (.combPutBf rs1 rs2 rs3 rank) :=
  of_select rfl (by simp [decodeSelect, decodeCustom3])
theorem ecall : Statement (.ecall) :=
  of_select rfl (by simp [decodeSelect, decodeSystem])
theorem ebreak : Statement (.ebreak) :=
  of_select rfl (by simp [decodeSelect, decodeSystem])
theorem tret : Statement (.tret) :=
  of_select rfl (by simp [decodeSelect, decodeSystem])
theorem texit : Statement (.texit) :=
  of_select rfl (by simp [decodeSelect, decodeCustom0, decodeC0Move])
theorem ungang : Statement (.ungang) :=
  of_select rfl (by simp [decodeSelect, decodeCustom0, decodeC0Move])
theorem tretry : Statement (.tretry) :=
  of_select rfl (by simp [decodeSelect, decodeCustom0, decodeC0Task])
theorem fenceLe : Statement (.fenceLe) :=
  of_select rfl (by simp [decodeSelect, decodeCustom1, decodeC1Fence, field_encA])
theorem vfence : Statement (.vfence) :=
  of_select rfl (by simp [decodeSelect, decodeCustom2, decodeC2Unit])
theorem mswap : Statement (.mswap) :=
  of_select rfl (by simp [decodeSelect, decodeCustom3, decodeC3Unit])
theorem mwait : Statement (.mwait) :=
  of_select rfl (by simp [decodeSelect, decodeCustom3, decodeC3Unit])
theorem asyncTrap : Statement .asyncTrap := of_none rfl
theorem dataReturn : Statement .dataReturn := of_none rfl
theorem remoteAccess : Statement .remoteAccess := of_none rfl
theorem storePerform : Statement .storePerform := of_none rfl
theorem atomicAtHome : Statement .atomicAtHome := of_none rfl
theorem ownershipGrant : Statement .ownershipGrant := of_none rfl
theorem bisnpResponse : Statement .bisnpResponse := of_none rfl
theorem hostMemAccess : Statement .hostMemAccess := of_none rfl
theorem tcbSpawnAtHome : Statement .tcbSpawnAtHome := of_none rfl
theorem predDecrement : Statement .predDecrement := of_none rfl
theorem twaitAtHome : Statement .twaitAtHome := of_none rfl
theorem groupOpAtHome : Statement .groupOpAtHome := of_none rfl
theorem itclaimAtHome : Statement .itclaimAtHome := of_none rfl
theorem counterAdd : Statement .counterAdd := of_none rfl
theorem messageArrival : Statement .messageArrival := of_none rfl
theorem messageReply : Statement .messageReply := of_none rfl
theorem chainPush : Statement .chainPush := of_none rfl
theorem creditRequest : Statement .creditRequest := of_none rfl
theorem creditGrant : Statement .creditGrant := of_none rfl
theorem creditRefusal : Statement .creditRefusal := of_none rfl
theorem migrationDeparture : Statement .migrationDeparture := of_none rfl
theorem migrationArrival : Statement .migrationArrival := of_none rfl
theorem taskDispatch : Statement .taskDispatch := of_none rfl
theorem dispatchArrival : Statement .dispatchArrival := of_none rfl
theorem stealAttempt : Statement .stealAttempt := of_none rfl
theorem taskCompletion : Statement .taskCompletion := of_none rfl
theorem orderedCommit : Statement .orderedCommit := of_none rfl
theorem vectorCommandStart : Statement .vectorCommandStart := of_none rfl
theorem vectorResultWrite : Statement .vectorResultWrite := of_none rfl
theorem sfuRequest : Statement .sfuRequest := of_none rfl
theorem sfuResult : Statement .sfuResult := of_none rfl
theorem copyStart : Statement .copyStart := of_none rfl
theorem copyWrite : Statement .copyWrite := of_none rfl
theorem copyComplete : Statement .copyComplete := of_none rfl
theorem matrixOperationStart : Statement .matrixOperationStart := of_none rfl
theorem matrixOperationComplete : Statement .matrixOperationComplete := of_none rfl
theorem rotationArrival : Statement .rotationArrival := of_none rfl
theorem remoteCommandDelivery : Statement .remoteCommandDelivery := of_none rfl
theorem tlbFill : Statement .tlbFill := of_none rfl
theorem faultMessage : Statement .faultMessage := of_none rfl
theorem faultReply : Statement .faultReply := of_none rfl
theorem checkpointSave : Statement .checkpointSave := of_none rfl
theorem preemptFallback : Statement .preemptFallback := of_none rfl
theorem coreVacate : Statement .coreVacate := of_none rfl
theorem slackWater : Statement .slackWater := of_none rfl
theorem selfTestEnd : Statement .selfTestEnd := of_none rfl
theorem notifyWrite : Statement .notifyWrite := of_none rfl
theorem submissionAdmission : Statement .submissionAdmission := of_none rfl
theorem teardownCompletion : Statement .teardownCompletion := of_none rfl
theorem ctxLaunch : Statement .ctxLaunch := of_none rfl
theorem ctxTeardown : Statement .ctxTeardown := of_none rfl
theorem ctxPreempt : Statement .ctxPreempt := of_none rfl
theorem ctxResume : Statement .ctxResume := of_none rfl
theorem attest : Statement .attest := of_none rfl
theorem getCerts : Statement .getCerts := of_none rfl
theorem fwStage : Statement .fwStage := of_none rfl
theorem fwCommit : Statement .fwCommit := of_none rfl
theorem getHealth : Statement .getHealth := of_none rfl
theorem getQmap : Statement .getQmap := of_none rfl
theorem getBudget : Statement .getBudget := of_none rfl
theorem getClassmap : Statement .getClassmap := of_none rfl
theorem getStall : Statement .getStall := of_none rfl
theorem getPower : Statement .getPower := of_none rfl
theorem setCap : Statement .setCap := of_none rfl
theorem release : Statement .release := of_none rfl
theorem fbufBaseWrite : Statement .fbufBaseWrite := of_none rfl
theorem fgenWrite : Statement .fgenWrite := of_none rfl
theorem freplyResolved : Statement .freplyResolved := of_none rfl
theorem freplyDenied : Statement .freplyDenied := of_none rfl
theorem invPages : Statement .invPages := of_none rfl
theorem invContext : Statement .invContext := of_none rfl
theorem invAll : Statement .invAll := of_none rfl
theorem invalidationComplete : Statement .invalidationComplete := of_none rfl
theorem crtStageWrite : Statement .crtStageWrite := of_none rfl
theorem crtStageRead : Statement .crtStageRead := of_none rfl
theorem crtCommit : Statement .crtCommit := of_none rfl
theorem crtCommitDone : Statement .crtCommitDone := of_none rfl
theorem ebudValWrite : Statement .ebudValWrite := of_none rfl
theorem qmapRelease : Statement .qmapRelease := of_none rfl
theorem registerWrite : Statement .registerWrite := of_none rfl
theorem moduleReset : Statement .moduleReset := of_none rfl
theorem marginMeasurement : Statement .marginMeasurement := of_none rfl
theorem stallSample : Statement .stallSample := of_none rfl
theorem budgetInterval : Statement .budgetInterval := of_none rfl
theorem powerThrottle : Statement .powerThrottle := of_none rfl
theorem clockRaise : Statement .clockRaise := of_none rfl
theorem thermalThrottle : Statement .thermalThrottle := of_none rfl
theorem thermalShutdown : Statement .thermalShutdown := of_none rfl
theorem illegalWord : Statement .illegalWord := of_none rfl
theorem fetchFault : Statement .fetchFault := of_none rfl
theorem fbufHeadWrite : Statement .fbufHeadWrite := of_none rfl
theorem cheadWrite : Statement .cheadWrite := of_none rfl
theorem launchCompletion : Statement .launchCompletion := of_none rfl
theorem cxlCacheSnoop : Statement .cxlCacheSnoop := of_none rfl

end Sys2Proof.Laws.Encodes
end

