-- ==== Sys2Proof/Laws/Translation.lean ====
section
/-! SUPPORT. What the page-table walk finds (R327), and what else a walk may change than memory. -/

namespace Sys2Proof.Machine

/-- A leaf at physical page 0 that the access may use as it stands. The page is inside every physical address space. -/
theorem State.walk_page0 {s : State} {x : Nat} {va : Word} {need : Need} {k : Ctx} {f : PtFormat} {w : Found}
    (hk : s.ctx? x = some k) (hf : (s.ptfmt[k.record.ptfmt]?).getD {} = f)
    (hw : walkDown s f va true true true (f.levels - 1) k.record.ptRoot = .leaf w) (hp : bits w.entry 12 (f.oaHi - 11) = 0)
    (he : leafAfter f k.record.flags need w = some w.entry) :
    s.walk x va need = (some {
      ctx := x, va := va.toNat / 2 ^ (12 + 9 * w.level) * 2 ^ (12 + 9 * w.level), pa := 0, lg := 12 + 9 * w.level
      write := need.write, exec := w.exec && !(f.xdeny.en && f.xdeny.holds w.entry) }, s) := by
  have h0 : ¬ 2 ^ Config.hostPhysWidth ≤ 0 := Nat.not_le.2 (Nat.two_pow_pos _)
  subst hf
  unfold State.walk
  rw [hk]
  dsimp only
  rw [hw]
  dsimp only
  rw [hp, Nat.zero_mul, Nat.zero_div, Nat.zero_mul, if_neg h0, he]
  simp

/-- The part's own access through such a leaf. -/
theorem State.own_page0 {s : State} {x : Nat} {va : Word} {write : Bool} {k : Ctx} {f : PtFormat} {w : Found}
    (ha : s.window x 0 va = .translated) (hk : s.ctx? x = some k) (hf : (s.ptfmt[k.record.ptfmt]?).getD {} = f)
    (hw : walkDown s f va true true true (f.levels - 1) k.record.ptRoot = .leaf w) (hp : bits w.entry 12 (f.oaHi - 11) = 0)
    (he : leafAfter f k.record.flags { write } w = some w.entry) :
    s.own x va write = (some (va.toNat % 2 ^ (12 + 9 * w.level)), s) := by
  simp [State.own, ha, State.walk_page0 hk hf hw hp he, Leaf.phys]

/-- Recalling a host copy sends at most a packet. -/
theorem State.recall_same (s : State) (pa : Nat) : { s.recall pa with net := s.net, serial := s.serial } = s := by
  unfold State.recall
  split <;> rfl

/-- The walk's update of an entry changes memory with what engine commands may still read of it, the lines that the host-line cache owns and what is in flight, and nothing
else. -/
theorem State.updateEntry_same (s : State) (at_ : Nat) (e : Word) :
    { s.updateEntry at_ e with olds := s.olds, phys := s.phys, owned := s.owned, net := s.net, serial := s.serial } = s := by
  unfold State.updateEntry State.recall
  split <;> rfl

/-- A walk changes memory with what engine commands may still read of it, the lines that the host-line cache owns, what is in flight and
the count of strays, and nothing else. -/
theorem State.walk_same (s : State) (x : Nat) (va : Word) (need : Need) :
    { (s.walk x va need).2 with olds := s.olds, phys := s.phys, owned := s.owned, net := s.net, serial := s.serial, crt := s.crt } = s := by
  unfold State.walk
  split
  · rfl
  · dsimp only
    split
    · rfl
    · rfl
    · split
      · rfl
      · split
        · rfl
        · rename_i w _ _ _ e _
          split
          · rfl
          · have := State.updateEntry_same s w.at_ e
            generalize s.updateEntry w.at_ e = u at this ⊢
            cases s; cases u
            simp_all
end Sys2Proof.Machine
end

