-- ==== Sys2Proof/Tests/Slice0.lean ====
section
/-! SUPPORT. Tests: ill-formed terms, words written out from the encoding tables, single steps with results worked out by
hand from the rules, and for every statement with hypotheses a state and operands that meet them. -/

namespace Sys2Proof.Tests

open Machine

set_option maxRecDepth 100000

/-! ## Ill-formed terms, one for each check, beside a term at the limit -/

theorem test_wf_target : (Instr.jal 1 1).wellFormed = false ∧ (Instr.beq 1 2 3).wellFormed = false ∧ (Instr.bp 1 0xFFF).wellFormed = false ∧
    (Instr.jal 1 2).wellFormed = true := by decide
theorem test_wf_rounding : (Instr.faddS 1 2 3 6).wellFormed = false ∧ (Instr.fcvtWS 1 2 6).wellFormed = false ∧
    (Instr.faddS 1 2 3 7).wellFormed = true := by decide
theorem test_wf_csr : (Instr.csrrw 1 2 0x004).wellFormed = false ∧ (Instr.csrrsi 1 0xCC7 1).wellFormed = false ∧
    (Instr.csrrs 1 2 0xCC6).wellFormed = true := by decide
theorem test_wf_itnext : (Instr.itnext 0 0).wellFormed = false ∧ (Instr.itnext 23 0).wellFormed = false ∧ (Instr.itnext 10 1).wellFormed = false ∧
    (Instr.itnext 22 0).wellFormed = true := by decide
theorem test_wf_payload : (Instr.msend 0 1 2 0).wellFormed = false ∧ (Instr.msend 24 1 2 1).wellFormed = false ∧
    (Instr.msend 17 1 2 7).wellFormed = true := by decide
theorem test_wf_vector_format : (Instr.vfadd 1 2 3 3).wellFormed = false ∧ (Instr.vfmax 1 2 3 2).wellFormed = true := by decide
theorem test_wf_vector_numbers : (Instr.vbfly 31 1).wellFormed = false ∧ (Instr.vpermBf 1 2 5).wellFormed = false ∧
    (Instr.vmvx 1 2 4).wellFormed = false ∧ (Instr.vins 1 2 4).wellFormed = false ∧ (Instr.vsfu 1 2 12).wellFormed = false ∧
    (Instr.vbflyi 30 1).wellFormed = true ∧ (Instr.vpermBf 1 2 4).wellFormed = true ∧ (Instr.vsfu 1 2 11).wellFormed = true := by decide
theorem test_wf_vcvt : (Instr.vcvt 1 2 0 0 0).wellFormed = false ∧ (Instr.vcvt 1 2 7 0 0).wellFormed = false ∧
    (Instr.vcvt 1 2 0 7 0).wellFormed = false ∧ (Instr.vcvt 1 2 1 0 2).wellFormed = false ∧ (Instr.vcvt 1 2 3 0 3).wellFormed = true := by decide
theorem test_wf_quads : (Instr.vquant 1 2).wellFormed = false ∧ (Instr.vdquant 3 1).wellFormed = false ∧
    (Instr.vdquant 28 1).wellFormed = true := by decide
theorem test_wf_matrix : (Instr.mmaSS 4 1 2 3).wellFormed = false ∧ (Instr.mzero 4).wellFormed = false ∧ (Instr.mrmax 4 1).wellFormed = false ∧
    (Instr.mtmask 4 1 2 3).wellFormed = false ∧ (Instr.mldw 1 2).wellFormed = false ∧ (Instr.mldw 1 6).wellFormed = false ∧
    (Instr.mrd 0 1 7).wellFormed = false ∧ (Instr.mrd 3 1 6).wellFormed = true := by decide
theorem test_wf_topk_combine : (Instr.topkS 1 2 0).wellFormed = false ∧ (Instr.topkBfC 1 2 31).wellFormed = true ∧
    (Instr.combPutS 1 2 3 8).wellFormed = false ∧ (Instr.combPutBf 1 2 3 7).wellFormed = true := by decide
/-- The decoder refuses the words of such terms, a set unused field, and the two words that R134 names. -/
theorem test_refused_words : (∀ i ∈ [Instr.jal 1 1, .faddS 1 2 3 6, .csrrw 1 2 4, .itnext 23 0, .msend 24 1 2 1, .vfadd 1 2 3 3, .vbfly 31 1,
      .vcvt 1 2 0 0 0, .vquant 1 2, .mmaSS 4 1 2 3, .mldw 1 2, .topkS 1 2 0, .combPutS 1 2 3 8],
      (encode i).map (fun w => decide (decode w = .error .fieldLimit)) = some true) ∧
    decode 0b0000001_00000_00000_000_00001_1110011 ≠ .ok .ecall ∧ (∃ e, decode 0 = .error e) ∧ (∃ e, decode 0xFFFFFFFF = .error e) :=
  ⟨by decide, by decide, ⟨_, rfl⟩, ⟨_, rfl⟩⟩

/-! ## Decoding: a word for every instruction, bit by bit from its encoding (fields [31:25], [24:20], [19:15], [14:12], [11:7], [6:0]) -/

theorem test_decode_integer1 :
    decode 0b1010101_11100_11011_110_01010_0110111 = .ok (.lui 10 0xabcde) ∧
    decode 0b1010101_11100_11011_110_01010_0010111 = .ok (.auipc 10 0xabcde) ∧
    decode 0b1001101_00100_01011_000_01010_0010011 = .ok (.addi 10 11 0x9a4) ∧
    decode 0b1001101_00100_01011_010_01010_0010011 = .ok (.slti 10 11 0x9a4) ∧
    decode 0b1001101_00100_01011_011_01010_0010011 = .ok (.sltiu 10 11 0x9a4) ∧
    decode 0b1001101_00100_01011_100_01010_0010011 = .ok (.xori 10 11 0x9a4) ∧
    decode 0b1001101_00100_01011_110_01010_0010011 = .ok (.ori 10 11 0x9a4) ∧
    decode 0b1001101_00100_01011_111_01010_0010011 = .ok (.andi 10 11 0x9a4) := by decide
theorem test_decode_integer2 :
    decode 0b0000000_10001_01011_001_01010_0010011 = .ok (.slli 10 11 17) ∧
    decode 0b0000000_10001_01011_101_01010_0010011 = .ok (.srli 10 11 17) ∧
    decode 0b0100000_10001_01011_101_01010_0010011 = .ok (.srai 10 11 17) ∧
    decode 0b0000000_01100_01011_000_01010_0110011 = .ok (.add 10 11 12) ∧
    decode 0b0100000_01100_01011_000_01010_0110011 = .ok (.sub 10 11 12) ∧
    decode 0b0000000_01100_01011_001_01010_0110011 = .ok (.sll 10 11 12) ∧
    decode 0b0000000_01100_01011_010_01010_0110011 = .ok (.slt 10 11 12) ∧
    decode 0b0000000_01100_01011_011_01010_0110011 = .ok (.sltu 10 11 12) := by decide
theorem test_decode_integer3 :
    decode 0b0000000_01100_01011_100_01010_0110011 = .ok (.xor 10 11 12) ∧
    decode 0b0000000_01100_01011_101_01010_0110011 = .ok (.srl 10 11 12) ∧
    decode 0b0100000_01100_01011_101_01010_0110011 = .ok (.sra 10 11 12) ∧
    decode 0b0000000_01100_01011_110_01010_0110011 = .ok (.or 10 11 12) ∧
    decode 0b0000000_01100_01011_111_01010_0110011 = .ok (.and 10 11 12) ∧
    decode 0b1001101_00100_01011_000_01010_0011011 = .ok (.addiw 10 11 0x9a4) ∧
    decode 0b0000000_01001_01011_001_01010_0011011 = .ok (.slliw 10 11 9) ∧
    decode 0b0000000_01001_01011_101_01010_0011011 = .ok (.srliw 10 11 9) := by decide
theorem test_decode_integer4 :
    decode 0b0100000_01001_01011_101_01010_0011011 = .ok (.sraiw 10 11 9) ∧
    decode 0b0000000_01100_01011_000_01010_0111011 = .ok (.addw 10 11 12) ∧
    decode 0b0100000_01100_01011_000_01010_0111011 = .ok (.subw 10 11 12) ∧
    decode 0b0000000_01100_01011_001_01010_0111011 = .ok (.sllw 10 11 12) ∧
    decode 0b0000000_01100_01011_101_01010_0111011 = .ok (.srlw 10 11 12) ∧
    decode 0b0100000_01100_01011_101_01010_0111011 = .ok (.sraw 10 11 12) := by decide
theorem test_decode_multiply1 :
    decode 0b0000001_01100_01011_000_01010_0110011 = .ok (.mul 10 11 12) ∧
    decode 0b0000001_01100_01011_001_01010_0110011 = .ok (.mulh 10 11 12) ∧
    decode 0b0000001_01100_01011_010_01010_0110011 = .ok (.mulhsu 10 11 12) ∧
    decode 0b0000001_01100_01011_011_01010_0110011 = .ok (.mulhu 10 11 12) ∧
    decode 0b0000001_01100_01011_100_01010_0110011 = .ok (.div 10 11 12) ∧
    decode 0b0000001_01100_01011_101_01010_0110011 = .ok (.divu 10 11 12) ∧
    decode 0b0000001_01100_01011_110_01010_0110011 = .ok (.rem 10 11 12) ∧
    decode 0b0000001_01100_01011_111_01010_0110011 = .ok (.remu 10 11 12) := by decide
theorem test_decode_multiply2 :
    decode 0b0000001_01100_01011_000_01010_0111011 = .ok (.mulw 10 11 12) ∧
    decode 0b0000001_01100_01011_100_01010_0111011 = .ok (.divw 10 11 12) ∧
    decode 0b0000001_01100_01011_101_01010_0111011 = .ok (.divuw 10 11 12) ∧
    decode 0b0000001_01100_01011_110_01010_0111011 = .ok (.remw 10 11 12) ∧
    decode 0b0000001_01100_01011_111_01010_0111011 = .ok (.remuw 10 11 12) := by decide
theorem test_decode_control :
    decode 0b0110010_00100_10101_000_01010_1101111 = .ok (.jal 10 0x54322) ∧
    decode 0b1001101_00100_01011_000_01010_1100111 = .ok (.jalr 10 11 0x9a4) ∧
    decode 0b1100101_01100_01011_000_00100_1100011 = .ok (.beq 11 12 0xa52) ∧
    decode 0b1100101_01100_01011_001_00100_1100011 = .ok (.bne 11 12 0xa52) ∧
    decode 0b1100101_01100_01011_100_00100_1100011 = .ok (.blt 11 12 0xa52) ∧
    decode 0b1100101_01100_01011_101_00100_1100011 = .ok (.bge 11 12 0xa52) ∧
    decode 0b1100101_01100_01011_110_00100_1100011 = .ok (.bltu 11 12 0xa52) ∧
    decode 0b1100101_01100_01011_111_00100_1100011 = .ok (.bgeu 11 12 0xa52) := by decide
theorem test_decode_predicate1 :
    decode 0b0000000_01100_01011_001_01010_0001011 = .ok (.pcmpEq 10 11 12) ∧
    decode 0b0000001_01100_01011_001_01010_0001011 = .ok (.pcmpNe 10 11 12) ∧
    decode 0b0000010_01100_01011_001_01010_0001011 = .ok (.pcmpLt 10 11 12) ∧
    decode 0b0000011_01100_01011_001_01010_0001011 = .ok (.pcmpGe 10 11 12) ∧
    decode 0b0000100_01100_01011_001_01010_0001011 = .ok (.pcmpLtu 10 11 12) ∧
    decode 0b0000101_01100_01011_001_01010_0001011 = .ok (.pcmpGeu 10 11 12) ∧
    decode 0b0001000_01100_01011_001_01010_0001011 = .ok (.pand 10 11 12) ∧
    decode 0b0001001_01100_01011_001_01010_0001011 = .ok (.por 10 11 12) := by decide
theorem test_decode_predicate2 :
    decode 0b0001010_01100_01011_001_01010_0001011 = .ok (.pxor 10 11 12) ∧
    decode 0b0001011_01100_01011_001_01010_0001011 = .ok (.pandn 10 11 12) ∧
    decode 0b0010000_00000_00000_001_01010_0001011 = .ok (.pmov 10) ∧
    decode 0b0010001_00000_01011_001_00000_0001011 = .ok (.pwr 11) ∧
    decode 0b0100101_01100_01011_001_01010_0001011 = .ok (.csel 10 11 12 5) ∧
    decode 0b1100101_00000_00101_010_00100_0001011 = .ok (.bp 5 0xa52) ∧
    decode 0b1100101_00001_00101_010_00100_0001011 = .ok (.bnp 5 0xa52) := by decide
theorem test_decode_memory1 :
    decode 0b0000000_00011_00000_011_01010_0001011 = .ok (.ldk 10 3) ∧
    decode 0b0001000_00011_00000_011_01010_0001011 = .ok (.fldk 10 3) ∧
    decode 0b1001101_00100_01011_000_01010_0000011 = .ok (.lb 10 11 0x9a4) ∧
    decode 0b1001101_00100_01011_001_01010_0000011 = .ok (.lh 10 11 0x9a4) ∧
    decode 0b1001101_00100_01011_010_01010_0000011 = .ok (.lw 10 11 0x9a4) ∧
    decode 0b1001101_00100_01011_011_01010_0000011 = .ok (.ld 10 11 0x9a4) ∧
    decode 0b1001101_00100_01011_100_01010_0000011 = .ok (.lbu 10 11 0x9a4) ∧
    decode 0b1001101_00100_01011_101_01010_0000011 = .ok (.lhu 10 11 0x9a4) := by decide
theorem test_decode_memory2 :
    decode 0b1001101_00100_01011_110_01010_0000011 = .ok (.lwu 10 11 0x9a4) ∧
    decode 0b1001101_01100_01011_000_00100_0100011 = .ok (.sb 11 12 0x9a4) ∧
    decode 0b1001101_01100_01011_001_00100_0100011 = .ok (.sh 11 12 0x9a4) ∧
    decode 0b1001101_01100_01011_010_00100_0100011 = .ok (.sw 11 12 0x9a4) ∧
    decode 0b1001101_01100_01011_011_00100_0100011 = .ok (.sd 11 12 0x9a4) := by decide
theorem test_decode_atomic1 :
    decode 0b0000110_01100_01011_100_01010_0101011 = .ok (.atmSwap 10 11 12 1 2) ∧
    decode 0b0001110_01100_01011_100_01010_0101011 = .ok (.atmAdd 10 11 12 1 2) ∧
    decode 0b0010110_01100_01011_100_01010_0101011 = .ok (.atmAnd 10 11 12 1 2) ∧
    decode 0b0011110_01100_01011_100_01010_0101011 = .ok (.atmOr 10 11 12 1 2) ∧
    decode 0b0100110_01100_01011_100_01010_0101011 = .ok (.atmXor 10 11 12 1 2) ∧
    decode 0b0101110_01100_01011_100_01010_0101011 = .ok (.atmMin 10 11 12 1 2) ∧
    decode 0b0110110_01100_01011_100_01010_0101011 = .ok (.atmMax 10 11 12 1 2) ∧
    decode 0b0111110_01100_01011_100_01010_0101011 = .ok (.atmMinu 10 11 12 1 2) := by decide
theorem test_decode_atomic2 :
    decode 0b1000110_01100_01011_100_01010_0101011 = .ok (.atmMaxu 10 11 12 1 2) ∧
    decode 0b1001010_01100_01011_100_01010_0101011 = .ok (.atmFadd 10 11 12 2) ∧
    decode 0b1010110_01100_01011_100_01010_0101011 = .ok (.atmCas 10 11 12 1 2) := by decide
theorem test_decode_csr :
    decode 0b1000000_00000_01011_001_01010_1110011 = .ok (.csrrw 10 11 0x800) ∧
    decode 0b1000000_00000_01011_010_01010_1110011 = .ok (.csrrs 10 11 0x800) ∧
    decode 0b1000000_00000_01011_011_01010_1110011 = .ok (.csrrc 10 11 0x800) ∧
    decode 0b1000000_00000_00101_101_01010_1110011 = .ok (.csrrwi 10 0x800 5) ∧
    decode 0b1000000_00000_00101_110_01010_1110011 = .ok (.csrrsi 10 0x800 5) ∧
    decode 0b1000000_00000_00101_111_01010_1110011 = .ok (.csrrci 10 0x800 5) := by decide
theorem test_decode_system :
    decode 0b0000001_10001_00000_000_00000_0001111 = .ok (.fence 0 3 1) ∧
    decode 0b0000000_00000_00000_000_00000_1110011 = .ok (.ecall) ∧
    decode 0b0000000_00001_00000_000_00000_1110011 = .ok (.ebreak) ∧
    decode 0b0000000_00010_00000_000_00000_1110011 = .ok (.tret) ∧
    decode 0b0010010_00000_00000_011_00000_0101011 = .ok (.fenceSc 2) ∧
    decode 0b0011000_00000_00000_011_00000_0101011 = .ok (.fenceLe) := by decide
theorem test_decode_float1 :
    decode 0b1001101_00100_01011_010_01010_0000111 = .ok (.flw 10 11 0x9a4) ∧
    decode 0b1001101_01100_01011_010_00100_0100111 = .ok (.fsw 11 12 0x9a4) ∧
    decode 0b0110100_01100_01011_001_01010_1000011 = .ok (.fmaddS 10 11 12 13 1) ∧
    decode 0b0110100_01100_01011_001_01010_1000111 = .ok (.fmsubS 10 11 12 13 1) ∧
    decode 0b0110100_01100_01011_001_01010_1001011 = .ok (.fnmsubS 10 11 12 13 1) ∧
    decode 0b0110100_01100_01011_001_01010_1001111 = .ok (.fnmaddS 10 11 12 13 1) ∧
    decode 0b0000000_01100_01011_001_01010_1010011 = .ok (.faddS 10 11 12 1) ∧
    decode 0b0000100_01100_01011_001_01010_1010011 = .ok (.fsubS 10 11 12 1) := by decide
theorem test_decode_float2 :
    decode 0b0001000_01100_01011_001_01010_1010011 = .ok (.fmulS 10 11 12 1) ∧
    decode 0b0001100_01100_01011_001_01010_1010011 = .ok (.fdivS 10 11 12 1) ∧
    decode 0b0101100_00000_01011_001_01010_1010011 = .ok (.fsqrtS 10 11 1) ∧
    decode 0b0010000_01100_01011_000_01010_1010011 = .ok (.fsgnjS 10 11 12) ∧
    decode 0b0010000_01100_01011_001_01010_1010011 = .ok (.fsgnjnS 10 11 12) ∧
    decode 0b0010000_01100_01011_010_01010_1010011 = .ok (.fsgnjxS 10 11 12) ∧
    decode 0b0010100_01100_01011_000_01010_1010011 = .ok (.fminS 10 11 12) ∧
    decode 0b0010100_01100_01011_001_01010_1010011 = .ok (.fmaxS 10 11 12) := by decide
theorem test_decode_float3 :
    decode 0b1100000_00000_01011_001_01010_1010011 = .ok (.fcvtWS 10 11 1) ∧
    decode 0b1100000_00001_01011_001_01010_1010011 = .ok (.fcvtWuS 10 11 1) ∧
    decode 0b1100000_00010_01011_001_01010_1010011 = .ok (.fcvtLS 10 11 1) ∧
    decode 0b1100000_00011_01011_001_01010_1010011 = .ok (.fcvtLuS 10 11 1) ∧
    decode 0b1101000_00000_01011_001_01010_1010011 = .ok (.fcvtSW 10 11 1) ∧
    decode 0b1101000_00001_01011_001_01010_1010011 = .ok (.fcvtSWu 10 11 1) ∧
    decode 0b1101000_00010_01011_001_01010_1010011 = .ok (.fcvtSL 10 11 1) ∧
    decode 0b1101000_00011_01011_001_01010_1010011 = .ok (.fcvtSLu 10 11 1) := by decide
theorem test_decode_float4 :
    decode 0b1110000_00000_01011_000_01010_1010011 = .ok (.fmvXW 10 11) ∧
    decode 0b1111000_00000_01011_000_01010_1010011 = .ok (.fmvWX 10 11) ∧
    decode 0b1010000_01100_01011_010_01010_1010011 = .ok (.feqS 10 11 12) ∧
    decode 0b1010000_01100_01011_001_01010_1010011 = .ok (.fltS 10 11 12) ∧
    decode 0b1010000_01100_01011_000_01010_1010011 = .ok (.fleS 10 11 12) ∧
    decode 0b1110000_00000_01011_001_01010_1010011 = .ok (.fclassS 10 11) := by decide
theorem test_decode_thread1 :
    decode 0b0000000_00000_01011_000_00000_0001011 = .ok (.migrS 11) ∧
    decode 0b0000001_00000_01011_000_00000_0001011 = .ok (.migrL 11) ∧
    decode 0b0000010_00000_01011_000_00000_0001011 = .ok (.migrH 11) ∧
    decode 0b0000011_00000_01011_000_00000_0001011 = .ok (.migrA 11) ∧
    decode 0b1001101_00100_01011_010_01010_0101011 = .ok (.ldf 10 11 0x9a4) ∧
    decode 0b0000110_00000_00000_110_00000_0001011 = .ok (.tretry) ∧
    decode 0b0000110_00000_01011_000_01010_0001011 = .ok (.gang 10 11) ∧
    decode 0b0000111_00000_00000_000_00000_0001011 = .ok (.ungang) := by decide
theorem test_decode_thread2 :
    decode 0b0001011_01001_01101_111_00011_0001011 = .ok (.bsig 0x5a5a3) ∧
    decode 0b1001011_01001_01101_111_00011_0001011 = .ok (.ckpt 0x5a5a3) := by decide
theorem test_decode_task1 :
    decode 0b0000100_00000_00000_000_00000_0001011 = .ok (.texit) ∧
    decode 0b0000101_00000_01011_000_01010_0001011 = .ok (.twait 10 11) ∧
    decode 0b0000011_00000_01011_110_01010_0001011 = .ok (.tspawn 10 11) ∧
    decode 0b0000100_00000_01011_110_00000_0001011 = .ok (.tdec 11) ∧
    decode 0b1100101_00010_01011_010_00100_0001011 = .ok (.itnext 11 0xa52) ∧
    decode 0b0000101_00000_01011_110_01010_0001011 = .ok (.itclaim 10 11) ∧
    decode 0b0000000_00000_01011_110_00000_0001011 = .ok (.gjoin 11) ∧
    decode 0b0000001_00000_01011_110_00000_0001011 = .ok (.gleave 11) := by decide
theorem test_decode_task2 :
    decode 0b0000010_00000_01011_110_00000_0001011 = .ok (.gbar 11) := by decide
theorem test_decode_message :
    decode 0b0000011_01100_01011_100_01101_0001011 = .ok (.msend 13 11 12 3) ∧
    decode 0b0001000_01100_01011_100_01010_0001011 = .ok (.msendr 10 11 12) ∧
    decode 0b0001001_00000_00000_100_01010_0001011 = .ok (.mpoll 10) := by decide
theorem test_decode_keymap1 :
    decode 0b0000000_00000_01011_101_01010_0001011 = .ok (.klook 10 11) ∧
    decode 0b0000001_01100_01011_101_01010_0001011 = .ok (.klookC 10 11 12) ∧
    decode 0b0000010_00000_01011_101_01010_0001011 = .ok (.klookP 10 11) ∧
    decode 0b0000011_01100_00000_101_01010_0001011 = .ok (.kbind 10 12) ∧
    decode 0b0000100_01100_00000_101_01010_0001011 = .ok (.kpin 10 12) ∧
    decode 0b0000101_01100_00000_101_01010_0001011 = .ok (.kunpin 10 12) ∧
    decode 0b0000110_01100_00000_101_01010_0001011 = .ok (.kunbind 10 12) ∧
    decode 0b0000111_01100_00000_101_01010_0001011 = .ok (.kabandon 10 12) := by decide
theorem test_decode_keymap2 :
    decode 0b0001000_00000_00000_101_01010_0001011 = .ok (.kvict 10) ∧
    decode 0b0001001_01100_00000_101_01010_0001011 = .ok (.kwait 10 12) ∧
    decode 0b0001010_00000_00000_101_01010_0001011 = .ok (.kwaitU 10) := by decide
theorem test_decode_counter :
    decode 0b0000000_00000_01011_110_00011_0101011 = .ok (.acpost 11 3) ∧
    decode 0b0000001_01100_01011_110_00000_0101011 = .ok (.acadd 11 12) ∧
    decode 0b0000010_00011_00000_110_01010_0101011 = .ok (.acwait 10 3) ∧
    decode 0b0000011_00000_01011_110_00011_0101011 = .ok (.actrig 11 3) ∧
    decode 0b0000100_00011_00000_110_01010_0101011 = .ok (.acread 10 3) := by decide
theorem test_decode_sync_copy :
    decode 0b1001101_00100_01011_000_01010_0101011 = .ok (.ldsync 10 11 0x9a4) ∧
    decode 0b1001101_00100_01011_001_01010_0101011 = .ok (.ldsyncC 10 11 0x9a4) ∧
    decode 0b0000000_01100_01011_011_00000_0101011 = .ok (.feset 11 12) ∧
    decode 0b0000001_01100_01011_011_00000_0101011 = .ok (.feclr 11 12) ∧
    decode 0b0110100_01100_01011_101_00000_0101011 = .ok (.copy 11 12 13) ∧
    decode 0b0110101_01100_01011_101_00000_0101011 = .ok (.copyFe 11 12 13) ∧
    decode 0b0110110_01100_01011_101_00011_0101011 = .ok (.copyAc 11 12 13 3) ∧
    decode 0b0110111_01100_01011_101_01010_0101011 = .ok (.copyTk 11 12 13 10) := by decide
theorem test_decode_vector_integer1 :
    decode 0b0000010_01100_01011_000_01010_1011011 = .ok (.vadd 10 11 12 2) ∧
    decode 0b0000110_01100_01011_000_01010_1011011 = .ok (.vsub 10 11 12 2) ∧
    decode 0b0001010_01100_01011_000_01010_1011011 = .ok (.vmul 10 11 12 2) ∧
    decode 0b0001110_01100_01011_000_01010_1011011 = .ok (.vand 10 11 12 2) ∧
    decode 0b0010010_01100_01011_000_01010_1011011 = .ok (.vor 10 11 12 2) ∧
    decode 0b0010110_01100_01011_000_01010_1011011 = .ok (.vxor 10 11 12 2) ∧
    decode 0b0011010_01100_01011_000_01010_1011011 = .ok (.vsll 10 11 12 2) ∧
    decode 0b0011110_01100_01011_000_01010_1011011 = .ok (.vsrl 10 11 12 2) := by decide
theorem test_decode_vector_integer2 :
    decode 0b0100010_01100_01011_000_01010_1011011 = .ok (.vsra 10 11 12 2) ∧
    decode 0b0100110_01100_01011_000_01010_1011011 = .ok (.vmin 10 11 12 2) ∧
    decode 0b0101010_01100_01011_000_01010_1011011 = .ok (.vmax 10 11 12 2) ∧
    decode 0b0101110_01100_01011_000_01010_1011011 = .ok (.vminu 10 11 12 2) ∧
    decode 0b0110010_01100_01011_000_01010_1011011 = .ok (.vmaxu 10 11 12 2) := by decide
theorem test_decode_vector_float1 :
    decode 0b0000001_01100_01011_001_01010_1011011 = .ok (.vfadd 10 11 12 1) ∧
    decode 0b0000101_01100_01011_001_01010_1011011 = .ok (.vfsub 10 11 12 1) ∧
    decode 0b0001001_01100_01011_001_01010_1011011 = .ok (.vfmul 10 11 12 1) ∧
    decode 0b0001101_01100_01011_001_01010_1011011 = .ok (.vfma 10 11 12 1) ∧
    decode 0b0010001_01100_01011_001_01010_1011011 = .ok (.vfmin 10 11 12 1) ∧
    decode 0b0010101_01100_01011_001_01010_1011011 = .ok (.vfmax 10 11 12 1) ∧
    decode 0b0000001_00011_01011_011_01010_1011011 = .ok (.vmvx 10 11 3) ∧
    decode 0b0000010_00011_01011_011_01010_1011011 = .ok (.vins 10 11 3) := by decide
theorem test_decode_vector_float2 :
    decode 0b0000011_00000_01011_011_01010_1011011 = .ok (.vbcast 10 11) ∧
    decode 0b0000100_00000_01011_011_01010_1011011 = .ok (.vredsumS 10 11) ∧
    decode 0b0000101_00000_01011_011_01010_1011011 = .ok (.vredmaxS 10 11) ∧
    decode 0b0001000_01100_01011_011_01010_1011011 = .ok (.vcmpeqS 10 11 12) ∧
    decode 0b0001001_01100_01011_011_01010_1011011 = .ok (.vcmpltS 10 11 12) ∧
    decode 0b0001010_01100_01011_011_01010_1011011 = .ok (.vcmpleS 10 11 12) ∧
    decode 0b0001100_01100_01011_011_01010_1011011 = .ok (.vsel 10 11 12) := by decide
theorem test_decode_vector_modular :
    decode 0b0000110_01100_01011_010_00000_1011011 = .ok (.vqset 11 12) ∧
    decode 0b0000000_01100_01011_010_01010_1011011 = .ok (.vaddm 10 11 12) ∧
    decode 0b0000001_01100_01011_010_01010_1011011 = .ok (.vsubm 10 11 12) ∧
    decode 0b0000010_01100_01011_010_01010_1011011 = .ok (.vmulm 10 11 12) ∧
    decode 0b0000011_01100_01011_010_01010_1011011 = .ok (.vmont 10 11 12) ∧
    decode 0b0000100_00000_01011_010_01010_1011011 = .ok (.vbfly 10 11) ∧
    decode 0b0000101_00000_01011_010_01010_1011011 = .ok (.vbflyi 10 11) := by decide
theorem test_decode_vector_other1 :
    decode 0b0000000_00010_01011_011_01010_1011011 = .ok (.vpermBf 10 11 2) ∧
    decode 0b1001101_00100_01011_100_01010_1011011 = .ok (.vld 10 11 0x9a4) ∧
    decode 0b1001101_01100_01011_101_00100_1011011 = .ok (.vst 11 12 0x9a4) ∧
    decode 0b0001000_00001_01011_110_01010_1011011 = .ok (.vcvt 10 11 1 0 1) ∧
    decode 0b0000011_01000_01011_111_00000_1011011 = .ok (.vquant 11 8) ∧
    decode 0b0000100_00000_01011_111_01000_1011011 = .ok (.vdquant 8 11) ∧
    decode 0b0000000_00010_01011_111_01010_1011011 = .ok (.vsfu 10 11 2) ∧
    decode 0b0000010_01100_01011_111_00000_1011011 = .ok (.gathb 11 12) := by decide
theorem test_decode_vector_other2 :
    decode 0b0000001_00000_00000_111_00000_1011011 = .ok (.vfence) := by decide
theorem test_decode_matrix_multiply1 :
    decode 0b0110100_01100_01011_000_00010_1111011 = .ok (.mmaE43E43 2 11 12 13) ∧
    decode 0b0110101_01100_01011_000_00010_1111011 = .ok (.mmaE43E52 2 11 12 13) ∧
    decode 0b0110110_01100_01011_000_00010_1111011 = .ok (.mmaE52E43 2 11 12 13) ∧
    decode 0b0110111_01100_01011_000_00010_1111011 = .ok (.mmaE52E52 2 11 12 13) ∧
    decode 0b0110100_01100_01011_001_00010_1111011 = .ok (.mmaE21xE21x 2 11 12 13) ∧
    decode 0b0110101_01100_01011_001_00010_1111011 = .ok (.mmaE43E21x 2 11 12 13) ∧
    decode 0b0110110_01100_01011_001_00010_1111011 = .ok (.mmaBfBf 2 11 12 13) ∧
    decode 0b0110111_01100_01011_001_00010_1111011 = .ok (.mmaSS 2 11 12 13) := by decide
theorem test_decode_matrix_multiply2 :
    decode 0b0000000_01100_01011_010_00010_1111011 = .ok (.mmaI8I8 2 11 12) ∧
    decode 0b0000000_00001_01011_011_00000_1111011 = .ok (.mldw 11 1) ∧
    decode 0b0000001_00000_00000_011_00000_1111011 = .ok (.mswap) ∧
    decode 0b0000010_00000_00000_011_00010_1111011 = .ok (.mzero 2) := by decide
theorem test_decode_matrix_other :
    decode 0b0000011_00001_01011_011_00010_1111011 = .ok (.mrd 2 11 1) ∧
    decode 0b0000100_01100_01011_011_00010_1111011 = .ok (.mrdExp 2 11 12) ∧
    decode 0b0000101_00000_01011_011_00010_1111011 = .ok (.mrmax 2 11) ∧
    decode 0b0000110_00000_01011_011_00000_1111011 = .ok (.mrot 11) ∧
    decode 0b0110100_01100_01011_100_00010_1111011 = .ok (.mtmask 2 11 12 13) ∧
    decode 0b0000111_01100_01011_011_00000_1111011 = .ok (.mcmd 11 12) ∧
    decode 0b0001000_00000_00000_011_00000_1111011 = .ok (.mwait) := by decide
theorem test_decode_topk_combine :
    decode 0b0000000_01100_01011_101_00010_1111011 = .ok (.topkS 11 12 2) ∧
    decode 0b0000001_01100_01011_101_00010_1111011 = .ok (.topkSC 11 12 2) ∧
    decode 0b0000010_01100_01011_101_00010_1111011 = .ok (.topkBf 11 12 2) ∧
    decode 0b0000011_01100_01011_101_00010_1111011 = .ok (.topkBfC 11 12 2) ∧
    decode 0b0000100_00000_01011_101_00000_1111011 = .ok (.rcsnap 11) ∧
    decode 0b0110100_01100_01011_110_00011_1111011 = .ok (.combPutS 11 12 13 3) ∧
    decode 0b0110101_01100_01011_110_00011_1111011 = .ok (.combPutBf 11 12 13 3) := by decide

/-! The words that the spec writes out beside their assembly. -/

theorem test_spec_words1 :
    decode 0x0090360B = .ok (.ldk 12 9) ∧
    decode 0x1000558B = .ok (.kvict 11) ∧
    decode 0x0000728B = .ok (.bsig 5) ∧
    decode 0x1100308B = .ok (.fldk 1 16) ∧
    decode 0x0003800B = .ok (.migrS 7) ∧
    decode 0x0403800B = .ok (.migrH 7) ∧
    decode 0x0800000B = .ok (.texit) ∧
    decode 0x0C00600B = .ok (.tretry) ∧
    decode 0x0A03050B = .ok (.twait 10 6) ∧
    decode 0x0085A52B = .ok (.ldf 10 11 8) := by decide
theorem test_spec_words2 :
    decode 0x1200450B = .ok (.mpoll 10) ∧
    decode 0x0001D50B = .ok (.klook 10 3) ∧
    decode 0x06C0568B = .ok (.kbind 13 12) ∧
    decode 0x1400550B = .ok (.kwaitU 10) ∧
    decode 0x0404600B = .ok (.gbar 8) ∧
    decode 0x0C05850B = .ok (.gang 10 11) ∧
    decode 0x0E00000B = .ok (.ungang) ∧
    decode 0x0603E50B = .ok (.tspawn 10 7) ∧
    decode 0x0803E00B = .ok (.tdec 7) ∧
    decode 0x0A03E50B = .ok (.itclaim 10 7) := by decide
theorem test_spec_words3 :
    decode 0x0007602B = .ok (.acpost 14 0) ∧
    decode 0x040067AB = .ok (.acwait 15 0) ∧
    decode 0x02B5602B = .ok (.acadd 10 11) ∧
    decode 0x0603612B = .ok (.actrig 6 2) ∧
    decode 0x0830652B = .ok (.acread 10 3) ∧
    decode 0x0005852B = .ok (.ldsync 10 11 0) ∧
    decode 0x0005952B = .ok (.ldsyncC 10 11 0) ∧
    decode 0x00B5302B = .ok (.feset 10 11) ∧
    decode 0x02B5302B = .ok (.feclr 10 11) ∧
    decode 0x60B5502B = .ok (.copy 10 11 12) := by decide
theorem test_spec_words4 :
    decode 0x62B5502B = .ok (.copyFe 10 11 12) ∧
    decode 0x66B5532B = .ok (.copyTk 10 11 12 6) ∧
    decode 0x74A1502B = .ok (.copyAc 2 10 14 0) ∧
    decode 0x8000718B = .ok (.ckpt 3) ∧
    decode 0x0200705B = .ok (.vfence) ∧
    decode 0x042081DB = .ok (.vadd 3 1 2 2) ∧
    decode 0x1820925B = .ok (.vfma 4 1 2 0) ∧
    decode 0x0441A2DB = .ok (.vmulm 5 3 4) ∧
    decode 0x0800A45B = .ok (.vbfly 8 1) ∧
    decode 0x0C20A05B = .ok (.vqset 1 2) := by decide
theorem test_spec_words5 :
    decode 0x0020B15B = .ok (.vpermBf 2 1 2) ∧
    decode 0x0202B55B = .ok (.vmvx 10 5 0) ∧
    decode 0x080130DB = .ok (.vredsumS 1 2) ∧
    decode 0x1820B1DB = .ok (.vsel 3 1 2) ∧
    decode 0x080040DB = .ok (.vld 1 0 0x80) ∧
    decode 0x0436505B = .ok (.vst 12 3 0x40) ∧
    decode 0x1010E15B = .ok (.vcvt 2 1 1 0 1) ∧
    decode 0x0685705B = .ok (.vquant 10 8) ∧
    decode 0x0805745B = .ok (.vdquant 8 10) ∧
    decode 0x0000F15B = .ok (.vsfu 2 1 0) := by decide
theorem test_spec_words6 :
    decode 0x0445705B = .ok (.gathb 10 4) ∧
    decode 0x0035307B = .ok (.mldw 10 3) ∧
    decode 0x0075307B = .ok (.mldw 10 7) ∧
    decode 0x0200307B = .ok (.mswap) ∧
    decode 0x040030FB = .ok (.mzero 1) ∧
    decode 0x08D5007B = .ok (.mmaE43E43 0 10 13 1) ∧
    decode 0x14D510FB = .ok (.mmaBfBf 1 10 13 2) ∧
    decode 0x00D5217B = .ok (.mmaI8I8 2 10 13) ∧
    decode 0x0C04B07B = .ok (.mrot 9) ∧
    decode 0x0605307B = .ok (.mrd 0 10 0) := by decide
theorem test_spec_words7 :
    decode 0x0615B0FB = .ok (.mrd 1 11 1) ∧
    decode 0x0835B0FB = .ok (.mrdExp 1 11 3) ∧
    decode 0x0A0630FB = .ok (.mrmax 1 12) ∧
    decode 0x20D640FB = .ok (.mtmask 1 12 13 4) ∧
    decode 0x0EB5307B = .ok (.mcmd 10 11) ∧
    decode 0x1000307B = .ok (.mwait) ∧
    decode 0x02B5517B = .ok (.topkSC 10 11 2) ∧
    decode 0x0805507B = .ok (.rcsnap 10) ∧
    decode 0x28B560FB = .ok (.combPutS 10 11 5 1) ∧
    decode 0x2AB560FB = .ok (.combPutBf 10 11 5 1) := by decide

/-! ## Single steps, with results worked out by hand from the rules -/

/-- The executing thread behind an instruction that gives a next state; the state itself where it gives none. -/
def after (i : Instr) (s : State) : State :=
  match exec i s with
  | .next t => t
  | _ => s
def cur (s : State) : Thread := s.cur?.getD (newThread 0 0 0 placedTask)

/-- The machine with one thread: context 0, core 0, slot 0, PC 0x400000. -/
def base : State := State.reset.withFetchWord 32 0x13
def withG (r : Nat) (v : Word) (s : State) : State := s.onThread 0 0 fun t => { t with g := t.g.setIfInBounds r v }
def withF (r : Nat) (v : BitVec 32) (s : State) : State := s.onThread 0 0 fun t => { t with f := t.f.setIfInBounds r v }
/-- The thread with two g operands, and with two f operands. -/
def two (x y : Word) : State := withG 11 x (withG 12 y base)
def twoF (x y : BitVec 32) : State := withF 11 x (withF 12 y base)
/-- What an instruction leaves in g10, in f10 and in FSTAT's flags. -/
def out (i : Instr) (s : State) : Word := (cur (after i s)).getG 10
def outF (i : Instr) (s : State) : BitVec 32 := (cur (after i s)).getF 10
def flags (i : Instr) (s : State) : Word := (cur (after i s)).fstat &&& 0x1F
/-- A thread whose traps enter a handler at 0x500000. -/
def guarded (s : State) : State := s.onThread 0 0 fun t => { t with utvec := 0x500001 }
/-- UCAUSE, UTVAL and the PC behind an instruction. -/
def trapOf (i : Instr) (s : State) : Word × Word × Word :=
  let t := cur (after i (guarded s))
  (t.ucause, t.utval, t.pc)
def one_ (x : Word) : State := withG 11 x base

/-! R138 -/
theorem test_add_wraps : out (.add 10 11 12) (two (-1) 1) = 0 := by decide
theorem test_add_g0 : (cur (after (.add 0 11 12) (two 1 1))).getG 0 = 0 := by decide
theorem test_sub : out (.sub 10 11 12) (two 0 1) = 0xFFFFFFFFFFFFFFFF := by decide
theorem test_lui : out (.lui 10 0xABCDE) base = 0xFFFFFFFFABCDE000 := by decide
theorem test_auipc : out (.auipc 10 1) base = 0x401000 := by decide
theorem test_slt_sltu : out (.slt 10 11 12) (two (-1) 0) = 1 ∧ out (.sltu 10 11 12) (two (-1) 0) = 0 := by decide
theorem test_sltiu : out (.sltiu 10 11 0xFFF) (one_ 5) = 1 := by decide
theorem test_xori : out (.xori 10 11 0xFFF) (one_ 5) = 0xFFFFFFFFFFFFFFFA := by decide
theorem test_shift_amount : out (.sll 10 11 12) (two 1 65) = 2 ∧ out (.sllw 10 11 12) (two 1 33) = 2 := by decide
theorem test_srl_sra : out (.srl 10 11 12) (two 0x8000000000000000 63) = 1 ∧
    out (.sra 10 11 12) (two 0x8000000000000000 63) = 0xFFFFFFFFFFFFFFFF := by decide
theorem test_word_results : out (.addw 10 11 12) (two 0x7FFFFFFF 1) = 0xFFFFFFFF80000000 ∧
    out (.srlw 10 11 12) (two 0xFFFFFFFF 4) = 0x0FFFFFFF ∧ out (.sraw 10 11 12) (two 0x80000000 4) = 0xFFFFFFFFF8000000 ∧
    out (.slliw 10 11 31) (one_ 1) = 0xFFFFFFFF80000000 := by decide

/-! R139 -/
theorem test_division_by_zero : out (.div 10 11 12) (two 7 0) = 0xFFFFFFFFFFFFFFFF ∧ out (.divu 10 11 12) (two 7 0) = 0xFFFFFFFFFFFFFFFF ∧
    out (.rem 10 11 12) (two 7 0) = 7 ∧ out (.remuw 10 11 12) (two 0x80000000 0) = 0xFFFFFFFF80000000 := by decide
theorem test_division_overflow : out (.div 10 11 12) (two 0x8000000000000000 (-1)) = 0x8000000000000000 ∧
    out (.rem 10 11 12) (two 0x8000000000000000 (-1)) = 0 ∧
    out (.divw 10 11 12) (two 0x80000000 (-1)) = 0xFFFFFFFF80000000 ∧ out (.remw 10 11 12) (two 0x80000000 (-1)) = 0 := by decide
theorem test_division_signs : out (.div 10 11 12) (two (-7) 2) = 0xFFFFFFFFFFFFFFFD ∧
    out (.rem 10 11 12) (two (-7) 2) = 0xFFFFFFFFFFFFFFFF := by decide
theorem test_high_products : out (.mulh 10 11 12) (two (-1) (-1)) = 0 ∧ out (.mulhu 10 11 12) (two (-1) (-1)) = 0xFFFFFFFFFFFFFFFE ∧
    out (.mulhsu 10 11 12) (two (-1) (-1)) = 0xFFFFFFFFFFFFFFFF := by decide
theorem test_mulw : out (.mulw 10 11 12) (two 0x10000 0x8000) = 0xFFFFFFFF80000000 := by decide

/-! R140, R142 -/
theorem test_jal : (cur (after (.jal 10 0xFFFFE) base)).pc = 0x3FFFFC ∧ out (.jal 10 0xFFFFE) base = 0x400004 := by decide
theorem test_jalr_same_register : (cur (after (.jalr 11 11 1) (one_ 0x500000))).pc = 0x500000 ∧
    (cur (after (.jalr 11 11 1) (one_ 0x500000))).getG 11 = 0x400004 := by decide
theorem test_jalr_misaligned : trapOf (.jalr 10 11 2) (one_ 0x500000) = (3, 0x500002, 0x500000) := by decide
theorem test_branches : (cur (after (.blt 11 12 8) (two (-1) 0))).pc = 0x400010 ∧
    (cur (after (.bltu 11 12 8) (two (-1) 0))).pc = 0x400004 ∧ (cur (after (.beq 11 12 0xFFE) (two 3 3))).pc = 0x3FFFFC := by decide
theorem test_predicates : (cur (after (.pcmpLt 3 11 12) (two (-1) 0))).p = 0x9 ∧
    (cur (after (.pcmpEq 0 11 12) (two 1 0))).p = 1 ∧ out (.pmov 10) base = 1 := by decide
theorem test_csel_bp : out (.csel 10 11 12 5) (two 1 2) = 2 ∧ out (.csel 10 11 12 0) (two 1 2) = 1 ∧
    (cur (after (.bp 0 4) base)).pc = 0x400008 ∧ (cur (after (.bnp 0 4) base)).pc = 0x400004 := by decide

/-! R143, R145, R149, R69 -/
def stored : State := base.putOwn 0x900 8 0x8182838485868788
theorem test_loads : out (.lb 10 11 0) (withG 11 0x900 stored) = 0xFFFFFFFFFFFFFF88 ∧
    out (.lhu 10 11 2) (withG 11 0x900 stored) = 0x8586 ∧ out (.lw 10 11 4) (withG 11 0x900 stored) = 0xFFFFFFFF81828384 ∧
    out (.ld 10 11 0xFF8) (withG 11 0x908 stored) = 0x8182838485868788 := by decide
theorem test_load_checks : trapOf (.lw 10 11 2) (withG 11 0x900 stored) = (3, 0x902, 0x500000) ∧
    trapOf (.lw 10 11 0) (one_ 0xFE00000000018000) = (4, 0xFE00000000018000, 0x500000) := by decide
theorem test_sh : (after (.sh 11 12 2) (two 0x900 0x12345)).here.mem = [(0x902, 0x45), (0x903, 0x23)] := by decide
theorem test_store_reserved : trapOf (.sd 11 12 0) (two 0x7F8 1) = (6, 0x7F8, 0x500000) := by decide
theorem test_ldk : out (.ldk 10 3) (base.putOwn 24 8 0x1234) = 0x1234 := by decide
theorem test_atm_min : out (.atmMin 10 11 12 0 3) (withG 11 0x900 (withG 12 5 stored)) = 0xFFFFFFFF85868788 ∧
    (after (.atmMinu 10 11 12 0 3) (withG 11 0x900 (withG 12 5 stored))).ownWord 0x900 8 = 0x8182838400000005 := by decide
theorem test_atm_cas : (after (.atmCas 10 11 12 1 0) (withG 10 7 (withG 11 0x900 (withG 12 5 stored)))).ownWord 0x900 8
    = 0x8182838485868788 := by decide
theorem test_atm_fadd : (after (.atmFadd 0 11 12 0) (withG 11 0x900 (withG 12 0x3F800000 (base.putOwn 0x900 4 0x3F800000)))).ownWord 0x900 4
    = 0x40000000 := by decide

/-! R153, R108, R110, R205 -/
theorem test_csr_set : out (.csrrsi 10 1 3) base = 0 ∧ (cur (after (.csrrsi 10 1 3) base)).fstat = 0x103 := by decide
theorem test_csr_clear_reads : out (.csrrc 10 0 3) base = 0x100 := by decide
theorem test_srseed_zero : (cur (after (.csrrwi 0 0x800 0) base)).srseed = 1 := by decide
theorem test_qset : ((after (.csrrw 0 11 0x834) (one_ 5)).slot 0 0).mod.mu = #v[5, 0, 0, 0] := by decide

/-! R109-R114, R155, R156 -/
theorem test_fadd : outF (.faddS 10 11 12 0) (twoF 0x3F800000 0x33800000) = 0x3F800000 ∧
    flags (.faddS 10 11 12 0) (twoF 0x3F800000 0x33800000) = 1 ∧
    outF (.faddS 10 11 12 3) (twoF 0x3F800000 0x33800000) = 0x3F800001 := by decide
theorem test_fdiv : outF (.fdivS 10 11 12 0) (twoF 0x3F800000 0x80000000) = 0xFF800000 ∧
    flags (.fdivS 10 11 12 0) (twoF 0x3F800000 0x80000000) = 8 ∧
    outF (.fdivS 10 11 12 1) (twoF 0x3F800000 0x40400000) = 0x3EAAAAAA := by decide
theorem test_fsqrt : outF (.fsqrtS 10 11 0) (twoF 0x40800000 0) = 0x40000000 ∧ outF (.fsqrtS 10 11 0) (twoF 0xBF800000 0) = 0x7FC00000 ∧
    flags (.fsqrtS 10 11 0) (twoF 0xBF800000 0) = 16 := by decide
theorem test_fma_signs : outF (.fmaddS 10 11 12 13 0) (withF 13 0x40400000 (twoF 0x40000000 0x40000000)) = 0x40E00000 ∧
    outF (.fnmsubS 10 11 12 13 0) (withF 13 0x40400000 (twoF 0x40000000 0x40000000)) = 0xBF800000 ∧
    outF (.fnmaddS 10 11 12 13 0) (withF 13 0x40400000 (twoF 0x40000000 0x40000000)) = 0xC0E00000 := by decide
theorem test_fmin : outF (.fminS 10 11 12) (twoF 0x80000000 0) = 0x80000000 ∧ outF (.fmaxS 10 11 12) (twoF 0x7FC00000 0x3F800000) = 0x3F800000 := by
  decide
theorem test_fcvt_nan : out (.fcvtWS 10 11 0) (twoF 0x7FC00000 0) = 0 ∧ flags (.fcvtWS 10 11 0) (twoF 0x7FC00000 0) = 16 := by decide
theorem test_fcvt_range : out (.fcvtWS 10 11 0) (twoF 0x4F000000 0) = 0x7FFFFFFF ∧ out (.fcvtWuS 10 11 0) (twoF 0xBF800000 0) = 0 ∧
    out (.fcvtWuS 10 11 0) (twoF 0x4F7FFFFF 0) = 0xFFFFFFFFFFFFFF00 := by decide
theorem test_fcvt_ties : out (.fcvtLS 10 11 0) (twoF 0x40200000 0) = 2 ∧ out (.fcvtLS 10 11 4) (twoF 0x40200000 0) = 3 ∧
    out (.fcvtLS 10 11 2) (twoF 0xC0200000 0) = 0xFFFFFFFFFFFFFFFD := by decide
theorem test_fcompare : out (.feqS 10 11 12) (twoF 0 0x80000000) = 1 ∧ out (.fltS 10 11 12) (twoF 0x7FC00000 0) = 0 ∧
    flags (.fltS 10 11 12) (twoF 0x7FC00000 0) = 16 ∧ flags (.feqS 10 11 12) (twoF 0x7FC00000 0) = 0 := by decide
theorem test_fclass : out (.fclassS 10 11) (twoF 0x80000001 0) = 4 ∧ out (.fmvXW 10 11) (twoF 0x80000001 0) = 0xFFFFFFFF80000001 := by decide
theorem test_illegal_rounding : trapOf (.faddS 10 11 12 7) ((twoF 0 0).onThread 0 0 fun t => { t with fstat := 0x1C0, iword := 0x00C5F553 })
    = (1, 0x00C5F553, 0x500000) := by decide

/-! R157, R158, R247, R248 -/
theorem test_ecall : trapOf .ecall base = (7, 0, 0x500000) ∧ (cur (after .ecall (guarded base))).uepc = 0x400000 ∧
    (cur (after .ecall (guarded base))).handler = true := by decide
theorem test_tret : (cur (after .tret (after .ecall (guarded base)))).pc = 0x400000 ∧
    (cur (after .tret (after .ecall (guarded base)))).handler = false := by decide
theorem test_ebreak_ends_task : ((after .ebreak base).slot 0 0).occ = .empty := by decide

/-! R25-R27: a word pushed to the receive queue is read once, at the ring's base -/
def queued : State := (base.putOwn 0x900 8 77).setSlot 0 0 { (base.slot 0 0) with
  q := { rx := { en := true, base := 0x48, lg := 2, head := 0, count := 1 } } }
theorem test_qrx : out (.add 10 28 0) queued = 77 ∧ ((after (.add 10 28 0) queued).slot 0 0).q.rx.count = 0 ∧
    (cur (after (.add 10 28 28) queued)).park = .retry 4 := by decide

/-! R45, R160, R163, R171 -/
theorem test_gang_ineligible : out (.gang 10 11) (one_ 2) = 2 := by decide
theorem test_migr_target : trapOf (.migrS 11) (one_ 5000) = (11, 5000, 0x500000) := by decide
theorem test_migr_parks : (cur (after (.migrS 11) (one_ 3))).park = .await 13 (.migrate .short 3) := by decide

/-! R67: the chunk 3 to 4 of a nest of 2 by 5: index 3 is (1, 1, 0), then the branch is taken -/
def chunk : State := base.onThread 0 0 fun t => { t with itcur := 0x0000020000000003, itend := 0x0000050000000004 }
theorem test_itnext : (cur (after (.itnext 10 8) chunk)).getG 10 = 1 ∧ (cur (after (.itnext 10 8) chunk)).getG 11 = 1 ∧
    (cur (after (.itnext 10 8) chunk)).getG 12 = 0 ∧ (cur (after (.itnext 10 8) chunk)).pc = 0x400004 := by decide
theorem test_itnext_end : (cur (after (.itnext 10 8) (after (.itnext 10 8) chunk))).pc = 0x400014 := by decide

/-! R168: a map of two slots: a key claimed is pending, bound by its owner, and found -/
def mapped : State := (one_ 9).setCore 0 { (one_ 9).core 0 with kmapcfg := 0x80020000 }
def claimed : State := after (.klookC 10 11 12) (withG 12 0 mapped)
theorem test_klook_claims : ((claimed.core 0).entry 0).state = .pending ∧ ((claimed.core 0).entry 0).key = 9 := by decide
theorem test_kbind : (((after (.kbind 10 0) claimed).core 0).entry 0).state = .bound ∧
    (((after (.kbind 10 0) claimed).core 0).entry 0).key = 9 := by decide
theorem test_kmap_off : trapOf (.klook 10 11) (one_ 9) = (2, 0, 0x500000) := by decide

/-! R178: a counter that has 1,536 of 1,024 expected completes at the post with an excess of 512 -/
def surplus : State := (one_ 1024).setCounter 0 3 { count := 1536 }
theorem test_counter_excess : out (.acwait 10 3) (after (.acpost 11 3) surplus) = 512 ∧
    out (.acread 10 3) (after (.acpost 11 3) surplus) = 0x200000200 := by decide
theorem test_acwait_parks : (cur (after (.acwait 10 3) base)).park = .await 7 (.counter 10 3) := by decide

/-! R180, R181 -/
theorem test_feset : ((after (.feset 11 12) (two 0x900 16)).core 0).full = [(0x120, 1), (0x121, 1)] := by decide
def synced : State := after (.ldsyncC 10 11 0) (after (.feset 11 12) (withG 12 8 (withG 11 0x900 stored)))
theorem test_ldsync_consumes : (cur synced).getG 10 = 0x8182838485868788 ∧ (synced.core 0).full = [] ∧ synced.net = [] := by decide
theorem test_copy_queued : ((after (.copy 11 12 13) (withG 13 64 (two 0x900 0x1000))).core 0).copyq.map (fun q => (q.dst, q.src, q.len))
    = [(0x900, 0x1000, 64)] := by decide

/-! ## Values of the vector and matrix units: the spec's worked examples -/

/-- Four 64-bit lanes as a vector register. -/
def lanes (a b c d : Word) : VReg := d ++ c ++ b ++ a
theorem test_vadd_b : elem (mapElems 8 (intElem 0 8) 0xFF01 0x0101) 8 1 = 0 ∧ elem (mapElems 8 (intElem 0 8) 0xFF01 0x0101) 8 0 = 2 := by decide
theorem test_vsra_h : elem (mapElems 16 (intElem 8 16) 0x8000 0x11) 16 0 = 0xC000 := by decide
/-- R208: `vperm.bf v2, v1, 2` in a gang of two: 14, 15, 16, 17 and 10, 11, 12, 13; with k = 1: 12, 13, 10, 11. -/
theorem test_vperm : permuted 2 [lanes 10 11 12 13, lanes 14 15 16 17] 0 = lanes 14 15 16 17 ∧
    permuted 2 [lanes 10 11 12 13, lanes 14 15 16 17] 1 = lanes 10 11 12 13 ∧
    permuted 1 [lanes 10 11 12 13, lanes 14 15 16 17] 0 = lanes 12 13 10 11 ∧
    permuted 1 [lanes 10 11 12 13, lanes 14 15 16 17] 1 = lanes 16 17 14 15 := by decide
/-- R118: q = 2^32 + 1, VMU = 2^32 − 1: both products give 1. -/
def fermat : Moduli := { q := Vector.replicate 4 0x100000001, mu := Vector.replicate 4 0xFFFFFFFF }
theorem test_vmont : laneOf (modularRegs 3 fermat (lanes 0x100000000 1 0 0) (lanes 0x100000000 1 0 0)) 0 = 1 ∧
    laneOf (modularRegs 3 fermat (lanes 0x100000000 1 0 0) (lanes 0x100000000 1 0 0)) 1 = 1 := by decide
/-- R209: 2^24 + 1 + 1 − 2^24 by the tree is 1.0, with nx. -/
theorem test_vredsum : addTree 0 6 [] 0 [0x4B800000, 0x3F800000, 0x3F800000, 0xCB800000, 0, 0, 0, 0] = (0x3F800000, 1) := by decide
/-- R229: (1, 2^−12, 2^−12) times (1, 2^−12, 2^−20) in one rounding is 1 + 2^−23. -/
theorem test_mma_one_rounding : mmaFloat 0 0x3F800000
    [(fp32.decode 0x3F800000, fp32.decode 0x3F800000), (fp32.decode 0x39800000, fp32.decode 0x39800000),
     (fp32.decode 0x39800000, fp32.decode 0x35800000)] = 0x3F800001 := by decide
/-- R241: of −0, 1.0, NaN, +0 the three best are 1.0, −0 and +0. -/
theorem test_topk : (selectTop 32 3 4 ([0, 0, 0, 0x80] ++ [0, 0, 0x80, 0x3F] ++ [0, 0, 0xC0, 0x7F] ++ [0, 0, 0, 0])).1 = [1, 0, 3] := by decide
/-- R113: 448.0 and 480.0 as E4M3, with and without saturation. -/
theorem test_e4m3 : convert { mode := 0, sat := true, r := 0 } 3 0 0x43F00000 = (0x7E, 5) ∧
    convert { mode := 0, sat := false, r := 0 } 3 0 0x43F00000 = (0x7F, 5) ∧
    convert { mode := 0, sat := false, r := 0 } 3 0 0x43E00000 = (0x7E, 0) := by decide
/-- R207: q = 97, the pair (5, 10) with twiddle 22 becomes (31, 76), and with 75 back (10, 20). -/
def q97 : Moduli := { q := Vector.replicate 4 97 }
theorem test_vbfly : ((butterflyRegs false q97 5 10 22).1 = 31 ∧ (butterflyRegs false q97 5 10 22).2 = 76) ∧
    ((butterflyRegs true q97 31 76 75).1 = 10 ∧ (butterflyRegs true q97 31 76 75).2 = 20) := by decide

/-! ## Events -/

/-- One event with its operand. -/
def event (i : Instr) (a : EvArg) (s : State) : State := after i { s with ev := a }
/-- R194, R195: `vbcast` and `vins` issue, start, and write lane 1 of v31 last. -/
def inserted : State :=
  let s := after (.vins 31 11 1) (after (.vbcast 31 12) (two 7 9))
  event .vectorResultWrite {} (event .vectorResultWrite {} (event .vectorCommandStart {} (event .vectorResultWrite {} (event .vectorCommandStart {} s))))
theorem test_vector_events : (inserted.core 0).v[31] = lanes 9 7 9 9 ∧ (cur inserted).pc = 0x400008 := by decide
/-- R197: a misaligned `vld` defers code 1, which `vfence` reports as VECTOR_FAULT with the instruction's address. -/
theorem test_vector_deferred : trapOf .vfence (event .vectorCommandStart {} (after (.vld 1 11 0) (one_ 0x901))) = (0x110, 0x400000, 0x500000) := by
  decide
/-- R185, R186: a copy of two words within the core sets their full bits with the data. -/
def copied : State := event .copyComplete {} (event .copyWrite { m := 2 } (event .copyStart {}
  (after (.copyFe 11 12 13) (withG 13 16 (withG 11 0xA00 (withG 12 0x900 stored))))))
theorem test_copy_events : (copied.core 0).mem.load 0xA00 8 = 0x8182838485868788 ∧ (copied.core 0).full = [(0x140, 1), (0x141, 1)] ∧
    (copied.core 0).copying = none := by decide
/-- R238: a matrix command in progress holds `mwait`; `mswap` exchanges the planes. -/
theorem test_mswap : (((event .matrixOperationComplete {} (event .matrixOperationStart {} (after .mswap (base.setCore 0 { base.core 0 with
    mx := { loShadow := { bytes := [1], tag := some 0 } } })))).core 0).mx.loActive).bytes = [1] ∧
    (cur (after .mwait (after .mswap base))).park = .retry 11 := by decide
/-- R40-R43: a thread departs from slot 0 of core 0 and arrives in core 3 at the next instruction. -/
theorem test_migration : ((event .migrationArrival { n := 3 } (event .migrationDeparture {} (after (.migrS 11) (one_ 3)))).thread? 3 0).map
    (fun t => (t.pc, t.getG 11)) = some (0x400004, 3) := by decide
/-- R24, R26: a message of one word to the thread itself arrives behind its header, and its sender goes on. -/
def sent : State := event .messageReply { n := 3 } (event .messageArrival { n := 2 } (after (.msend 13 11 12 0)
  ((withG 13 77 (two 0 0x500000000)).setSlot 0 0 { ((withG 13 77 (two 0 0x500000000)).slot 0 0) with q := { rx := { en := true, base := 0x48, lg := 2 } } })))
theorem test_message : (sent.core 0).mem.load 0x900 8 = 0x500100000 ∧ (sent.core 0).mem.load 0x908 8 = 77 ∧
    ((sent.slot 0 0).q.rx.count, (cur sent).pc) = (2, 0x400004) := by decide

/-! ## The hypotheses of the statements are met -/

theorem issues_of {s : State} {t : Thread} {reads : List Reg} {w : Reg} {irr : Bool}
    (h : s.cur? = some t ∧ s.portWait reads w = none ∧ s.readTrap reads = none ∧ s.writeTrap w = none ∧
      (irr = true → s.heldBack t = false) ∧ ∀ off ∈ s.portOffsets reads, s.localError s.curCore off 8 = none) : Issues s t reads w irr :=
  ⟨h.1, h.2.1, h.2.2.1, h.2.2.2.1, h.2.2.2.2.1, h.2.2.2.2.2⟩
theorem retires_of {s : State} {t : Thread} (h : s.cur? = some t ∧ (s.checking t = true → t.checker.pending = false)) : Retires s t :=
  ⟨h.1, h.2⟩
theorem reaches_of {s : State} {t : Thread} {a : Word} {n : Nat} {w : Bool} {tgt : Target}
    (h : s.accessTrap t.ctx s.curCore a n w = none ∧ s.reach t.ctx s.curCore a { write := w } = .target tgt) : Reaches s t a n w tgt :=
  ⟨h.1, h.2⟩
theorem misses_of {s : State} {t : Thread} {a : Word} {n : Nat} {w : Bool}
    (h : s.accessTrap t.ctx s.curCore a n w = none ∧ s.reach t.ctx s.curCore a { write := w } = .miss) : Misses s t a n w :=
  ⟨h.1, h.2⟩

/-- A thread whose kernel has a signature table: its checker runs and awaits no block signature (R190). -/
def checkedState (pending : Bool) : State :=
  (base.setCtx 0 { ({ record := { placedRecord with cls := 0 }, phase := .open } : Ctx) with
    kernels := [{ entry := 0x400000, start := 0x400000, length := 0x1000, sig := some [], ckpt := none }] }).onThread 0 0
      fun t => { t with checker := { pending } }

theorem witness_ResultValues : (∃ r, integerRow (.add 10 28 12) = some r ∧ Issues queued (cur queued) r.reads r.rd false) ∧
    (∃ r, multiplyRow (.div 0 11 0) = some r ∧ Issues base (cur base) r.reads r.rd false) ∧
    (∃ r, moveRow (.csel 31 11 12 31) = some r ∧ Issues base (cur base) r.reads r.rd false) :=
  ⟨⟨_, rfl, issues_of (by decide)⟩, ⟨_, rfl, issues_of (by decide)⟩, ⟨_, rfl, issues_of (by decide)⟩⟩

theorem witness_RegisterFrames :
    (∃ r, resultRow (.add 31 27 0) = some r ∧ Retires (checkedState false) (cur (checkedState false)) ∧
      (∀ q ∈ r.reads, plainReg q = true) ∧ plainReg r.rd = true) ∧
    (∃ r, transferRow (.jalr 1 11 4) = some r ∧ targetOk (.jalr 1 11 4) (r.target base (cur base)) ∧ Retires base (cur base) ∧
      (∀ q ∈ r.reads, plainReg q = true) ∧ (∀ q ∈ r.link, plainReg q = true)) ∧
    (∃ r, predicateRow (.pcmpLt 0 11 12) = some r ∧ Retires base (cur base) ∧ (∀ q ∈ r.reads, plainReg q = true)) ∧
    (∃ r, floatRow (.faddS 31 11 12 7) = some r ∧ r.mode (cur base) = some 0 ∧ Retires base (cur base) ∧
      (∀ q ∈ r.reads, plainReg q = true)) :=
  ⟨⟨_, rfl, retires_of (by decide), by decide, by decide⟩,
   ⟨_, rfl, show (_ : Bool) = _ by decide, retires_of (by decide), by decide, by decide⟩,
   ⟨_, rfl, retires_of (by decide), by decide⟩, ⟨_, rfl, by decide, retires_of (by decide), by decide⟩⟩

theorem witness_ControlTransfers :
    (∃ r, transferRow (.jal 0 0xFFFFE) = some r ∧ targetOk (.jal 0 0xFFFFE) (r.target base (cur base)) ∧
      Issues base (cur base) r.reads (r.link.getD 0) false) ∧
    (∃ r, transferRow (.jalr 10 28 0xFFF) = some r ∧ (r.target (queued.putOwn 0x900 8 0x400003) (cur queued)).getLsbD 1 = true ∧
      Issues (queued.putOwn 0x900 8 0x400003) (cur queued) [28] 10 false) :=
  ⟨⟨_, rfl, trivial, issues_of (by decide)⟩, ⟨_, rfl, by decide, issues_of (by decide)⟩⟩

theorem witness_PredicateResults : ∃ r, predicateRow (.pcmpGeu 31 28 0) = some r ∧ Issues queued (cur queued) r.reads 0 false :=
  ⟨_, rfl, issues_of (by decide)⟩

theorem witness_FloatResults :
    (∃ r, floatRow (.fcvtSL 0 28 5) = some r ∧ r.mode (cur queued) = some 5 ∧ Issues queued (cur queued) r.reads 0 false) ∧
    (∃ r, floatIntRow (.fcvtLuS 31 31 4) = some r ∧ r.mode (cur base) = some 4 ∧ Retires base (cur base) ∧ plainReg r.rd = true) :=
  ⟨⟨_, rfl, by decide, issues_of (by decide)⟩, ⟨_, rfl, by decide, retires_of (by decide), by decide⟩⟩

/-- FSTAT.rm names no mode. -/
def unrounded : State := base.onThread 0 0 fun t => { t with fstat := 0x1C0 }
theorem witness_IllegalRounding :
    (∃ r, floatRow (.fmulS 1 2 3 7) = some r ∧ r.mode (cur unrounded) = none ∧ Issues unrounded (cur unrounded) r.reads 0 false) ∧
    (∃ r, floatIntRow (.fcvtWS 10 2 7) = some r ∧ r.mode (cur unrounded) = none ∧ Issues unrounded (cur unrounded) [] r.rd false) :=
  ⟨⟨_, rfl, by decide, issues_of (by decide)⟩, ⟨_, rfl, by decide, issues_of (by decide)⟩⟩

theorem witness_RoundingModes : (1 : Nat) = 2 ^ 0 ∧ 65535 < 2 ^ 16 := by decide

/-- Addresses of the low window up to its last word, with no error behind them. -/
def near (off : Word) : State := withG 11 off base
/-- A speculative ordered task in part 0. -/
def speculative (off : Word) : State :=
  let s := (near off).onThread 0 0 fun t => { t with spec := some 0 }
  s.setCore 0 { s.core 0 with spec := (s.core 0).spec.setIfInBounds 0 (some { task := placedTask, uid := (cur s).uid }) }

theorem witness_LocalLoads :
    (∃ r, loadRow (.ld 10 11 0) = some r ∧ Retires (near 0x17FF8) (cur (near 0x17FF8)) ∧ plainReg r.base = true ∧
      plainReg r.write = true ∧ (cur (near 0x17FF8)).spec = none ∧
      Reaches (near 0x17FF8) (cur (near 0x17FF8)) (r.address (near 0x17FF8) (cur (near 0x17FF8))) r.n false (.local 0 0x17FF8) ∧
      (near 0x17FF8).localError 0 0x17FF8 r.n = none) ∧
    (∃ r, loadRow (.lb 10 11 0xFFF) = some r ∧ Retires (speculative 1) (cur (speculative 1)) ∧ plainReg r.base = true ∧
      plainReg r.write = true ∧ (cur (speculative 1)).spec.isSome = true ∧
      Reaches (speculative 1) (cur (speculative 1)) (r.address (speculative 1) (cur (speculative 1))) r.n false (.local 0 0) ∧
      (speculative 1).localError 0 0 r.n = none) ∧
    (Retires base (cur base) ∧ base.localError base.curCore (8 * (255 : BitVec 8).toNat) 8 = none) :=
  ⟨⟨_, rfl, retires_of (by decide), by decide, by decide, by decide, reaches_of (by decide), by decide⟩,
   ⟨_, rfl, retires_of (by decide), by decide, by decide, by decide, reaches_of (by decide), by decide⟩,
   retires_of (by decide), by decide⟩

/-- A page in the TLB, with no memory map: host memory at 0. -/
def paged (a : Word) : State := (near a).setCore 0 { (near a).core 0 with
  tlb := [{ ctx := 0, va := 0x20000, pa := 0, lg := 12, write := true, exec := true }] }
/-- The same with so many buffered stores of 8 bytes at the page's start. -/
def buffering (n : Nat) (a : Word) : State := (List.replicate n ()).foldl (fun s _ =>
  s.send { id := 0, ctx := 0, core := 0, slot := 0, uid := (cur (paged a)).uid, buffered := true, kind := .store (.phys 0) 8 5 }) (paged a)

theorem witness_RemoteLoads : ∃ r, loadRow (.lw 10 11 0) = some r ∧
    (∀ s ∈ [paged 0x20004, buffering 1 0x20004, buffering 1 0x30000], Retires s (cur s) ∧ plainReg r.base = true ∧
      plainReg r.write = true ∧ (cur s).spec = none) ∧
    (Reaches (paged 0x20004) (cur (paged 0x20004)) (r.address (paged 0x20004) (cur (paged 0x20004))) r.n false (.phys 4) ∧
      (paged 0x20004).forward 0 (.phys 4) r.n = .none) ∧
    (Reaches (buffering 1 0x20004) (cur (buffering 1 0x20004)) (r.address (buffering 1 0x20004) (cur (buffering 1 0x20004))) r.n
        false (.phys 4) ∧ (buffering 1 0x20004).forward 0 (.phys 4) r.n = .value 2 0) ∧
    (Misses (buffering 1 0x30000) (cur (buffering 1 0x30000)) (r.address (buffering 1 0x30000) (cur (buffering 1 0x30000))) r.n false) :=
  ⟨_, rfl, by
    intro s hs
    simp only [List.mem_cons, List.not_mem_nil, or_false] at hs
    obtain rfl | rfl | rfl := hs <;> exact ⟨retires_of (by decide), by decide, by decide, by decide⟩,
   ⟨reaches_of (by decide), by decide⟩, ⟨reaches_of (by decide), by decide⟩, misses_of (by decide)⟩
/-- The clause of the wait: a load of 8 bytes behind a buffered store of 4. -/
def halfStored : State := (paged 0x20000).send { id := 0, ctx := 0, core := 0, slot := 0, uid := 0, buffered := true, kind := .store (.phys 4) 4 5 }
theorem witness_RemoteLoads_wait : ∃ r, loadRow (.ld 10 11 0) = some r ∧ Retires halfStored (cur halfStored) ∧
    Reaches halfStored (cur halfStored) (r.address halfStored (cur halfStored)) r.n false (.phys 0) ∧
    halfStored.forward 0 (.phys 0) r.n = .wait :=
  ⟨_, rfl, retires_of (by decide), reaches_of (by decide), by decide⟩

/-- A thread of a non-speculative ordered task. -/
def ordered (a : Word) : State := (near a).onThread 0 0 fun t => { t with task := { t.task with flags := 1 } }
theorem witness_LocalStores :
    (∃ r, storeRow (.sd 11 12 0) = some r ∧ Retires (near 0x800) (cur (near 0x800)) ∧ (∀ q ∈ r.reads, plainReg q = true) ∧
      (cur (near 0x800)).plain ∧ (near 0x800).here.mem.wf = true ∧
      Reaches (near 0x800) (cur (near 0x800)) (r.address (near 0x800) (cur (near 0x800))) r.n true (.local 0 0x800) ∧
      (near 0x800).localError 0 0x800 r.n = none) ∧
    (∃ r, storeRow (.sb 11 12 0) = some r ∧ Issues (ordered 0x17FFF) (cur (ordered 0x17FFF)) r.reads 0 false ∧
      (cur (ordered 0x17FFF)).spec = none ∧ (cur (ordered 0x17FFF)).task.ordered = true ∧
      Reaches (ordered 0x17FFF) (cur (ordered 0x17FFF)) (r.address (ordered 0x17FFF) (cur (ordered 0x17FFF))) r.n true (.local 0 0x17FFF)) :=
  ⟨⟨_, rfl, retires_of (by decide), by decide, ⟨by decide, by decide⟩, by decide, reaches_of (by decide), by decide⟩,
   ⟨_, rfl, issues_of (by decide), by decide, by decide, reaches_of (by decide)⟩⟩

theorem witness_BufferedStores : ∃ r, storeRow (.sd 11 12 0) = some r ∧ (∀ q ∈ r.reads, plainReg q = true) ∧
    (∀ n ∈ [15, 16], Retires (buffering n 0x20000) (cur (buffering n 0x20000)) ∧ (cur (buffering n 0x20000)).plain ∧
      Reaches (buffering n 0x20000) (cur (buffering n 0x20000)) (r.address (buffering n 0x20000) (cur (buffering n 0x20000))) r.n true
        (.phys 0) ∧ (buffering n 0x20000).bufferBusy 0 = decide (n = 16)) ∧
    Misses (buffering 16 0x30000) (cur (buffering 16 0x30000)) (r.address (buffering 16 0x30000) (cur (buffering 16 0x30000))) r.n true :=
  ⟨_, rfl, by decide, by
    intro n hn
    simp only [List.mem_cons, List.not_mem_nil, or_false] at hn
    obtain rfl | rfl := hn <;> exact ⟨retires_of (by decide), ⟨by decide, by decide⟩, reaches_of (by decide), by decide⟩,
   misses_of (by decide)⟩

theorem witness_SpeculativeStores : ∃ r, storeRow (.fsw 11 31 0) = some r ∧ Retires (speculative 0x800) (cur (speculative 0x800)) ∧
    (∀ q ∈ r.reads, plainReg q = true) ∧ (cur (speculative 0x800)).spec.isSome = true ∧
    Reaches (speculative 0x800) (cur (speculative 0x800)) (r.address (speculative 0x800) (cur (speculative 0x800))) r.n true (.local 0 0x800) :=
  ⟨_, rfl, retires_of (by decide), by decide, by decide, reaches_of (by decide)⟩

/-- Each clause of the first check at a boundary: 0x17FF9 misaligned; a core window past its end; the first translated
address; a core outside the coves; 0x7F8 and 0x800 written; and the speculative buffer where ordered tasks are enabled. -/
theorem witness_AccessChecks : (0x17FF9 : Word).toNat % 8 ≠ 0 ∧ base.window 0 0 0xFE00000000018000 = .nothing ∧
    base.window 0 0 0x18000 = .translated ∧ base.window 0 0 0xFE00000000017FF8 = .store 0 0x17FF8 ∧
    base.window 0 0 0xFE00000000100000 = .store 8 0 ∧ base.reachable 0 8 = false ∧
    base.accessTrap 0 0 0x7F8 8 true = some (6, 0x7F8) ∧ base.accessTrap 0 0 0x800 8 true = none := by decide
theorem witness_AccessChecks_traps :
    (∃ r, loadRow (.lh 10 11 0) = some r ∧ Issues (near 1) (cur (near 1)) [r.base] r.write false ∧
      (near 1).accessTrap 0 0 (r.address (near 1) (cur (near 1))) r.n false = some (3, 1)) ∧
    (∃ r, storeRow (.sb 11 12 0) = some r ∧ Issues (near 0x7FF) (cur (near 0x7FF)) r.reads 0 false ∧
      (near 0x7FF).accessTrap 0 0 (r.address (near 0x7FF) (cur (near 0x7FF))) r.n true = some (6, 0x7FF)) ∧
    (∃ r, atomicRow (.atmCas 10 11 12 0 0) = some r ∧ Issues (near 0x802) (cur (near 0x802)) r.reads r.rd true ∧
      (near 0x802).accessTrap 0 0 (r.address (near 0x802) (cur (near 0x802))) r.n true = some (3, 0x802)) :=
  ⟨⟨_, rfl, issues_of (by decide), by decide⟩, ⟨_, rfl, issues_of (by decide), by decide⟩, ⟨_, rfl, issues_of (by decide), by decide⟩⟩

theorem witness_Atomics : (∃ r, atomicRow (.atmAdd 10 11 12 1 0) = some r ∧ (∀ q ∈ r.reads, plainReg q = true) ∧ plainReg r.rd = true ∧
      (Retires (near 0x17FF8) (cur (near 0x17FF8)) ∧ (cur (near 0x17FF8)).plain ∧
        Reaches (near 0x17FF8) (cur (near 0x17FF8)) (r.address (near 0x17FF8) (cur (near 0x17FF8))) r.n true (.local 0 0x17FF8) ∧
        (near 0x17FF8).localError 0 0x17FF8 r.n = none) ∧
      (∀ n ∈ [0, 1], Retires (buffering n 0x20000) (cur (buffering n 0x20000)) ∧ (cur (buffering n 0x20000)).plain ∧
        Reaches (buffering n 0x20000) (cur (buffering n 0x20000)) (r.address (buffering n 0x20000) (cur (buffering n 0x20000))) r.n true
          (.phys 0) ∧ (buffering n 0x20000).peerTarget (.phys 0) = false ∧
        decide ((buffering n 0x20000).overlapping 0 (.phys 0) r.n = []) = decide (n = 0)) ∧
      Misses (buffering 15 0x30000) (cur (buffering 15 0x30000)) (r.address (buffering 15 0x30000) (cur (buffering 15 0x30000))) r.n true) ∧
    (∃ r, atomicRow (.atmFadd 0 11 12 0) = some r ∧ r.rd = 0 ∧ ∀ n ∈ [15, 16],
      Reaches (buffering n 0x20008) (cur (buffering n 0x20008)) (r.address (buffering n 0x20008) (cur (buffering n 0x20008))) r.n true
        (.phys 8) ∧ (buffering n 0x20008).overlapping 0 (.phys 8) r.n = [] ∧ (buffering n 0x20008).bufferBusy 0 = decide (n = 16)) :=
  ⟨⟨_, rfl, by decide, by decide, ⟨retires_of (by decide), ⟨by decide, by decide⟩, reaches_of (by decide), by decide⟩, by
      intro n hn
      simp only [List.mem_cons, List.not_mem_nil, or_false] at hn
      obtain rfl | rfl := hn <;> exact ⟨retires_of (by decide), ⟨by decide, by decide⟩, reaches_of (by decide), by decide, by decide⟩,
      misses_of (by decide)⟩,
   ⟨_, rfl, by decide, by
      intro n hn
      simp only [List.mem_cons, List.not_mem_nil, or_false] at hn
      obtain rfl | rfl := hn <;> exact ⟨reaches_of (by decide), by decide, by decide⟩⟩⟩
/-- The page is peer memory. -/
def peerPaged : State := { paged 0x20000 with peers := [(0, 4096)] }
theorem witness_Atomics_peer : Reaches peerPaged (cur peerPaged) 0x20000 8 true (.phys 0) ∧ peerPaged.peerTarget (.phys 0) = true :=
  ⟨reaches_of (by decide), by decide⟩

theorem witness_AtomicValues : ∃ a b : Atomic, (a.n = 8 ∧ a.op ≠ .fadd) ∧ b.n = 4 ∧ b.op = .fadd :=
  ⟨{ op := .cas, n := 8, scope := 0, b := 0, e := 0, dest := .none }, { op := .fadd, n := 4, scope := 0, b := 0, e := 0, dest := .none },
    by decide, by decide, by decide⟩

theorem witness_Fences : fenceScope (.fenceSc 3) = some 3 ∧ Retires (buffering 1 0) (cur (buffering 1 0)) ∧
    (cur (buffering 1 0)).spec = none ∧ (buffering 1 0).fencePasses (cur (buffering 1 0)) 3 = false ∧
    (buffering 0 0).fencePasses (cur (buffering 0 0)) 3 = true :=
  ⟨rfl, retires_of (by decide), by decide, by decide, by decide⟩

/-- A CSR read that EBUD parks, a write, a write refused, and the moduli while the vector unit is busy. -/
theorem witness_ControlRegisters :
    (∃ r, csrRow (.csrrs 10 0 0xCC3) = some r ∧ Issues base (cur base) r.reads r.write r.does_write ∧ r.csr = 0xCC3 ∧
      r.does_read = true ∧ r.does_write = false) ∧
    (∃ r, csrRow (.csrrwi 0 0x003 31) = some r ∧ Issues base (cur base) r.reads r.write r.does_write ∧ r.does_write = true ∧
      r.csr ≠ 0xCC3 ∧ base.csrRefuses 0 r.csr (r.new (base.csrRead (cur base) r.csr) (r.operand base (cur base))) = false) ∧
    (∃ r, csrRow (.csrrw 0 11 0x811) = some r ∧ Issues (near 0x8000000000000000) (cur (near 0x8000000000000000)) r.reads r.write r.does_write ∧
      r.does_write = true ∧ (near 0x8000000000000000).csrRefuses 0 r.csr
        (r.new ((near 0x8000000000000000).csrRead (cur (near 0x8000000000000000)) r.csr) (r.operand (near 0x8000000000000000) (cur (near 0x8000000000000000)))) = true) ∧
    (∃ r, csrRow (.csrrw 10 11 0x837) = some r ∧ ((0x830 ≤ r.csr ∧ r.csr ≤ 0x837) ∧
      (base.setCore 0 { base.core 0 with vqueue := [{ ctx := 0, slot := 0, uid := (cur base).uid, pc := 0, op := .bcast 0 1 }] }).vectorBusy 0
        (cur base) = true)) ∧
    csrMask 0x001 = some 0x1F ∧ csrMask 0x843 = some 0xFFFFFFFFFFFFFFFF ∧ base.cur? = some (cur base) :=
  ⟨⟨_, rfl, issues_of (by decide), by decide, by decide, by decide⟩, ⟨_, rfl, issues_of (by decide), by decide, by decide, by decide⟩,
   ⟨_, rfl, issues_of (by decide), by decide, by decide⟩, ⟨_, rfl, by decide, by decide⟩, by decide, by decide, by decide⟩

/-- A thread with a pending asynchronous cause and a handler. -/
def signalled : State := (guarded base).onThread 0 0 fun t => { t with pend := { eBudget := true } }
theorem witness_TrapEntry : Enters (guarded base) (cur (guarded base)) ∧ (cur (guarded base)).spec = none ∧
    (cur (guarded base)).handler = false ∧
    (Enters signalled (cur signalled) ∧ (cur signalled).handler = false ∧ ((cur signalled).pend.first.map fun q => q.1.fetch) = some false) ∧
    (base.cur? = some (cur base) ∧ (cur base).spec = none ∧ (cur base).utvec.getLsbD 0 = false) ∧
    (let s := (guarded base).onThread 0 0 fun t => { t with handler := true, pc := 0x500000 }
     (cur s).handler = true ∧ (cur s).pc = BitVec.ofNat 64 ((cur s).utvec.toNat / 4 * 4)) :=
  ⟨⟨by decide, by decide⟩, by decide, by decide, ⟨⟨by decide, by decide⟩, by decide, by decide⟩, ⟨by decide, by decide, by decide⟩,
   by decide⟩

/-- Inside a handler, and outside one with the checker running. -/
def handled (uepc : Word) : State := (guarded base).onThread 0 0 fun t =>
  { t with handler := true, uepc, checker := { t.checker with suspended := true } }
theorem witness_TrapReturns : (Issues (handled 0x400002) (cur (handled 0x400002)) [] 0 true ∧ (cur (handled 0x400002)).uepc.toNat % 4 ≠ 0) ∧
    (Issues (handled 0x400004) (cur (handled 0x400004)) [] 0 true ∧ (cur (handled 0x400004)).uepc.toNat % 4 = 0 ∧
      (cur (handled 0x400004)).checker.suspended = true) ∧
    (Issues (checkedState false) (cur (checkedState false)) [] 0 true ∧ (cur (checkedState false)).checker.suspended = false ∧
      (checkedState false).checking (cur (checkedState false)) = true ∧ (cur (checkedState false)).checker.pending = false) :=
  ⟨⟨issues_of (by decide), by decide⟩, ⟨issues_of (by decide), by decide, by decide⟩,
   ⟨issues_of (by decide), by decide, by decide, by decide⟩⟩

/-- A slot whose upstream queue holds two words and whose downstream thread has granted one credit. -/
def piped (en : Bool) (credits : Nat) : State := base.setSlot 0 0 { (base.slot 0 0) with
  q := { rx := { en, base := 0x48, lg := 2 }, up := { en := true, base := 0x50, lg := 1, head := 1, count := 2 }
         upTid := 16, dnTid := 32, credits } }
theorem witness_QueuePorts : base.cur? = some (cur base) ∧
    (piped true 0).portWait [28, 29] 30 = some 4 ∧ (piped true 0).portWait [29, 29] 30 = some 5 ∧
    ((piped false 1).portWait [29, 28] 30 = none ∧ (piped false 1).readTrap [29, 28] = some (10, 28)) ∧
    (base.portWait [1, 2] 30 = none ∧ base.readTrap [1, 2] = none ∧ base.writeTrap 30 = some (10, 30)) ∧
    ((piped true 1).curSlot < 16 ∧ (piped true 1).queues.waiting = []) := by decide

theorem witness_Retirement : Retires base (cur base) ∧
    ((checkedState true).cur? = some (cur (checkedState true)) ∧ (checkedState true).checking (cur (checkedState true)) = true ∧
      (cur (checkedState true)).checker.pending = true) :=
  ⟨retires_of (by decide), by decide⟩

theorem witness_ThreadEffects :
    (∃ r, threadRow (.migrA 28) = some r ∧ Issues queued (cur queued) r.reads r.write r.once) ∧
    (∃ r, taskRow (.itnext 22 0x800) = some r ∧ Issues chunk (cur chunk) r.reads r.write r.once) :=
  ⟨⟨_, rfl, issues_of (by decide)⟩, ⟨_, rfl, issues_of (by decide)⟩⟩
theorem witness_MessageEffects :
    (∃ r, messageRow (.msend 24 11 12 0) = some r ∧ Issues base (cur base) r.reads r.write r.once) ∧
    (∃ r, unitRow (.mcmd 11 28) = some r ∧ Issues queued (cur queued) r.reads r.write r.once) :=
  ⟨⟨_, rfl, issues_of (by decide)⟩, ⟨_, rfl, issues_of (by decide)⟩⟩
theorem witness_CoreUnitEffects :
    (∃ r, keyRow (.kwaitU 0) = some r ∧ Issues base (cur base) r.reads r.write r.once) ∧
    (∃ r, counterRow (.acread 31 31) = some r ∧ Issues base (cur base) r.reads r.write r.once) ∧
    (∃ r, syncCopyRow (.copyTk 11 12 28 6) = some r ∧ Issues queued (cur queued) r.reads r.write r.once) :=
  ⟨⟨_, rfl, issues_of (by decide)⟩, ⟨_, rfl, issues_of (by decide)⟩, ⟨_, rfl, issues_of (by decide)⟩⟩
theorem witness_VectorIssue : ∃ r, vectorRow (.vmvx 10 31 3) = some r ∧ Issues base (cur base) r.reads r.write true :=
  ⟨_, rfl, issues_of (by decide)⟩
theorem witness_MatrixIssue : (∃ r, matrixRow (.mmaSS 3 11 28 31) = some r ∧ Issues queued (cur queued) r.reads 0 true) ∧
    (cur base).gang = none :=
  ⟨⟨_, rfl, issues_of (by decide)⟩, by decide⟩

/-! Events: a packet of the thread of slot 0, numbered 7. -/

theorem brings_of {s : State} {p : Packet} {k : Kind} (h : s.packet? s.ev.n = some p ∧ p.kind = k ∧ s.clear p.after = true ∧ s.keeps p = false ∧
    s.inTurn p = true) : Brings s p k :=
  ⟨h.1, h.2.1, h.2.2.1, h.2.2.2.1, h.2.2.2.2⟩
def packet (k : Kind) : Packet := { id := 7, ctx := 0, core := 0, slot := 0, uid := 1, kind := k }
def bring (k : Kind) (s : State) : State := { s with net := [packet k], ev := { s.ev with n := 7 } }
/-- The thread parked for a wait. -/
def parked (w : Wait) (s : State) : State := s.onThread 0 0 fun t => { t with park := .await 3 w }
/-- Near memory of one bay at address 0, of a class. -/
def dram (cls : Nat) : State := { base with
  hdmNear := some 0, crt := { base.crt with near := [{ index := 0, lo := 0x100000000, hi := BitVec.ofNat 64 (2 ^ 48 + cls * 2 ^ 40) }] } }
/-- An error that cannot be corrected in its first unit. -/
def broken (cls : Nat) : State := { dram cls with errors := [(0, .uncorrectable)] }

theorem witness_DataEvents :
    (let s := parked (.data .none) (bring (.fetch 0x400000 0) base)
     Brings s (packet (.fetch 0x400000 0)) (.fetch 0x400000 0) ∧ s.exclusive 0 = false ∧
       (∃ s' t, s.checkPhys 0 0 0 64 0x400000 4 = (.ok, s') ∧ s'.sender? (packet (.fetch 0x400000 0)) = some t ∧
         t.park = .await 3 (.data .none))) ∧
    (let k : Kind := .load 8 8 0x20008
     let s := parked (.data (.g 10 8 false)) (bring k base)
     Brings s (packet k) k ∧ s.exclusive 8 = false ∧ (∃ s' t, s.checkPhys 0 0 8 8 0x20008 = (.ok, s') ∧
       s'.sender? (packet k) = some t ∧ t.spec = none ∧ t.park = .await 3 (.data (.g 10 8 false)))) ∧
    (let k : Kind := .load 0 1 0x20000
     let s := parked (.data .none) (bring k (broken 1))
     Brings s (packet k) k ∧ s.exclusive 0 = false ∧
       ∃ s' t, s.checkPhys 0 0 0 1 0x20000 = (.mismatch, s') ∧ s'.sender? (packet k) = some t ∧ t.park = .await 3 (.data .none)) ∧
    (let k : Kind := .load 63 1 0x2003F
     let s := parked (.data .none) (bring k (broken 0))
     Brings s (packet k) k ∧ s.exclusive 63 = false ∧
       ∃ s' t, s.checkPhys 0 0 63 1 0x2003F = (.poison, s') ∧ s'.sender? (packet k) = some t ∧ t.park = .await 3 (.data .none)) ∧
    (let k : Kind := .load 0 1 0x20000
     Brings (bring k (broken 1)) (packet k) k ∧ (bring k (broken 1)).exclusive 0 = false ∧
       ∃ s' t, (bring k (broken 1)).checkPhys 0 0 0 1 0x20000 = (.mismatch, s') ∧ s'.sender? (packet k) = some t ∧
         t.park = .none) :=
  ⟨⟨brings_of (by decide), by decide, _, _, Prod.ext (by decide) rfl, rfl, by decide⟩,
   ⟨brings_of (by decide), by decide, _, _, Prod.ext (by decide) rfl, rfl, by decide, by decide⟩,
   ⟨brings_of (by decide), by decide, _, _, Prod.ext (by decide) rfl, rfl, by decide⟩,
   ⟨brings_of (by decide), by decide, _, _, Prod.ext (by decide) rfl, rfl, by decide⟩,
   ⟨brings_of (by decide), by decide, _, _, Prod.ext (by decide) rfl, rfl, by decide⟩⟩
theorem witness_DataEvents_replies :
    (∃ t k, Brings (parked (.data (.g 10 8 false)) (bring .ebud base)) (packet .ebud) .ebud ∧
      (parked (.data (.g 10 8 false)) (bring .ebud base)).sender? (packet .ebud) = some t ∧
      t.park = .await 3 (.data (.g 10 8 false)) ∧ (parked (.data (.g 10 8 false)) (bring .ebud base)).ctx? 0 = some k) ∧
    (∀ k ∈ [Kind.reply (.value 5), .reply (.trap 13 0)], ∃ t, Brings (parked (.data .none) (bring k base)) (packet k) k ∧
      (parked (.data .none) (bring k base)).sender? (packet k) = some t ∧ t.park = .await 3 (.data .none) ∧
      (parked (.data .none) (bring k base)).away 0 0 = false) ∧
    (∀ k ∈ [Kind.remoteLoad 1 0x17FF8 8 0, .remoteSync 1 0x17FF8 true 0, .remoteFe 1 0x2FFF 1 true 0 false],
      Brings (bring k base) (packet k) k ∧ ((bring k base).core 1).sealed = false ∧ (bring k base).localError 1 0x17FF8 8 = none) ∧
    (((bring (.remoteLoad 1 0 8 0) base).setCore 1 { status := .contained }).core 1).sealed = true :=
  ⟨⟨_, _, brings_of (by decide), rfl, by decide, rfl⟩,
   by
    intro k hk
    simp only [List.mem_cons, List.not_mem_nil, or_false] at hk
    obtain rfl | rfl := hk <;> exact ⟨_, brings_of (by decide), rfl, by decide, by decide⟩,
   by
    intro k hk
    simp only [List.mem_cons, List.not_mem_nil, or_false] at hk
    obtain rfl | rfl | rfl := hk <;> exact ⟨brings_of (by decide), by decide, by decide⟩, by decide⟩

/-- An atomic of 8 bytes with a result. -/
def adding : Atomic := { op := .add, n := 8, scope := 2, b := 1, e := 0, dest := .g 10 8 true }
/-- Line 0 held by the host, exclusive or not. -/
def shared (excl : Bool) : State := { dram 0 with hostCopies := [(0, excl)] }
theorem witness_MemoryEvents :
    (∀ k ∈ [Kind.store (.local 1 0x17FF8) 8 1, .store (.phys 0) 8 1, .atomic (.local 1 0x800) adding 0, .ownership 0],
      Brings (bring k base) (packet k) k ∧ (packet k).broadcast = none ∧ ((bring k base).core 1).sealed = false ∧
      (bring k base).owned.contains 0 = false) ∧
    ((bring (.store (.phys 0) 8 1) base).leftOver 0 = some (.ownership 0) ∧ (bring (.store (.phys 0) 8 1) (dram 0)).leftOver 0 = none) ∧
    (let k : Kind := .atomic (.phys 8) adding 0x20008
     Brings (bring k (dram 0)) (packet k) k ∧ (bring k (dram 0)).atomicNeeds 8 adding = none ∧ (bring k (dram 0)).leftOver 8 = none ∧
       adding.dest ≠ .none ∧ (bring k (dram 0)).checkPhys 0 0 8 8 0x20008 = (.ok, bring k (dram 0)) ∧
       adding.result ((bring k (dram 0)).phys.load 8 8) = some 1) ∧
    Brings (bring (.snoop 0 false) (shared false)) (packet (.snoop 0 false)) (.snoop 0 false) ∧
    (let s := { bring (.snoop 0 true) (shared true) with ev := { n := 7, flag := true, bytes := List.replicate 64 1 } }
     Brings s (packet (.snoop 0 true)) (.snoop 0 true) ∧ (find? 0 s.hostCopies).isSome = true ∧ s.ev.flag = true ∧
       s.ev.bytes.length = 64) :=
  ⟨by
    intro k hk
    simp only [List.mem_cons, List.not_mem_nil, or_false] at hk
    obtain rfl | rfl | rfl | rfl := hk <;> exact ⟨brings_of (by decide), by decide, by decide, by decide⟩,
   by decide, ⟨brings_of (by decide), by decide, by decide, by decide, Prod.ext (by decide) rfl, by decide⟩,
   brings_of (by decide), ⟨brings_of (by decide), by decide, by decide, by decide⟩⟩
/-- Host accesses: to the last line of the bay, past its end (a stray), and to host memory. -/
theorem witness_MemoryEvents_host :
    ((dram 0).region 0x1FFFC0 = .near 0x1FFFC0 ∧ (dram 0).isStray 0x1FFFC0 = false ∧ ([1] : List Byte).length ≤ 64 - 0x1FFFC0 % 64) ∧
    ((dram 0).region 0x200000 = .near 0x200000 ∧ (dram 0).isStray 0x200000 = true) ∧ base.region 63 = .host ∧
    ([1] : List Byte).length ≤ 64 - 63 % 64 := by decide

/-- Context 0's notify page at address 0: a store of 1 to TAIL reaches its queue, a load of QSTAT reads open. -/
def notifying : State := { base with bar2 := some 0 }
theorem witness_notify : (bring (.store (.phys 0) 8 1) notifying).notify? 0 = some (0, 0) ∧
    (bring (.store (.phys 0) 8 1) notifying).notify? 0x400000 = none := by decide
theorem test_notify_store : (let s := after .storePerform (bring (.store (.phys 0) 8 1) notifying)
    ((s.ctx? 0).map fun k => k.tail, s.net.length)) = (some 1, 0) := by decide
theorem test_notify_load : (notifying.physWord 0x20 8, notifying.physWord 0x20 4) = (1, 0) := by decide

/-- A TCB at near address 64: its status, its predecessor count and its flags. -/
def tcbAt (status pred flags : Byte) : State :=
  { dram 0 with phys := [(64 + 48, pred), (64 + 52, flags), (64 + 55, status)].filter fun c => c.2 != 0 }
/-- What the spawn of it finds: running (no spawn); idle with a reserved flag; done with no predecessor; idle with one. -/
theorem witness_TaskEvents_spawn : ∀ q ∈ ([(3, 0, 0), (0, 0, 16), (4, 0, 0), (0, 1, 0), (0, 255, 0)] : List (Byte × Byte × Byte)),
    let k : Kind := .spawn 0x20040 64 0
    let s := bring k (tcbAt q.1 q.2.1 q.2.2)
    Brings s (packet k) k ∧ s.region 64 ≠ .host ∧ s.errors = [] ∧ s.isStray 64 = false ∧ s.hostCopies = [] ∧
      s.tcbStatus 64 = q.1.toNat ∧ s.tcbInvalid (s.tcbTask 0 0x20040 64) = (q.2.2 != 0) ∧ (s.tcbPred 64).toInt = q.2.1.toNat := by
  intro q hq
  simp only [List.mem_cons, List.not_mem_nil, or_false] at hq
  obtain rfl | rfl | rfl | rfl | rfl := hq <;>
    exact ⟨brings_of (by decide), by decide, by decide, by decide, by decide, by decide, by decide, by decide⟩
/-- An ordered task that has ended, the only one of its cove. -/
def committing : State := (speculative 0).setCore 0 { (speculative 0).core 0 with
  spec := (Vector.replicate 4 none).setIfInBounds 0 (some { task := placedTask, uid := 1, ended := true }) }
theorem witness_TaskEvents : (∀ k ∈ [Kind.dec 0x20040 (some 64) 0, .taskWait 0x20040 64], Brings (bring k (tcbAt 1 1 0)) (packet k) k ∧
      (bring k (tcbAt 1 1 0)).region 64 ≠ .host ∧ (bring k (tcbAt 1 1 0)).errors = [] ∧ (bring k (tcbAt 1 1 0)).isStray 64 = false ∧
      (bring k (tcbAt 1 1 0)).hostCopies = [] ∧ (packet k).broadcast = none) ∧
    (∀ k ∈ [Kind.group (.local 0 0x900) .join 0x900, .group (.local 0 0x900) .bar 0x900, .claim (.local 0 0x900) 0x900, .counter 0 31 0,
        .ended placedTask 4 0 0 0], Brings (bring k base) (packet k) k ∧ ((bring k base).core 0).sealed = false ∧ (bring k base).localErrors = [] ∧
        (bring k base).hostCopies = [] ∧ ((bring k base).core 0).mem.load 0x900 4 = 0) ∧
    (let k : Kind := .group (.local 0 0x900) .leave 0x900
     Brings (bring k stored) (packet k) k ∧ ((bring k stored).core 0).sealed = false ∧ (((bring k stored).core 0).mem.load 0x900 4).toNat ≠ 0) ∧
    ∃ i q, committing.oldestPart 0 = some (i, q) :=
  ⟨by
    intro k hk
    simp only [List.mem_cons, List.not_mem_nil, or_false] at hk
    obtain rfl | rfl := hk <;> exact ⟨brings_of (by decide), by decide, by decide, by decide, by decide, by decide⟩,
   by
    intro k hk
    simp only [List.mem_cons, List.not_mem_nil, or_false] at hk
    obtain rfl | rfl | rfl | rfl | rfl := hk <;>
      exact ⟨brings_of (by decide), by decide, by decide, by decide, by decide⟩,
   ⟨brings_of (by decide), by decide, by decide⟩, ⟨_, _, rfl⟩⟩

/-- The last slot of the module's last core, empty; and slot 0 with an upstream queue that expects thread 0. -/
theorem witness_MessageEvents :
    (∀ k ∈ [Kind.message 0xFFFFF { core := 0, slot := 0, uid := 1, header := 0, payload := [] }, .push 0xFFFFF 0 1, .creditRequest 0xFFFFF 0],
      Brings (bring k base) (packet k) k ∧ (0xFFFFF : Nat) < 2 ^ 20 ∧ (bring k base).away 0 (0xFFFFF / 16) = false ∧
      ((bring k base).slot (0xFFFFF / 16) 15).occ = .empty ∧ ((bring k base).core (0xFFFFF / 16)).sealed = false ∧
      ((bring k base).queuesOf (0xFFFFF / 16) 15).up.en = false ∧ ((bring k base).queuesOf (0xFFFFF / 16) 15).request = none) ∧
    (let k : Kind := .message 0 { core := 1, slot := 0, uid := 9, header := 0, payload := [1] }
     Brings (bring k base) (packet k) k ∧ ((bring k base).core 0).sealed = false ∧ ((bring k base).slot 0 0).occ ≠ .empty) ∧
    (let k : Kind := .messageReply false
     ∃ t, Brings (parked (.message 5) (bring k base)) (packet k) k ∧ (parked (.message 5) (bring k base)).sender? (packet k) = some t ∧
       t.park = .await 3 (.message 5)) ∧
    (∀ k ∈ [Kind.creditRequest 0 16, .creditGrant 0 2, .creditRefusal 0 32], Brings (bring k (piped true 0)) (packet k) k ∧
      ((bring k (piped true 0)).queuesOf 0 0).up.en = true ∧ ((bring k (piped true 0)).queuesOf 0 0).upTid.toNat = 16) ∧
    ((piped true 0).queuesOf 0 0).dnTid.toNat = 32 ∧ tidOf 2 0 = 32 :=
  ⟨by
    intro k hk
    simp only [List.mem_cons, List.not_mem_nil, or_false] at hk
    obtain rfl | rfl | rfl := hk <;>
      exact ⟨brings_of (by decide), by decide, by decide, by decide, by decide, by decide, by decide⟩,
   ⟨brings_of (by decide), by decide, by decide⟩, ⟨_, brings_of (by decide), rfl, by decide⟩,
   by
    intro k hk
    simp only [List.mem_cons, List.not_mem_nil, or_false] at hk
    obtain rfl | rfl | rfl := hk <;> exact ⟨brings_of (by decide), by decide, by decide⟩, by decide, by decide⟩

/-- A thread that departs to a core, or to its own. -/
def leaving (form : MigrForm) (dest : Nat) : State := base.onThread 0 0 fun t => { t with park := .await 13 (.migrate form dest) }
/-- A task in cove 0's ready queue. -/
def ready : State := { base.setCove 0 { base.cove 0 with ready := [placedTask] } with ev := {} }
theorem witness_SchedulingEvents :
    (∀ q ∈ [(MigrForm.ldf, 1), (.short, 0), (.hatbox, 16318)], ∃ t u, (leaving q.1 q.2).thread? 0 0 = some t ∧
      t.park = .await 13 (.migrate q.1 q.2) ∧ (leaving q.1 q.2).clear ((leaving q.1 q.2).fenced t) = true ∧
      ((leaving q.1 q.2).retire 0 0).holder? 0 0 t.uid = some u) ∧
    (∃ t, Brings (bring (.migrate { thread := t, form := .long, hatbox := [], dest := 0 }) base)
      (packet (.migrate { thread := t, form := .long, hatbox := [], dest := 0 })) (.migrate { thread := t, form := .long, hatbox := [], dest := 0 })) ∧
    (∃ t rest n i, takeFirst (fun u => ready.dispatching u.ctx) (ready.cove 0).ready = some (t, rest) ∧ ready.placeFor 0 t = some (n, i)) ∧
    (let s := (bring (.dispatch 1 0 placedTask none) base).setSlot 1 0 { occ := .awaiting placedTask }
     Brings s (packet (.dispatch 1 0 placedTask none)) (.dispatch 1 0 placedTask none) ∧ (s.slot 1 0).occ = .awaiting placedTask) ∧
    (let s := { (ready.setCtx 0 { record := { placedRecord with coves := [0, 1] }, phase := .open }).setCove 1
        { owner := some 0, victim := some 0 } with ev := { n := 1 } }
     ∃ t rest, (s.cove 1).owner = some 0 ∧ (s.cove 1).victim = some 0 ∧ (s.cove 1).ready = [] ∧ s.dispatching 0 = true ∧
       s.hasRoom 0 1 = true ∧ takeFirst (fun u => u.ctx = 0) (s.cove 0).ready = some (t, rest) ∧ t.home = 0xFF) :=
  ⟨by
    intro q hq
    simp only [List.mem_cons, List.not_mem_nil, or_false] at hq
    obtain rfl | rfl | rfl := hq <;> exact ⟨_, _, rfl, by decide, by decide, rfl⟩,
   ⟨cur base, brings_of (by decide)⟩, ⟨_, _, _, _, rfl, rfl⟩, ⟨brings_of (by decide), by decide⟩,
   ⟨_, _, by decide, by decide, by decide, by decide, by decide, rfl, by decide⟩⟩

/-! The vector unit, the copy engine and the matrix unit of core 0. -/

/-- A command of the thread of slot 0. -/
def command (op : VOp) : VCmd := { ctx := 0, slot := 0, uid := 1, pc := 0x400000, op }
def vector (op : VOp) : State := { base.setCore 0 { base.core 0 with vqueue := [command op] } with ev := {} }
/-- One command for each clause, with its addresses at the bounds of the local store. -/
def starting : List VOp :=
  [.int 0 8 1 2 3, .perm 1 1 1, .qreset, .qset 1 2, .load 0x17FE0 31, .load 0x18000 31, .store 0x800 31, .store 0x7E0 31, .quant 0x17FEE 28,
    .dquant 0 0, .dquant 0x17FEF 0, .cvt 3 1 0 0 true [] 31 0, .sfu 11 31 0, .gather 0x800 0 8 0 31, .gather 0x800 0 0 0 31,
    .redsum 0 [] 0 31, .redmax 0 31]
theorem witness_VectorStarts : ∀ op ∈ starting, ((vector op).core 0).vqueue = [command op] ∧
    ((vector op).core 0).vectorHazard op = false ∧
    ((vector op).core 0).flightOf (command op).serial = none := by decide
theorem witness_VectorStarts_faults : computes (.perm 1 1 1) = true ∧
    base.unitFault 0 0x17FE0 32 32 false = none ∧ base.unitFault 0 0x18000 32 32 false = some 2 ∧ base.localError 0 0x17FE0 32 = none ∧
    base.unitFault 0 0x800 32 32 true = none ∧ base.unitFault 0 0x7E0 32 32 true = some 3 ∧ base.unitFault 0 0x17FEE 18 1 true = none ∧
    base.unitFault 0 0x17FEF 18 1 true = some 2 ∧ base.unitFault 0 0 18 1 false = none ∧ base.localError 0 0 18 = none ∧
    base.gatherFault 0 0x800 8 = none ∧ base.gatherFault 0 0x800 0 = some 5 := by decide

/-- A command in flight with the value that its thread awaits, or awaits no more. -/
def flight : VFlight := { cmd := command (.mvx 3 10 31), value := some 5 }
def flying (w : Option Wait) : State :=
  let s := { base.setCore 0 { base.core 0 with vflight := [flight] } with ev := {} }
  match w with
  | some w => parked w s
  | none => s
theorem witness_VectorResults :
    (∀ w ∈ [some (Wait.vector (.g 10 8 false) 1 9), none], ((flying w).core 0).vflight[0]? = some flight ∧ flight.waits = false ∧
      ((flying w).core 0).landable 0 flight = true ∧ flight.cmd.gang = none ∧
      ((flying w).holder? 0 0 1).map (fun t => (t.waits, t.vdpend, t.gpend)) = some (w, false, false)) ∧
    ((flying none).holder? 0 0 2 = none) ∧
    (let k : Kind := .sfuRequest 0 31 7 0 (command (.sfu 7 31 0))
     Brings (bring k base) (packet k) k ∧ (bring k base).net.find? (fun r => r.kind.isSfuRequest && r.core = (packet k).core) = some (packet k)) ∧
    (let k : Kind := .sfuResult 31 5 (command (.sfu 7 31 0))
     let s := bring k (parked (.sfu 1) (base.setCore 0 { base.core 0 with
       vflight := [{ cmd := command (.sfu 7 31 0), waits := true }] }))
     ∃ t, Brings s (packet k) k ∧ ((s.core 0).flightOf 1).isSome = true ∧ (s.core 0).vqueue.all (fun r => r.serial != 1) = true ∧
       s.holder? 0 0 1 = some t ∧ t.park = .await 3 (.sfu 1)) :=
  ⟨by decide, by decide, ⟨brings_of (by decide), by decide⟩, ⟨_, brings_of (by decide), by decide, by decide, rfl, by decide⟩⟩

theorem witness_VectorLanes : (8 ∈ [8, 16, 32, 64] ∧ 31 < 256 / 8) ∧ (2 ^ 4 < 4 * (List.replicate 8 (0 : VReg)).length ∧
    (List.replicate 8 (0 : VReg)).length = 2 ^ 3 ∧ 31 < 4 * (List.replicate 8 (0 : VReg)).length) := by decide
theorem witness_ModularLanes : validModulus (({} : Moduli).qAt 3) = false ∧ validModulus (fermat.qAt 3) = true ∧
    ((fermat.muAt 3).toNat * (fermat.qAt 3).toNat + 1) % 2 ^ 64 = 0 := by decide

/-- A copy of so many bytes, waiting or in execution. -/
def copyOf (src dst : Word) (len : Nat) (signal : Signal) (gather : Option Nat) : CopyCmd :=
  { ctx := 0, core := 0, slot := 0, uid := 1, cove := 0, dst, src, len, signal, gather }
/-- Page tables of four levels whose entries are valid with bit 0 set, and a leaf with bit 7 set. -/
def format : PtFormat := { ctl := BitVec.ofNat 64 (4 + 2 ^ 11 + 7 * 2 ^ 12 + 51 * 2 ^ 18), fields := 0xC0 }
def formatted : State := { base with ptfmt := Vector.replicate 4 format }
def copying (src dst : Word) (todo : List (Nat × Nat)) (signal : Signal) : State :=
  { formatted.setCore 0 { base.core 0 with copying := some { cmd := copyOf src dst 16 signal none, todo } } with ev := { m := 2 } }
def copyWaits (q : CopyCmd) : State := { base.setCore 0 { base.core 0 with copyq := [q] } with ev := {} }
theorem witness_CopyEvents_start :
    (let q := copyOf 0 0x800 0 .none none
     ((copyWaits q).core 0).copying = none ∧ ((copyWaits q).core 0).copyq = [q] ∧ q.gather = none) ∧
    (let q := copyOf 0x17FF8 0x800 8 .full (some 1)
     ((copyWaits q).core 0).copying = none ∧ ((copyWaits q).core 0).copyq = [q] ∧
       ((copyWaits q).setCore 0 { (copyWaits q).core 0 with copyq := [], copying := some { cmd := q, todo := [(0, 1)] } }).blockSound 0 q = false) := by
  decide
/-- Within the core, from a core that is contained, to one that is, and from and to pages that no table maps. -/
theorem witness_CopyEvents_write :
    (∀ q ∈ ([(0, 0x800, 0), (0xFE00000000020000, 0x800, 1), (0, 0xFE00000000020800, 1)] : List (Word × Word × Nat)),
      let s := (copying q.1 q.2.1 [(0, 2)] .none).setCore 1 { status := if q.2.2 = 1 then .contained else .normal }
      ∃ d off dst, s.copyTarget 0 0 q.1 false = (some (.local d off), s) ∧ s.copyTarget 0 0 q.2.1 true = (some dst, s) ∧
        s.localErrors = [] ∧ decide (s.copySealed (.local d off) = true ∨ s.copySealed dst = true) = decide (q.2.2 = 1) ∧
        s.away 0 d = false ∧ s.copyAway 0 dst = false ∧ ∃ r, (s.core 0).copying = some r ∧ r.fault = none ∧ r.todo ≠ []) ∧
    (∃ u, { copying 0x20000 0x800 [(0, 2)] .none with ctxs := [] }.copyTarget 0 0 0x20000 false = (none, u)) ∧
    (∃ u, { copying 0 0x20000 [(0, 2)] .none with ctxs := [] }.copyTarget 0 0 0x20000 true = (none, u)) :=
  ⟨by
    intro q hq
    simp only [List.mem_cons, List.not_mem_nil, or_false] at hq
    obtain rfl | rfl | rfl := hq <;>
      exact ⟨_, _, _, rfl, rfl, by decide, by decide, by decide, by decide, _, rfl, by decide, by decide⟩,
   ⟨_, Prod.ext (by decide) rfl⟩, ⟨_, Prod.ext (by decide) rfl⟩⟩
theorem witness_CopyEvents_complete : ∃ r q, ((copying 0 0x800 [] (.task 0x20040)).core 0).copying = some r ∧ r.todo = [] ∧
    r.cmd.signal = .task 0x20040 ∧ (copying 0 0x800 [] (.task 0x20040)).alive 0 = true ∧
    ((copying 0 0x800 [] .full).core 0).copying = some q ∧ q.todo = [] ∧ ∀ tcb, q.cmd.signal ≠ .task tcb :=
  ⟨_, _, rfl, rfl, rfl, by decide, rfl, rfl, fun _ => Signal.noConfusion⟩

/-- A matrix command of the thread of slot 0, in a queue. -/
def mcommand (op : MOp) (high : Bool) : MCmd := { ctx := 0, slot := 0, uid := 1, pc := 0x400000, high, op }
def matrix (op : MOp) (mma : Option (Word × Nat × Nat)) : State := { base.setCore 0 { base.core 0 with
  mx := { loQueue := [mcommand op false], loMma := mma } } with ev := {} }
theorem witness_MatrixStarts :
    (∀ op ∈ [MOp.swap, .ldw 3 0x17F00, .ldw 3 0x18000, .rot 0], ((matrix op none).core 0).mx.run = none ∧
      ((matrix op none).core 0).mx.loQueue = [mcommand op false] ∧ ((matrix op none).core 0).mx.hiQueue = []) ∧
    ((matrix .swap none).matrixFault 0 (mcommand .swap false) = none ∧ MOp.swap.source = none) ∧
    ((matrix (.ldw 3 0x17F00) none).matrixFault 0 (mcommand (.ldw 3 0x17F00) false) = none ∧
      (matrix (.ldw 3 0x17F00) none).localError 0 0x17F00 256 = none ∧ (MOp.ldw 3 0x17F00).source = some (0x17F00, 256, 32)) ∧
    (matrix (.ldw 3 0x18000) none).matrixFault 0 (mcommand (.ldw 3 0x18000) false) = some 2 ∧
    (let s := matrix (.rot 0) (some (0x17E00, 512, 32))
     (s.core 0).mx.loMma = some (0x17E00, 512, 32) ∧ s.unitFault 0 0x17E00 512 32 false = none ∧ s.localError 0 0x17E00 512 = none ∧
       (s.core 0).mx.rot = []) := by decide
/-- The high queue first, until three in a row have come from it. -/
theorem witness_MatrixStarts_order (q : MCmd) :
    (([q] : List MCmd) = q :: [] ∧ (([] : List MCmd) = [] ∨ (2 : Nat) < 3)) ∧ ([q] = q :: [] ∧ ([q] = [] ∨ 3 ≤ (3 : Nat))) := by
  simp
theorem witness_MatrixStarts_packets :
    (∃ r, let k : Kind := .rotation 0 (.plane {})
     let s := bring k (base.setCore 0 { base.core 0 with
       mx := { run := some { cmd := mcommand (.rot 0) false, needTile := true, needPlane := true } } })
     Brings s (packet k) k ∧ (s.core 0).sealed = false ∧ (s.core 0).mx.run = some r ∧ r.needs (.plane {}) = true) ∧
    (let k : Kind := .rotation 0 (.tile 0 [])
     Brings (bring k base) (packet k) k ∧ ((bring k base).core 0).mx.run = none ∧ ((bring k base).core 0).mx.rot.all (fun j =>
       !j.sameKind (.tile 0 [])) = true) ∧
    (∀ cap ∈ ([0, 1] : List (BitVec 32)), let k : Kind := .command 0 false cap (mcommand .swap false) true
     let s := bring k (base.setCore 0 { base.core 0 with mcap := 1 })
     Brings s (packet k) k ∧ (s.core 0).refusesCommand cap true = decide (cap = 0) ∧ ((s.core 0).mx.queue false).length < 8) :=
  ⟨⟨_, brings_of (by decide), by decide, rfl, by decide⟩, ⟨brings_of (by decide), by decide, by decide⟩, by
    intro cap hc
    simp only [List.mem_cons, List.not_mem_nil, or_false] at hc
    obtain rfl | rfl := hc <;> exact ⟨brings_of (by decide), by decide, by decide⟩⟩

/-- Each operation in execution with everything it needs. -/
def operations : List MOp :=
  [.ldw 7 0, .swap, .zero 3, .mma 5 5 3 0 16 0, .read 0 3 0x800 0 false [], .readExp 3 0x800 0, .rowMax 3 0x800, .mask 3 0 63 0, .rot 0,
    .topk 32 true 31 256 0x800 0, .snap 0x800, .put true 7 0 0 0 0]
def executing (op : MOp) : State := { base.setCore 0 { base.core 0 with mx := { run := some { cmd := mcommand op false } } } with ev := {} }
theorem witness_MatrixCompletes : ∀ op ∈ operations, ((executing op).core 0).mx.run = some { cmd := mcommand op false } ∧
    (mcommand op false).remote = none := by decide
theorem witness_MatrixValues : (15 < 16) ∧ (0 : Nat) ≤ 63 ∧ (leNat (([] : List Byte).take 8)).testBit 63 = false := by decide
theorem witness_TopSelection : (31 ≤ 256 ∧ (32 = 16 ∨ 32 = 32)) ∧ (fp32.decode 0x7FC00000).isNan = true ∧
    (fp32.decode 0xFF800000).isNan = false := by decide

/-! Translation, faults, invalidation. -/

/-- Tables in which every page of the first gibibytes whose entry stands is physical page 0: the root at 0 leads to itself,
and the pages 0x20 are leaves. -/
def tables (s : State) : State := { s with ptfmt := Vector.replicate 4 format, phys := [(0, 1), (256, 1)] ++ s.phys }
/-- The walk of an address in page 0x20 through those tables. -/
theorem walkDown_tables {s : State} {va : Word} (hb : bits va 39 9 = 0 ∧ bits va 30 9 = 0 ∧ bits va 21 9 = 0 ∧ bits va 12 9 = 32)
    (h : s.phys.load 0 8 = 1 ∧ s.phys.load 256 8 = 1 ∧ s.isStray 0 = false ∧ s.isStray 256 = false) :
    walkDown s format va true true true 3 0 = .leaf { at_ := 256, entry := 1, level := 0, user := true, write := true, exec := true } := by
  have hn : ¬ 2 ^ Config.hostPhysWidth ≤ 0 := Nat.not_le.2 (Nat.two_pow_pos _)
  have step (l : Nat) (hb : bits va (12 + 9 * (l + 1)) 9 = 0) :
      walkDown s format va true true true (l + 1) 0 = walkDown s format va true true true l 0 := by
    rw [walkDown, hb, h.1, if_neg hn, if_neg (by simp [h.2.2.1]), if_neg (by decide), if_neg (by simp; decide)]
    rfl
  rw [step 2 hb.1, step 1 hb.2.1, step 0 hb.2.2.1, walkDown, hb.2.2.2, h.2.1, if_neg hn, if_neg (by simp [h.2.2.2])]
  decide

theorem witness_Walks : ∃ l, (tables base).phys.wf = true ∧ (tables base).walk 0 0x20800 { write := true } = (some l, tables base) :=
  ⟨_, by decide, State.walk_page0 (k := { record := placedRecord, phase := .open, ebud := 0xFFFFFFFF }) (f := format)
    (w := { at_ := 256, entry := 1, level := 0, user := true, write := true, exec := true }) rfl rfl
    (walkDown_tables (by decide) (by decide)) (by decide) rfl⟩

/-- A page in the cove's cache; a thread that waits for it. -/
def missing (acc : Access) (s : State) : State :=
  parked (.translate acc 0x20008) (bring (.tlbMiss 0x20008 acc) (s.setCove 0 { s.cove 0 with
    cache := [{ ctx := 0, va := 0x20000, pa := 0, lg := 12, write := true, exec := true }] }))
theorem witness_TranslationEvents : (∀ acc ∈ [Access.fetch, .load 8 (.g 10 8 false), .store 8 1, .atomic adding],
      ∃ t u pa, Brings (missing acc base) (packet (.tlbMiss 0x20008 acc)) (.tlbMiss 0x20008 acc) ∧
        (missing acc base).sender? (packet (.tlbMiss 0x20008 acc)) = some t ∧ t.park = .await 3 (.translate acc 0x20008) ∧
        (missing acc base).bufferBusy 0 = false ∧ (missing acc base).serve 0 t.ctx 0x20008 acc.need = (some pa, u)) ∧
    ((missing (.atomic adding) { base with peers := [(0, 4096)] }).isPeer 8 = true) ∧
    (let s := bring (.tlbMiss 0x30000 .fetch) (parked (.translate .fetch 0x30000) { formatted with ctxs := [] })
     ∃ t u, Brings s (packet (.tlbMiss 0x30000 .fetch)) (.tlbMiss 0x30000 .fetch) ∧ s.sender? (packet (.tlbMiss 0x30000 .fetch)) = some t ∧
       s.serve 0 t.ctx 0x30000 { exec := true } = (none, u)) :=
  ⟨by
    intro acc ha
    simp only [List.mem_cons, List.not_mem_nil, or_false] at ha
    obtain rfl | rfl | rfl | rfl := ha <;> exact ⟨_, _, _, brings_of (by decide), rfl, by decide, by decide, rfl⟩,
   by decide, ⟨_, _, brings_of (by decide), rfl, Prod.ext (by decide) rfl⟩⟩

/-- A fault request at a level, and a fault unit with the entry, the record or neither. -/
def faulting (level gen : Nat) (fu : FaultUnit) : State := bring (.fault level 0 0x20000 9 0 gen) { base with fu }
def pending : FaultUnit := { entries := [{ level := 0, node := 0, ctx := 0, page := 0x20000, ports := [0] }] }
def recorded (written : Bool) : FaultUnit := { entries := [{ level := 2, node := 0, ctx := 0, page := 0x20000, ports := [0] }], records := [
  { ctx := 0, page := 0x20000, kind := 9, unit := 0, tag := 1, gen := 0, n := 1, written }] }
def hostWrites (x : Word) (fu : FaultUnit) : State := { base with fu, ev := { x } }
theorem witness_FaultEvents_messages :
    (∀ q ∈ [(2, 1), (2, 0), (1, 0), (0, 0)], Brings (faulting q.1 q.2 {}) (packet (.fault q.1 0 0x20000 9 0 q.2)) (.fault q.1 0 0x20000 9 0 q.2) ∧
      (faulting q.1 q.2 {}).fu.entry? q.1 (nodeAt q.1 0) 0 0x20000 = none ∧ (faulting q.1 q.2 {}).fu.full q.1 (nodeAt q.1 0) = false) ∧
    (Brings (faulting 0 0 pending) (packet (.fault 0 0 0x20000 9 0 0)) (.fault 0 0 0x20000 9 0 0) ∧
      (pending.entry? 0 (nodeAt 0 0) 0 0x20000).isSome = true) ∧
    (∃ e, Brings (bring (.faultReply 0x20000 true) { base with fu := recorded true }) (packet (.faultReply 0x20000 true))
      (.faultReply 0x20000 true) ∧ (recorded true).entry? 2 0 0 0x20000 = some e) :=
  ⟨by
    intro q hq
    simp only [List.mem_cons, List.not_mem_nil, or_false] at hq
    obtain rfl | rfl | rfl | rfl := hq <;> exact ⟨brings_of (by decide), by decide, by decide⟩,
   ⟨brings_of (by decide), by decide⟩, ⟨_, brings_of (by decide), rfl⟩⟩
theorem witness_FaultEvents_writes :
    ((hostWrites 6 {}).fu.outstanding = false ∧ bits (0 : Word) 0 5 = 0 ∧ 6 ≤ bits (6 : Word) 0 5 ∧ bits (16 : Word) 0 5 ≤ 16 ∧
      bits (5 : Word) 0 5 < 6 ∧ bits (5 : Word) 0 5 ≠ 0 ∧ 16 < bits (17 : Word) 0 5) ∧
    ((hostWrites 1 {}).ev.x.extractLsb' 0 32 = (hostWrites 1 {}).fu.gen + 1 ∧ (hostWrites 1 {}).fu.records = []) ∧
    ((hostWrites 2 {}).ev.x.extractLsb' 0 32 ≠ (hostWrites 2 {}).fu.gen + 1) ∧
    (∃ r, (hostWrites 1 (recorded true)).fu.records = [r] ∧ r.written = true ∧ r.answered = false) ∧
    (∃ r, ((hostWrites 1 (recorded true)).fu.records.find? fun r => r.tag = (1 : Word).extractLsb' 0 32 && r.written) = some r) ∧
    ((hostWrites 1 (recorded false)).fu.records.find? fun r => r.tag = (1 : Word).extractLsb' 0 32 && r.written) = none ∧
    (∃ u : State, u = base.markTask (cur base).task 0 3 ∧ (cur base).pend.first = none) :=
  ⟨by decide, by decide, by decide, ⟨_, rfl, rfl, rfl⟩, ⟨_, rfl⟩, rfl, ⟨_, rfl, by decide⟩⟩

def invalidating (n : Nat) : State := { base with
  inv := { queue := List.replicate n ({ scope := 2, ctx := 0, va := 0, bytes := 0 }, [], []) }, ev := { x := 0x1C0000000 } }
theorem witness_InvalidationEvents : ((invalidating 15).inv.queue.length < 16 ∧ bits (0x80000000 : Word) 30 2 ≠ 3) ∧
    16 ≤ (invalidating 16).inv.queue.length ∧
    (∃ q ids tcbs rest, (invalidating 1).inv.queue = (q, ids, tcbs) :: rest ∧ (invalidating 1).performedAll ids = true ∧
      (invalidating 1).settledAll q tcbs = true) :=
  ⟨by decide, by decide, ⟨_, _, _, _, rfl, by decide, by decide⟩⟩

/-! Contexts and the headland. -/

/-- The queue of context 0 with one entry waiting: the TCB at 0x20040 to a cove. -/
def submitted (status pred : Byte) : State :=
  { (tables (dram 0)).setCtx 0 { record := { placedRecord with sqBase := 0x20800 }, phase := .open, tail := 1 } with
    phys := [(0, 1), (64 + 48, pred), (64 + 55, status), (256, 1), (0x800, 0x40), (0x802, 2)].filter fun c => c.2 != 0
    ev := {} }
theorem own_submitted (s : State) (va : Word) (hs : s.ctx? 0 = some { record := { placedRecord with sqBase := 0x20800 }, phase := .open, tail := 1 })
    (hf : s.ptfmt = Vector.replicate 4 format) (ha : s.window 0 0 va = .translated)
    (hw : walkDown s format va true true true 3 0 =
      .leaf { at_ := 256, entry := 1, level := 0, user := true, write := true, exec := true }) :
    s.own 0 va false = (some (va.toNat % 2 ^ 12), s) :=
  State.own_page0 ha hs (by rw [hf]; rfl) hw (by decide) rfl
theorem witness_QueueEvents_submission : ∀ q ∈ ([(2, 0), (0, 0), (0, 1)] : List (Byte × Byte)),
    ∃ k, let s := submitted q.1 q.2
    s.ctx? s.ev.n = some k ∧ k.phase = .open ∧ k.shead ≠ k.tail ∧
      s.own 0 (k.record.sqBase + BitVec.ofNat 64 (16 * (k.shead.toNat % 2 ^ k.record.sqLg))) false = (some 0x800, s) ∧
      BitVec.ofNat 64 (numAt (s.phys.bytes 0x800 16) 0 8) = (0x20040 : Word) ∧ numAt (s.phys.bytes 0x800 16) 8 2 = 0 ∧
      numAt (s.phys.bytes 0x800 16) 10 6 = 0 ∧ (s.tcbTrap 0 (coreOf (k.record.coves.headD 0) 63) 0x20040).isSome = false ∧
      s.own 0 0x20040 false = (some 0x40, s) ∧ s.isPeer 0x40 = false ∧ s.region 0x40 ≠ .host ∧ s.errors = [] ∧
      s.isStray 0x40 = false ∧ s.hostCopies = [] ∧ s.tcbStatus 0x40 = q.1.toNat ∧ s.tcbInvalid (s.tcbTask 0 0x20040 0x40) = false ∧
      k.record.coves.contains 0 = true ∧ (s.tcbPred 0x40).toInt = q.2.toNat := by
  intro q hq
  simp only [List.mem_cons, List.not_mem_nil, or_false] at hq
  obtain rfl | rfl | rfl := hq <;>
    exact ⟨_, rfl, by decide, by decide, own_submitted _ _ rfl rfl (by decide) (walkDown_tables (by decide) (by decide)), by decide,
      by decide, by decide, by decide, own_submitted _ _ rfl rfl (by decide) (walkDown_tables (by decide) (by decide)), by decide, by decide, by decide, by decide, by decide, by decide, by decide, by decide, by decide⟩

/-- A context that closes, with nothing of it left in flight. -/
def closing : State := { base.setCtx 0 { record := placedRecord, phase := .closing 2 29 0xFFFF } with ev := {} }
/-- The mailbox takes a command with this input. -/
def commanded (bs : List Byte) (s : State) : State := { s with head := { s.head with boot := 2 }, ev := { bytes := bs } }
theorem takes_of {s : State} {n : Nat} (h : s.mbox.busy = none ∧ s.powered = true ∧ s.head.boot = 2 ∧ s.ev.bytes.length = n) :
    TakesCommand s n :=
  ⟨h.1, h.2.1, h.2.2.1, h.2.2.2⟩
/-- A tail value up to the ring's size ahead is taken, one further is not. -/
theorem witness_QueueEvents : (∃ k, base.ctx? base.ev.n = some k ∧ k.accepts 16 = true ∧ k.accepts 17 = false) ∧
    (∃ k, closing.ctx? 0 = some k ∧ k.phase = .closing 2 29 0xFFFF ∧ closing.drained 0 k = true) ∧
    (∃ k, TakesCommand (commanded [0, 0] base) 2 ∧ (commanded [0, 0] base).ctx? (leNat (commanded [0, 0] base).ev.bytes) = some k ∧
      k.phase = .open) ∧
    (∃ k, TakesCommand (commanded [0, 0] closing) 2 ∧ (commanded [0, 0] closing).ctx? 0 = some k ∧ k.phase = .closing 2 29 0xFFFF) :=
  ⟨⟨_, rfl, by decide, by decide⟩, ⟨_, rfl, by decide, by decide⟩, ⟨_, takes_of (by decide), rfl, by decide⟩,
   ⟨_, takes_of (by decide), rfl, by decide⟩⟩

/-- The record of context 5 on cove 1, with an object of a bare header at 0x20800. -/
def launchRecord (workLg : Nat) : List Byte :=
  leBytes 8 0 ++ leBytes 2 5 ++ [0, 0, 2, 16, 0, 0] ++ leBytes 4 0 ++ leBytes 4 1 ++ leBytes 8 0x20800 ++ leBytes 8 64 ++ leBytes 8 0 ++
    leBytes 8 0 ++ leBytes 8 0 ++ leBytes 8 (2 ^ workLg) ++ leBytes 8 0 ++ leBytes 8 0 ++ leBytes 8 0 ++ [4, 16] ++ List.replicate 30 0 ++
    [2] ++ List.replicate 127 0
def header : List Byte := [0x7F, 0x45, 0x4C, 0x46, 2, 1] ++ List.replicate 10 0 ++ [1, 0, 0x17, 0x5D] ++ List.replicate 38 0 ++ [64, 0] ++
  List.replicate 4 0
def launching (workLg : Nat) : State := commanded (launchRecord workLg) { tables base with
  phys := Memory.store [(0, 1), (256, 1)] 0x800 header }
theorem witness_LaunchEvents : TakesCommand (launching 23) 256 ∧ (launching 22).recordSound (launchRecord 22) = false ∧
    (launching 23).recordSound (launchRecord 23) = true ∧ (launching 23).launchBusy (recordOf (launchRecord 23)) = false ∧
    (launching 23).ctx? 5 = none ∧ (launching 23).hostCopies = [] ∧
    (let s := (launching 23).setCove 1 { owner := some 0 }
     s.launchBusy (recordOf (launchRecord 23)) = true) ∧
    (∃ k, (base.setCtx 3 { record := placedRecord }).ctx? 3 = some k ∧ k.phase = .launching) ∧
    0 ∈ workers [0] ∧ 63 ∉ workers [0] :=
  ⟨takes_of (by decide), by decide, by decide, by decide, by decide, by decide, by decide, ⟨_, rfl, by decide⟩, by decide, by decide⟩
theorem witness_LaunchEvents_object : let r := recordOf (launchRecord 23)
    ∃ bytes u o v, ((launching 23).setCtx r.ctx { record := r, phase := .loading }).readVirt r.ctx r.obj r.objLen.toNat
        (r.objLen.toNat / 4096 + 2) = (.ok bytes, u) ∧ loadObject r bytes = some o ∧ u.writeAll r.ctx o.stores = (none, v) ∧
      v.idUsed r = false := by
  have hk : ((launching 23).setCtx (recordOf (launchRecord 23)).ctx { record := recordOf (launchRecord 23), phase := .loading }).own 5
      0x20800 false = (some 0x800, (launching 23).setCtx 5 { record := recordOf (launchRecord 23), phase := .loading }) :=
    State.own_page0 (k := { record := recordOf (launchRecord 23), phase := .loading }) (f := format)
      (w := { at_ := 256, entry := 1, level := 0, user := true, write := true, exec := true }) (by decide) rfl rfl
      (walkDown_tables (by decide) (by decide)) (by decide) rfl
  refine ⟨header, (launching 23).setCtx 5 { record := recordOf (launchRecord 23), phase := .loading },
    { stores := [(0, []), (0, [])], kernels := [], localImage := [], constImage := [] }, _, ?_, by decide, rfl, by decide⟩
  show State.readVirt _ 5 0x20800 64 2 = _
  rw [State.readVirt, if_neg (by decide)]
  dsimp only
  rw [hk]
  rfl

/-- Context 0 pre-empted: its one thread saved or not, cove 0 its own or another's. -/
def preempted (frozen : Bool) : State := { base.setCtx 0 { record := placedRecord, phase := .open, preempting := true } with ev := {} }.setCore 0
  { base.core 0 with frozen }
theorem witness_PreemptionEvents :
    (∃ k, TakesCommand (commanded [0, 0] base) 2 ∧ (commanded [0, 0] base).ctx? 0 = some k ∧ k.phase = .open ∧ k.preempting = false) ∧
    (∃ k, TakesCommand (commanded [0, 0] (preempted true)) 2 ∧ (commanded [0, 0] (preempted true)).ctx? 0 = some k ∧ k.preempting = true ∧
      k.record.coves.any ((preempted true).coveTaken 0) = false ∧
      k.record.coves.any (((preempted true).setCove 0 { health := { state := .retired } }).coveTaken 0) = true) ∧
    (∃ t u, (parked (.checkpoint 3) base).thread? 0 0 = some t ∧ t.park = .await 3 (.checkpoint 3) ∧
      (parked (.checkpoint 3) base).clear ((parked (.checkpoint 3) base).fenced t) = true ∧
      ((parked (.checkpoint 3) base).retire 0 0).holder? 0 0 t.uid = some u) ∧
    (∃ x k, (preempted true).preempted? 0 = some (x, k) ∧ (preempted true).canVacate x 0 = true ∧ (preempted false).canVacate x 0 = false) :=
  ⟨⟨_, takes_of (by decide), rfl, by decide, by decide⟩, ⟨_, takes_of (by decide), rfl, by decide, by decide, by decide⟩,
   ⟨_, _, rfl, by decide, by decide, rfl⟩, ⟨_, _, rfl, by decide, by decide⟩⟩

/-- Every thread of context 0 sleeps. -/
def asleep : State := (base.setCtx 0 { record := placedRecord, phase := .open }).onThread 0 0 fun t => { t with park := .await 7 (.counter 0 0) }
def tested (status : CoreStatus) (flag : Bool) : State := { base.setCore 0 { status } with ev := { flag } }
theorem witness_WatchEvents : asleep.slack 0 = true ∧ base.slack 0 = false ∧
    (((tested .contained true).core 0).status = .contained ∧ (tested .contained true).ev.flag = true) ∧
    (((tested .releasing false).core 0).status = .releasing ∧ (tested .releasing false).ev.flag = false) ∧
    (∃ k, base.ctx? base.ev.n = some k) ∧ (∃ k, base.ctx? base.ebudSel.toNat = some k) ∧
    (base.cove 0).health.state ≠ .retired ∧ (1500 < base.head.ceiling ∧ ({ base.head with ceiling := 1500 } : Headland).ceiling ≤ 1500) ∧
    State.reset.ctxs = [] ∧ (({} : Health).state = .nominal ∧ (39 : Int) < 40 ∧ (19 : Int) < 20) :=
  ⟨by decide, by decide, by decide, by decide, ⟨_, rfl⟩, ⟨_, rfl⟩, by decide, by decide, by decide, by decide⟩

/-- A register written, and the class-run tables at their limits. -/
def writes (off n : Nat) (x : Word) : State := { base with ev := { n := off, m := n, x } }
def staging (sel : Word) : State := { base with crt := { sel, nearStage := [{ index := 0xFFF, lo := 0x100000000, hi := BitVec.ofNat 64 (2 ^ 48) }] } }
theorem witness_RegisterEvents : ((staging 0xFFF).crt.busy = false ∧ (staging 0xFFF).crt.sel.getLsbD 63 = false) ∧
    ((staging 0x80000000000003FF).crt.sel.getLsbD 63 = true ∧ bits (staging 0x80000000000003FF).crt.sel 0 12 < 1024) ∧
    (∃ r, (staging 0xFFF).crt.nearStage.find? (fun r => r.index = bits (staging 0xFFF).crt.sel 0 12) = some r) ∧
    (staging 0).crt.nearStage.find? (fun r => r.index = bits (staging 0).crt.sel 0 12) = none ∧
    commitStatus false [] [] = 0 ∧ (∃ runs, commitStatus false [] runs ≠ 0) ∧ base.hostCopies = [] ∧
    ({ base.crt with nearBusy := true } : ClassRuns).nearBusy = true ∧
    ((writes (0x500 + 32 * 3 + 8 * 3) 0 1).ev.n = 0x500 + 32 * 3 + 8 * 3 ∧ (base.ctxs.any fun q => q.2.record.ptfmt = 0) = true) ∧
    (0x200000000 : Word).getLsbD 33 = true ∧
    (let s := (writes 0 0 (BitVec.ofNat 64 (2 ^ 62))).setCore (coreOf 0 62) { status := .quarantined }
     s.ev.x = BitVec.ofNat 64 (2 ^ 62) ∧ (s.cove 0).health.state ≠ .retired ∧ (s.core (coreOf s.ev.n 62)).status = .quarantined) ∧
    ((commanded [] (writes 1023 62 0)).head.boot = 2 ∧ (1023 : Nat) < 1024 ∧ (62 : Nat) ≤ 62) :=
  ⟨by decide, by decide, ⟨_, rfl⟩, by decide, by decide, ⟨[{ index := 0, lo := 0x100000000, hi := BitVec.ofNat 64 (2 ^ 48 + 3 * 2 ^ 40) }], by decide⟩,
   by decide, by decide, by decide, by decide, by decide, by decide⟩

theorem witness_CommandOutputs : (commanded [] base).head.boot = 2 ∧ (commanded [] base).ev.n < 1024 ∧ (commanded [] base).mbox.busy = none ∧
    (∃ k, (commanded [] base).ctx? (commanded [] base).ev.n = some k) ∧ TakesCommand (commanded [] base) 0 ∧
    ((4000 : Nat) ≤ 4000 ∧ (9600 : Nat) ≤ 9600 ∧ (3999 : Nat) < 4000 ∧ (9600 : Nat) < 9601) ∧
    (commanded (List.replicate 32 0) base).ev.bytes.length = 32 ∧ (commanded (List.replicate 4096 0) base).ev.bytes.length ≤ 4096 ∧
    packStatus [] (fun _ => 0) ≠ 0 :=
  ⟨by decide, by decide, by decide, ⟨_, rfl⟩, takes_of (by decide), by decide, by decide, by decide, by decide⟩
theorem witness_Resets : State.reset.powered = true ∧ ({ base with powered := false, ev := { flag := true } } : State).ev.flag = true := by decide

/-! Encoding and steps. -/

theorem witness_EncodeDecode : (Instr.msend 24 1 2 0).wellFormed = true ∧ encode (.msend 24 1 2 0) = some 0x0020CC0B := by decide
theorem witness_DecodeEncode : decode 0x0020CC0B = .ok (.msend 24 1 2 0) := by decide

/-- The placed thread's turn, its slot the first searched; behind a slot that is passed over; and with other words. -/
theorem turn_of {s : State} {c k : Nat} {t : Thread} {rest : List Move} (before behind : List Nat)
    (h : s.agenda = .core c :: rest ∧ s.powered = true ∧ (s.cove (coveOf c)).health.state ≠ .retired ∧ ((s.wakes c rest).core c).sealed = false ∧
      ((s.wakes c rest).core c).frozen = false ∧ (s.wakes c rest).thread? c k = some t ∧
      searchOrder (s.core c).lastIssued = before ++ k :: behind ∧ ((s.core c).slot k).engaged = false ∧
      t.hold = 0 ∧ t.range = none ∧ t.park = .none ∧ (s.wakes c rest).commitsOwn t = false ∧ t.ending = none)
    (hb : ∀ i ∈ before, (s.wakes c rest).passedOver (s.core c) c i) : Turn s c k t rest where
  agenda := h.1
  powered := h.2.1
  live := h.2.2.1
  open_ := h.2.2.2.1
  running := h.2.2.2.2.1
  holds := h.2.2.2.2.2.1
  order := ⟨before, behind, h.2.2.2.2.2.2.1, hb⟩
  fresh := h.2.2.2.2.2.2.2.1
  passed := h.2.2.2.2.2.2.2.2.1
  marked := h.2.2.2.2.2.2.2.2.2.1
  awake := by rw [h.2.2.2.2.2.2.2.2.2.2.1]; intro _ _; exact Park.noConfusion
  settled := h.2.2.2.2.2.2.2.2.2.2.2.1
  going := h.2.2.2.2.2.2.2.2.2.2.2.2
theorem witness_StepRunsInstruction : ∃ s', Turn base 0 0 (cur base) [] ∧ (cur base).pend.first = none ∧
    (base.wakes 0 []).fetch 0 (cur base) = .word 0x13 ∧ decode 0x13 = .ok (.addi 0 0 0) ∧
    exec (.addi 0 0 0) (base.turn 0 0 (cur base) 0x13 []) = .next s' ∧ s'.stillWaits 0 0 (cur base).uid = false :=
  ⟨_, turn_of [] [1, 2, 3, 4, 5, 6, 7, 8, 9, 10, 11, 12, 13, 14, 15] (by decide) (by simp), by decide, by decide, by decide, rfl, by decide⟩
/-- A cause pending, a word that encodes nothing, and a PC in the low window. -/
theorem witness_StepTakesTraps :
    (∃ s', Turn signalled 0 0 (cur signalled) [] ∧ (cur signalled).pend.first ≠ none ∧ (cur signalled).handler = false ∧
      exec .asyncTrap (signalled.turn 0 0 (cur signalled) ((signalled.wakes 0 []).fetch 0 (cur signalled)).latch []) = .next s' ∧
      s'.stillWaits 0 0 (cur signalled).uid = false) ∧
    (let s := guarded (State.reset.withFetchWord 32 0)
     ∃ s', Turn s 0 0 (cur s) [] ∧ (s.wakes 0 []).fetch 0 (cur s) = .word 0 ∧ (∃ e, decode 0 = .error e) ∧
      exec .illegalWord (s.turn 0 0 (cur s) 0 []) = .next s' ∧ s'.stillWaits 0 0 (cur s).uid = false) ∧
    (let s := (guarded base).onThread 0 0 fun t => { t with pc := 0x800 }
     ∃ s', Turn s 0 0 (cur s) [] ∧ (s.wakes 0 []).fetch 0 (cur s) = .badPc ∧ exec .fetchFault (s.turn 0 0 (cur s) 0 []) = .next s' ∧
      s'.stillWaits 0 0 (cur s).uid = false) ∧
    (base.window 0 0 (cur base).pc = .translated ∧ (cur base).fetched = none) :=
  ⟨⟨_, turn_of [] [1, 2, 3, 4, 5, 6, 7, 8, 9, 10, 11, 12, 13, 14, 15] (by decide) (by simp), by decide, by decide, rfl, by decide⟩,
   ⟨_, turn_of [] [1, 2, 3, 4, 5, 6, 7, 8, 9, 10, 11, 12, 13, 14, 15] (by decide) (by simp), by decide, ⟨.majorOpcode, by decide⟩, rfl, by decide⟩,
   ⟨_, turn_of [] [1, 2, 3, 4, 5, 6, 7, 8, 9, 10, 11, 12, 13, 14, 15] (by decide) (by simp), by decide, rfl, by decide⟩, by decide⟩
theorem witness_StepEvents : ∃ s', ({ base with agenda := [.event .clockRaise {}] } : State).agenda = .event .clockRaise {} :: [] ∧
    isEvent .clockRaise = true ∧ exec .clockRaise { base with agenda := [], ev := {} } = .next s' ∧ State.reset.agenda = [] :=
  ⟨_, rfl, rfl, rfl, rfl⟩
/-- A cycle of a core whose thread waits, of one that is sealed or frozen, and of one without a clock. -/
theorem witness_IdleCycles :
    (Clocked (parked (.counter 0 0) base) 0 [] ∧ (((parked (.counter 0 0) base).wakes 0 []).core 0).frozen = false ∧
      ∀ i, i < 16 → ((parked (.counter 0 0) base).wakes 0 []).passedOver ((parked (.counter 0 0) base).core 0) 0 i) ∧
    ((tested .contained true).agenda = .core 0 :: [] ∧ ((tested .contained true).core 0).sealed = true ∧
      ((preempted true).core 0).frozen = true ∧ ((base.setCove 0 { health := { state := .retired } }).cove (coveOf 0)).health.state = .retired) ∧
    (∃ u, base.thread? 0 0 = some u ∧ base.thread? 0 1 = none) ∧
    ((∀ i ∈ [1, 2], ((base.core 0).slot i).occ = .empty) ∧ ∃ t, [1, 0] = [1] ++ 0 :: [] ∧ ((base.core 0).slot 0).occ = .thread t ∧ t.park = .none) :=
  ⟨⟨⟨by decide, by decide, by decide⟩, by decide, by
      have h : ∀ i, i < 16 → (((parked (.counter 0 0) base).wakes 0 []).thread? 0 i).map (fun t => t.park) =
          if i = 0 then some (.await 3 (.counter 0 0)) else none := by decide
      intro i hi
      have := h i hi
      refine .inr ?_
      split
      · trivial
      · rename_i t ht
        rw [ht] at this
        by_cases h0 : i = 0
        · simp only [h0, if_pos, Option.map_some] at this
          exact .inr (.inr ⟨3, .counter 0 0, Option.some.inj this⟩)
        · simp [h0] at this⟩, by decide, ⟨_, rfl, by decide⟩, ⟨by decide, _, rfl, rfl, by decide⟩⟩
theorem witness_StepKeepsMemory : ∃ s', State.reset.sound ∧ step base = .next s' :=
  ⟨_, ⟨by decide, by simp [State.reset], by simp [State.reset]⟩, rfl⟩

/-! A completion record written through a page table (for the last clause of QueueEvents). -/

/-- A context whose page 0x20 is physical page 0, with the tables below offset 0x800. -/
structure Flat (s : State) (k : Ctx) : Prop where
  ctx : s.ctx? 0 = some k
  flags : k.record.flags = 0
  root : k.record.ptRoot = 0
  number : k.record.ptfmt = 0
  formats : s.ptfmt = Vector.replicate 4 format
  wf : s.phys.wf = true
  host : s.hdmNear = none ∧ s.hdmFar = none ∧ s.bar2 = none ∧ s.hostCopies = []
  low : ∀ a, a < 0x800 → s.phys.read a = if a = 0 ∨ a = 256 then 1 else 0

theorem bits_page {va : Word} (h : va.toNat / 4096 = 32) : bits va 39 9 = 0 ∧ bits va 30 9 = 0 ∧ bits va 21 9 = 0 ∧ bits va 12 9 = 32 := by
  simp only [bits, BitVec.extractLsb'_toNat, Nat.shiftRight_eq_div_pow]
  omega

theorem region_flat {s : State} {k : Ctx} (h : Flat s k) (pa : Nat) : s.region pa = .peer ∨ s.region pa = .host := by
  unfold State.region
  rw [h.host.1, h.host.2.1, h.host.2.2.1]
  simp only [inRangeOf]
  split
  · exact .inl rfl
  · exact .inr rfl

theorem stray_flat {s : State} {k : Ctx} (h : Flat s k) (pa : Nat) : s.isStray pa = false := by
  unfold State.isStray
  obtain e | e := region_flat h pa <;> rw [e]

theorem own_flat {s : State} {k : Ctx} (h : Flat s k) {va : Word} (hv : va.toNat / 4096 = 32) :
    s.own 0 va true = (some (va.toNat % 4096), s) := by
  have hl : ∀ b, b = 0 ∨ b = 256 → s.phys.load b 8 = 1 := by
    intro b hb
    obtain rfl | rfl := hb <;> simp [Memory.load, Memory.bytes, h.low] <;> decide
  refine State.own_page0 (w := { at_ := 256, entry := 1, level := 0, user := true, write := true, exec := true }) (k := k)
    (f := format) ?_ h.ctx (by rw [h.formats, h.number]; rfl) ?_ (by decide) (by rw [h.flags]; rfl)
  · have hc : canonical (s.levelsOf 0) va = true := by
      simp only [canonical, bits, BitVec.extractLsb'_toNat, Nat.shiftRight_eq_div_pow, Bool.or_eq_true, beq_iff_eq]
      left
      split <;> omega
    rw [State.window, if_neg (by simp only [localSize]; omega), if_neg (by
      simp only [inCoreWindow, bits, BitVec.extractLsb'_toNat, Nat.shiftRight_eq_div_pow, beq_iff_eq]; omega), if_pos hc]
  · rw [h.root]
    exact walkDown_tables (bits_page hv) ⟨hl 0 (.inl rfl), hl 256 (.inr rfl), stray_flat h 0, stray_flat h 256⟩

theorem partLine_flat {s : State} {k : Ctx} (h : Flat s k) {pa : Nat} (hp : 0x800 ≤ pa) (bs : List Byte) :
    Flat (s.partLine pa bs) k ∧ (s.partLine pa bs).ctxs = s.ctxs := by
  have hno : s.notify? pa = none := by
    unfold State.notify?
    obtain e | e := region_flat h pa <;> rw [e]
  have e : s.partLine pa bs = ({ s with
      phys := s.phys.store pa bs
      errors := s.errors.filter fun (u, _) => !(decide (pa ≤ 64 * u) && decide (64 * u + 64 ≤ pa + bs.length)) } : State).amend
        (.phys pa) bs := by
    unfold State.partLine
    rw [hno]
    simp only [stray_flat h pa, Bool.false_eq_true, if_false]
    generalize hu : ({ s with
      phys := s.phys.store pa bs
      errors := s.errors.filter fun (u, _) => !(decide (pa ≤ 64 * u) && decide (64 * u + 64 ≤ pa + bs.length)) } : State).amend
        (.phys pa) bs = u
    have hr : u.region pa = s.region pa := by rw [← hu]; rfl
    unfold State.recall
    split
    · rename_i l r he
      exfalso
      unfold State.leftOver at he
      rw [hr] at he
      obtain e | e := region_flat h pa <;> rw [e] at he
      · simp at he
      · dsimp only at he
        split at he <;> simp at he
    · rfl
  rw [e]
  refine ⟨⟨h.ctx, h.flags, h.root, h.number, h.formats, Memory.wf_store _ _ h.wf, h.host, ?_⟩, rfl⟩
  intro a ha
  show (s.phys.store pa bs).read a = _
  rw [Memory.read_store_of_outside h.wf _ _ _ (by omega), h.low a ha]

theorem write_flat (fuel : Nat) : ∀ {s : State} {k : Ctx} (_ : Flat s k) {va : Word} {bs : List Byte} (_ : 0x20800 ≤ va.toNat)
    (_ : va.toNat + bs.length ≤ 0x21000), (s.writeVirt 0 va bs fuel).1 = none ∧ (s.writeVirt 0 va bs fuel).2.ctxs = s.ctxs := by
  induction fuel with
  | zero => intro s k _ va bs _ _; exact ⟨rfl, rfl⟩
  | succ fuel ih =>
    intro s k h va bs hl hr
    rw [State.writeVirt]
    by_cases he : bs.isEmpty = true
    · rw [if_pos he]; exact ⟨rfl, rfl⟩
    · rw [if_neg he]
      have hpos : 0 < bs.length := by cases bs <;> simp_all
      rw [own_flat h (by omega)]
      dsimp only
      obtain ⟨h1, h2⟩ := partLine_flat h (pa := va.toNat % 4096) (by omega) (bs.take (64 - va.toNat % 64))
      by_cases hs : bs.drop (64 - va.toNat % 64) = []
      · rw [hs]
        cases fuel with
        | zero => exact ⟨rfl, h2⟩
        | succ n => rw [State.writeVirt, if_pos (by rfl)]; exact ⟨rfl, h2⟩
      · have hd : 64 - va.toNat % 64 < bs.length := by
          rw [List.drop_eq_nil_iff] at hs
          omega
        have hn : (va + BitVec.ofNat 64 (64 - va.toNat % 64)).toNat = va.toNat + (64 - va.toNat % 64) := by
          rw [BitVec.toNat_add, BitVec.toNat_ofNat]
          omega
        obtain ⟨h3, h4⟩ := ih h1 (va := va + BitVec.ofNat 64 (64 - va.toNat % 64)) (bs := bs.drop (64 - va.toNat % 64)) (by omega)
          (by rw [List.length_drop]; omega)
        exact ⟨h3, h4.trans h2⟩

theorem store_flat (bs : List Byte) {s : State} {k : Ctx} (h : Flat s k) {va : Word} (hl : 0x20800 ≤ va.toNat)
    (hr : va.toNat + bs.length ≤ 0x21000) : ∃ s', s.virtStore 0 va bs = some s' ∧ s'.ctxs = s.ctxs := by
  obtain ⟨h1, h2⟩ := write_flat (bs.length / 64 + 2) h hl hr
  unfold State.virtStore
  generalize s.writeVirt 0 va bs (bs.length / 64 + 2) = u at h1 h2 ⊢
  obtain ⟨a, u⟩ := u
  cases h1
  exact ⟨u, rfl, h2⟩

def closingCtx : Ctx := { record := { placedRecord with cqBase := 0x20800 }, phase := .closing 2 29 0xFFFF }
def closed : State := { (tables base).setCtx 0 closingCtx with ev := {} }
theorem witness_QueueEvents_teardown : ∃ k k', closed.ctx? closed.ev.n = some k ∧ k.phase = .closing 2 29 0xFFFF ∧
    closed.drained closed.ev.n k = true ∧
    (closed.record 0 { tcb := 0, status := 6, cause := 29, unit := 0xFFFF, kind := 2 }).ctx? 0 = some k' ∧ k'.records = [] := by
  let r : Completion := { tcb := 0, status := 6, cause := 29, unit := 0xFFFF, kind := 2 }
  let s := closed.setCtx 0 { closingCtx with records := [r] }
  have hf : Flat s { closingCtx with records := [r] } :=
    ⟨rfl, rfl, rfl, rfl, rfl, by decide, by decide, by
      have : ∀ a, a < 0x800 → Memory.read [(0, 1), (256, 1)] a = if a = 0 ∨ a = 256 then 1 else 0 := by
        intro a _
        by_cases h0 : a = 0 <;> by_cases h1 : a = 256 <;> simp_all [Memory.read, find?, eq_comm]
      exact this⟩
  obtain ⟨s', h1, h2⟩ := store_flat (recordBytes 0 true 0 (Config.moduleTime s.tick) r) hf (va := 0x20800) (by decide)
    (by simp [recordBytes])
  have h0 : s'.ctx? 0 = some { closingCtx with records := [r] } := by
    show find? 0 s'.ctxs = _
    rw [h2]
    rfl
  have hw : s.writeRecord 0 = some (s'.setCtx 0 { closingCtx with records := [], ctail := 1 }) := by
    have e : s.ctx? 0 = some { closingCtx with records := [r] } := rfl
    unfold State.writeRecord
    rw [e]
    dsimp only
    rw [if_neg (by decide)]
    show (match s.virtStore 0 0x20800 (recordBytes 0 true 0 (Config.moduleTime s.tick) r) with
      | none => none
      | some s' => some (s'.onCtx 0 _)) = _
    rw [h1]
    simp only [State.onCtx, h0]
    rfl
  refine ⟨closingCtx, { closingCtx with records := [], ctail := 1 }, rfl, rfl, by decide, ?_, rfl⟩
  show (State.writeRecords s 0 1).ctx? 0 = _
  rw [State.writeRecords, hw]
  show find? 0 (put 0 _ s'.ctxs) = _
  rw [h2]
  rfl

/-! Witnesses of further clauses. -/

/-- The address clauses at their limits: local store, the window, its gaps, canonical addresses and the others. -/
theorem witness_AccessChecks_limits : base.levelsOf 0 ≠ 5 ∧ (0x17FFF : Nat) < 0x18000 ∧ ((0xFE000001FFFF7FFF : Nat) ≤ 0xFE000001FFFFFFFF ∧
    0xFE000001FFFF7FFF % 2 ^ 17 < 0x18000) ∧ 0x18000 ≤ 0xFE000001FFFFFFFF % 2 ^ 17 ∧ ((0x7FFFFFFFFFFF : Nat) < 2 ^ 47 ∧
    2 ^ 64 - 2 ^ 47 ≤ 0xFFFF800000000000) ∧ ¬((0x800000000000 : Nat) < 2 ^ 47 ∨ 2 ^ 64 - 2 ^ 47 ≤ 0x800000000000) := by decide

/-- A queue word as the address of a load, the data of a store and of an atomic. -/
def queuedNear : State := withG 11 0x900 queued
theorem witness_QueuePorts_accesses :
    (∃ r, loadRow (.lbu 10 28 1) = some r ∧ Issues queued (cur queued) [r.base] r.write false ∧ (cur queued).spec = none ∧
      Reaches queued (cur queued) (r.address queued (cur queued)) r.n false (.local 0 78) ∧ queued.localError 0 78 r.n = none) ∧
    (∃ r, storeRow (.sd 11 28 8) = some r ∧ Issues queuedNear (cur queuedNear) r.reads 0 false ∧ (cur queuedNear).plain ∧
      Reaches queuedNear (cur queuedNear) (r.address queuedNear (cur queuedNear)) r.n true (.local 0 0x908)) ∧
    (∃ r, atomicRow (.atmAdd 10 11 28 1 2) = some r ∧ Issues queuedNear (cur queuedNear) r.reads r.rd true ∧
      Reaches queuedNear (cur queuedNear) (r.address queuedNear (cur queuedNear)) r.n true (.local 0 0x900) ∧
      queuedNear.localError 0 0x900 r.n = none) :=
  ⟨⟨_, rfl, issues_of (by decide), by decide, reaches_of (by decide), by decide⟩,
   ⟨_, rfl, issues_of (by decide), ⟨by decide, by decide⟩, reaches_of (by decide)⟩,
   ⟨_, rfl, issues_of (by decide), reaches_of (by decide), by decide⟩⟩
/-- Such accesses in translated memory. -/
def queuedFar (x : Word) : State := withG 11 0x20000 ((paged x).putOwn 0xA00 8 0x20000 |>.setSlot 0 0 { ((paged x).slot 0 0) with
  q := { rx := { en := true, base := 0x50, lg := 2, head := 0, count := 1 } } })
theorem witness_QueuePorts_far :
    (∃ r, loadRow (.lbu 10 28 1) = some r ∧ Issues (queuedFar 0x20000) (cur (queuedFar 0x20000)) [r.base] r.write false ∧
      Reaches (queuedFar 0x20000) (cur (queuedFar 0x20000)) (r.address (queuedFar 0x20000) (cur (queuedFar 0x20000))) r.n false (.phys 1) ∧
      (queuedFar 0x20000).forward 0 (.phys 1) 1 = .none) ∧
    (∃ r, storeRow (.sd 11 28 8) = some r ∧ Issues (queuedFar 0x20000) (cur (queuedFar 0x20000)) r.reads 0 false ∧
      Reaches (queuedFar 0x20000) (cur (queuedFar 0x20000)) (r.address (queuedFar 0x20000) (cur (queuedFar 0x20000))) r.n true (.phys 8) ∧
      (queuedFar 0x20000).bufferBusy 0 = false) ∧
    (∃ r, atomicRow (.atmAdd 0 28 12 1 2) = some r ∧ Issues (queuedFar 0x20000) (cur (queuedFar 0x20000)) r.reads r.rd true ∧
      Reaches (queuedFar 0x20000) (cur (queuedFar 0x20000)) (r.address (queuedFar 0x20000) (cur (queuedFar 0x20000))) r.n true (.phys 0) ∧
      (queuedFar 0x20000).peerTarget (.phys 0) = false ∧ (queuedFar 0x20000).overlapping 0 (.phys 0) 8 = []) :=
  ⟨⟨_, rfl, issues_of (by decide), reaches_of (by decide), by decide⟩, ⟨_, rfl, issues_of (by decide), reaches_of (by decide), by decide⟩,
   ⟨_, rfl, issues_of (by decide), reaches_of (by decide), by decide, by decide⟩⟩

/-- A key map: key 5 BOUND with 63 pins, key 6 PENDING, key 7 BOUND without a pin and old, the rest FREE. -/
def keyed : Core := { kmap := (((Vector.replicate 64 {}).set 0 { key := 5, state := .bound, pin := 63 }).set 1
  { key := 6, state := .pending, owner := 3 }).set 2 { key := 7, state := .bound, age := 9 } }
theorem witness_CoreUnitEffects_map :
    keyed.Holds 3 5 0 ∧ keyed.Holds 3 6 1 ∧ keyed.Holds 3 7 2 ∧ keyed.lacks 64 8 ∧ keyed.Oldest 3 2 ∧
    (∀ j, j < 3 → (keyed.entry j).state ≠ .free) ∧ (∀ j, j < 2 → (keyed.entry j).state = .bound → (keyed.entry j).pin ≠ 0) ∧
    ((keyed.entry 3).state = .free ∧ ∀ j, j < 3 → (keyed.entry j).state ≠ .free) ∧ (keyed.entry 1).owner = 3 :=
  ⟨⟨by decide, by decide, by decide, by decide⟩, ⟨by decide, by decide, by decide, by decide⟩, ⟨by decide, by decide, by decide, by decide⟩,
   by unfold Core.lacks; decide, ⟨by decide, by decide, by decide, by decide⟩, by decide, by decide, by decide, by decide⟩
theorem witness_CoreUnitEffects_wakes : ∀ w ∈ [Wait.kwait 10 5, .kwaitU 10], ∃ t, (parked w base).thread? 0 0 = some t ∧
    t.park = .await 3 w ∧ (parked w base).checking t = false ∧ (((parked w base).core 0).entry 5).state ≠ .pending ∧
    (parked w base).thread? 0 1 = none := by
  intro w hw
  simp only [List.mem_cons, List.not_mem_nil, or_false] at hw
  obtain rfl | rfl := hw <;> exact ⟨_, rfl, by decide, by decide, by decide, by decide⟩

/-- A word of a commit for another core's local store. -/
def commitWord_ : SpecWord := { va := 0xFE00000000020900, target := .local 1 0x900, mask := 0x0F, data := 1 }
theorem witness_MemoryEvents_commit : Brings (bring (.commit commitWord_) base) (packet (.commit commitWord_)) (.commit commitWord_) ∧
    ((bring (.commit commitWord_) base).core 1).sealed = false ∧ (bring (.commit commitWord_) base).localError 1 0x900 8 = none :=
  ⟨brings_of (by decide), by decide, by decide⟩

/-- The end of a task whose TCB lies nowhere, and a waiter for one. -/
theorem witness_TaskEvents_waits :
    (let k : Kind := .ended { placedTask with tcb := 0 } 4 0 0 0
     Brings (bring k base) (packet k) k ∧ (bring k base).hostCopies = [] ∧ (bring k base).endLacks { placedTask with tcb := 0 } 4 = some 0) ∧
    (∃ w v, ({ submitted 4 0 with taskWaits := [{ target := .phys 64, va := 0x20040, ctx := 0, core := 0, slot := 0, uid := 1 }] } :
      State).taskWaits = [w] ∧ (submitted 4 0).statusAt w.ctx w.va = some v ∧ 4 ≤ v ∧ v ≤ 6) :=
  ⟨⟨brings_of (by decide), by decide, by decide⟩,
   ⟨_, 4, rfl, by
      unfold State.statusAt
      rw [own_submitted _ _ rfl rfl (by decide) (walkDown_tables (by decide) (by decide))]
      decide, by decide, by decide⟩⟩

/-- A context that arrives: into a free slot, into the arrival buffer, into the spill area. -/
def arriving (s : State) : State := bring (.migrate { thread := cur base, form := .long, hatbox := [], dest := 0 }) s
def crowded : State := base.setCore 0 { base.core 0 with slots := Vector.replicate 16 { occ := .reserved 0 } }
def sealed_ : State := base.setCore 0 { base.core 0 with status := .contained }
theorem witness_SchedulingEvents_arrival :
    (base.Free 0 0 1 ∧ ¬base.spills { thread := cur base, form := .long, hatbox := [], dest := 0 } ∧ (base.core 0).arrivals = []) ∧
    (crowded.noneFree 0 0 ∧ ¬crowded.spills { thread := cur base, form := .long, hatbox := [], dest := 0 } ∧ (crowded.core 0).arrivals = []) ∧
    (sealed_.spills { thread := cur base, form := .long, hatbox := [], dest := 0 } ∧ (sealed_.core 0).status = .contained) ∧
    ((tested .quarantined false).core 0).status ≠ .normal ∧ ((tested .quarantined false).core 0).status ≠ .contained ∧
    (arriving base).ev.flag = false ∧ (arriving base).ev.x = 0 := by
  have hs : ∀ s : State, (s.core 0).sealed = false → s.away 0 0 = false → (s.cove 0).spill = [] →
      ¬s.spills { thread := cur base, form := .long, hatbox := [], dest := 0 } := by
    intro s h1 h2 h3
    rintro (h | h | ⟨b, hb, -⟩)
    · simp [h1] at h
    · exact absurd (h2.symm.trans h) (by decide)
    · rw [show coveOf 0 = 0 from rfl, h3] at hb; simp at hb
  refine ⟨⟨⟨⟨_, rfl, by decide⟩, by decide, by decide⟩, hs _ (by decide) (by decide) (by decide), by decide⟩,
    ⟨?_, hs _ (by decide) (by decide) (by decide), by decide⟩, ⟨.inl (by decide), by decide⟩, by decide, by decide, by decide, by decide⟩
  intro k hk i hi
  obtain rfl : { record := placedRecord, phase := .open, ebud := 0xFFFFFFFF } = k := Option.some.inj hk
  have : ∀ i, i < 16 → (crowded.slot 0 i).occ ≠ .empty := by decide
  exact this i hi
/-- A context in the arrival buffer, and one in the spill area; a task with a home; the ring. -/
def carried : Carried := { thread := cur base, form := .long, hatbox := [], dest := 0 }
theorem witness_SchedulingEvents_returns :
    (let s := { base.setCore 0 { base.core 0 with arrivals := [carried] } with ev := { flag := true } }
     s.ev.flag = true ∧ (s.core s.ev.n).arrivals = carried :: [] ∧ (s.core 0).sealed = false ∧ s.Free 0 0 1) ∧
    (let s := { base.setCove 0 { base.cove 0 with spill := [carried] } with ev := { x := 1 } }
     s.ev.flag = false ∧ s.ev.x = 1 ∧ (s.cove s.ev.m).spill = carried :: [] ∧ (s.core carried.dest).status = .normal ∧
       s.away 0 0 = false ∧ (s.core 0).arrivals = [] ∧ s.Free 0 0 1) ∧
    (∃ t, base.thread? 0 0 = some t ∧ t.gang = none ∧ base.thread? 0 1 = none) ∧
    (base.Takes 0 0 true ∧ base.eligible 0 (coreOf 0 5) false = some 0 ∧ (5 : Nat) = ((base.cove 0).lastDispatch + 1 + 5) % 63) ∧
    NextCove [0, 1] 1 1 0 ∧ (base.ctx? 0).isSome = true :=
  ⟨⟨rfl, rfl, by decide, ⟨⟨_, rfl, by decide⟩, by decide, by decide⟩⟩,
   ⟨rfl, rfl, rfl, by decide, by decide, by decide, ⟨⟨_, rfl, by decide⟩, by decide, by decide⟩⟩,
   ⟨_, rfl, by decide, by decide⟩,
   ⟨⟨by decide, by decide, by decide, by simp [show (base.cove (coveOf 0)).spill = [] by decide], fun _ => ⟨0, by decide⟩⟩, by decide, by decide⟩,
   ⟨1023, by decide, by decide, by decide, by decide, by decide, by decide⟩, by decide⟩

/-- A gather's blocks at the head of the queue: with room in the copy engine's queue, the last one, and without. -/
theorem witness_VectorStarts_blocks :
    (let b : CopyCmd := copyOf 0x900 0x800 8 .full (some 0)
     ((vector (.blocks [b])).core 0).vqueue = [command (.blocks [b])] ∧ ((vector (.blocks [b])).core 0).copyq.length < 8 ∧
       8 ≤ (List.replicate 8 b).length ∧ [b, b] = b :: [b]) ∧
    (base.ev.bytes = [] ∧ ∃ e : OldWord, e.uid = 1 ∧ e.target = .local 0 0x900 ∧ 0x900 % 8 = 0 ∧ e.new = (base.core 0).mem.load 0x900 8 ∧
      0 ≤ e.step ∧ e.step < 1) :=
  ⟨by decide, by decide, { uid := 1, target := .local 0 0x900, step := 0, old := 1, new := 0 }, by decide⟩

/-- An operation that reads a word again before it completes. -/
theorem witness_MatrixCompletes_again : let s := { executing (.ldw 7 0) with ev := { flag := true, bytes := [0, 0] } }
    let r : MRun := { cmd := mcommand (.ldw 7 0) false, src := List.replicate 288 0 }
    let u := s.setCore 0 { s.core 0 with mx := { run := some r } }
    (u.core 0).mx.run = some r ∧ r.cmd.op.source = some (0, 288, 32) ∧ u.ev.flag = true ∧ u.ev.bytes ≠ [] ∧
      u.localError 0 0 288 = none ∧ r.src.length = 288 ∧ (wordNumbers u.ev.bytes).count 0 = 1 ∧ (wordNumbers u.ev.bytes).contains 1 = false := by
  decide

/-- Finite operands with a sum that is zero and one that is not; a NaN; an infinite accumulator. -/
theorem witness_MatrixValues_sums : let one := fp32Val 0x3F800000
    let less := fp32Val 0xBF800000
    let total (old : BitVec 32) : Int := (fp32Val old).inUnits (-195) + one.inUnits (-23) * less.inUnits (-23) * one.inUnits (-149)
    (∀ t ∈ [(one, less)], t.1.finite (-23) ∧ t.2.finite (-23)) ∧ one.finite (-149) ∧ total 0x3F800000 = 0 ∧ total 0x40000000 ≠ 0 ∧
    (fp32Val 0x7FC00000).isNan = true ∧ fp32Val 0xFF800000 = .inf true := by
  refine ⟨fun t ht => ?_, ?_, by decide, by decide, by decide, by decide⟩
  · simp only [List.mem_cons, List.not_mem_nil, or_false] at ht
    subst ht
    exact ⟨show (-23 : Int) ≤ _ by decide, show (-23 : Int) ≤ _ by decide⟩
  · show (-149 : Int) ≤ _
    decide
theorem witness_TopSelection_order : (0xFF7F : Nat) < 2 ^ 16 ∧ (bf16.decode 0xFF7F).isNan = false ∧ (bf16.decode 0x7FC0).isNan = true ∧
    (0xFF800000 : Nat) < 2 ^ 32 ∧ (fp32.decode 0xFF800000).isNan = false := by decide

/-- A speculative task's store holds a command back, and so does an access in flight. -/
def withheld : State :=
  let part : SpecPart := { task := placedTask, uid := 1, words := [{ va := 0x20000, target := .phys 0x900, mask := 1, data := 2 }] }
  base.setCore 0 { base.core 0 with spec := (base.core 0).spec.setIfInBounds 1 (some part) }
theorem witness_InvalidationEvents_waits :
    withheld.settledAll { scope := 2, ctx := 0, va := 0, bytes := 0 } [placedTask.tcb.toNat] = false ∧
    (bring (.load 8 8 0x20008) base).performedAll [7] = false ∧ (∃ t, base.thread? 0 0 = some t) := ⟨by decide, by decide, _, rfl⟩

/-- A submission ring that lies nowhere. -/
theorem witness_QueueEvents_absent : ∃ k u, let s := { base.setCtx 0 { record := placedRecord, phase := .open, tail := 1 } with ev := {} }
    s.ctx? s.ev.n = some k ∧ k.phase = .open ∧ k.shead ≠ k.tail ∧
      s.own s.ev.n (k.record.sqBase + BitVec.ofNat 64 (16 * (k.shead.toNat % 2 ^ k.record.sqLg))) false = (none, u) :=
  ⟨_, _, rfl, by decide, by decide, rfl⟩

/-- The readings at their limits; a released core of its own context, and of another. -/
theorem witness_WatchEvents_limits :
    (base.head.cap < 9601 ∧ (950 : Int) ≤ 950 ∧ ((949 : Int) < 950) ∧ (10 * 863 < 9 * (9600 : Nat)) ∧ 9 * (9600 : Nat) ≤ 10 * 8640 ∧
      (1049 : Int) < 1050 ∧ (1050 : Int) ≤ 1050) ∧
    (∃ k, (base.cove (coveOf 0)).owner = (base.core 0).owner ∧ base.coveCtx 0 = some k) ∧
    ((tested .releasing true).cove (coveOf 0)).owner ≠ ((tested .releasing true).core 0).owner ∧
    (∃ k, base.ctx? 0 = some k ∧ k.phase ≠ .loading) ∧ (∃ q ∈ base.cores, coveOf q.1 = 0) ∧ (∀ q ∈ base.cores, coveOf q.1 ≠ 1) :=
  ⟨by decide, ⟨_, by decide, rfl⟩, by decide, ⟨_, rfl, by decide⟩, by decide, by decide⟩

theorem witness_RegisterEvents_writes : (∀ n ∈ [1, 2, 3, 4], (writes 0x1000 n 64).ev.m = 1 ∨ (writes 0x1000 n 64).ev.m = 2 ∨
    (writes 0x1000 n 64).ev.m = 3 ∨ (writes 0x1000 n 64).ev.m = 4) ∧
    (({ writes 0 0 0 with ev := { flag := true } } : State).ev.m = 0 ∧ ({ writes 0 0 0 with ev := { flag := true } } : State).ev.flag = true) ∧
    ((writes 0x208 0 0).ev.m = 0x208 ∨ (writes 0x208 0 0).ev.flag = false) := by decide

/-- A launch that waits, an ended context, an unknown one; a failed boot. -/
theorem witness_CommandOutputs_contexts :
    (∃ k, (base.setCtx 0 { record := placedRecord, phase := .loading }).ctx? 0 = some k ∧ k.phase = .loading) ∧
    (∃ e : Ended, [e] = [] ++ e :: [] ∧ e.ctx = 3) ∧ base.head.ended = [] ∧ 1024 ≤ (1024 : Nat) ∧ base.ev.n ≤ 1 ∧
    ({ base.head with boot := 3 } : Headland).boot = 3 ∧ (commanded [] base).ev.bytes = [] :=
  ⟨⟨_, rfl, by decide⟩, ⟨{ ctx := 3, initial := 0, final := 0, events := Vector.replicate 8 0, history := [] }, by decide⟩, by decide,
   by decide, by decide, by decide, by decide⟩

/-- A line of the buffer that holds the PC, the thread's own word, and neither. -/
theorem witness_StepTakesTraps_fetch : (∃ l, (base.core 0).ibuf.find? (fun l => l.ctx == 0 && l.va == (cur base).pc.toNat / 64 * 64) = some l) ∧
    ({ cur base with fetched := some ((cur base).pc, 0x13) } : Thread).fetched = some ((cur base).pc, 0x13) ∧
    (base.core 1).ibuf.find? (fun l => l.ctx == 0 && l.va == (cur base).pc.toNat / 64 * 64) = none := ⟨⟨_, rfl⟩, by decide, by decide⟩

/-- Slots that are held, reserved or awaiting, and a thread before its issue point. -/
theorem witness_IdleCycles_slots :
    (∀ o ∈ [Occupant.held 1, .reserved 0, .awaiting placedTask], ((base.setSlot 0 0 { occ := o }).slot 0 0).occ = o) ∧
    (∃ t, ((base.onThread 0 0 fun t => { t with hold := 3 }).slot 0 0).occ = .thread t ∧ t.park = .none ∧ t.hold ≠ 0) ∧
    (∃ t, ((parked (.counter 0 0) base).slot 0 0).occ = .thread t ∧ t.park = .await 3 (.counter 0 0)) ∧
    base.powered = true ∧ ({ base with powered := false } : State).powered = false :=
  ⟨by decide, ⟨_, rfl, by decide, by decide⟩, ⟨_, rfl, by decide⟩, by decide, by decide⟩
/-- An exact result that is rounded, one beyond the range, a quotient and a root. -/
theorem witness_RoundingModes_values : (∃ x : Exact, x.v = .fin false 3 (-151) ∧ 3 ≠ 0) ∧ (∃ x : Exact, x.v = .fin true (2 ^ 24) 104) ∧
    fp32Val 0x00000001 = .fin false 1 (-149) ∧ fp32Val 0x7F800001 = .nan true ∧ fp32Val 0x80000000 = .fin true 0 (-149) :=
  ⟨⟨{ v := .fin false 3 (-151) }, rfl, by decide⟩, ⟨{ v := .fin true (2 ^ 24) 104 }, rfl⟩, by decide, by decide, by decide⟩


/-- Units read: a stray, one of each class with an error, one corrected; the error's own unit and its neighbour. -/
theorem witness_DataEvents_checks :
    (broken 0).isStray 0x200000 = true ∧ (∀ cls ∈ [0, 1, 2, 3], (broken cls).isStray 0 = false ∧ (broken cls).classAt 0 = cls) ∧
    ((0, .uncorrectable) ∈ (broken 0).errors ∧ 63 / 64 ≤ 0 ∧ 0 ≤ (63 + 1 - 1) / 64) ∧ (¬64 / 64 ≤ 0) ∧
    ((0, .correctable) ∈ ({ dram 0 with errors := [(0, .correctable)] } : State).errors) := by decide
/-- A budget of 0, 1 and 2, with and without a thread that handles its end. -/
def budgeted (n : BitVec 32) (flags : BitVec 16) : State :=
  (base.setCtx 0 { record := placedRecord, phase := .open, ebud := n }).onThread 0 0 fun t => { t with task := { t.task with flags } }
theorem witness_DataEvents_budget : (∀ n ∈ ([0, 1, 2] : List (BitVec 32)), ∃ k, (budgeted n 0).ctx? 0 = some k ∧ k.ebud = n) ∧
    (∀ q ∈ (budgeted 1 0).threadsOf 0, q.2.2.task.budget = false) ∧
    (∃ t, (budgeted 1 8).threadsOf 0 = [(0, 0, t)] ∧ t.task.budget = true) :=
  ⟨by
    intro n hn
    simp only [List.mem_cons, List.not_mem_nil, or_false] at hn
    obtain rfl | rfl | rfl := hn <;> exact ⟨_, rfl, by decide⟩,
   by decide, ⟨_, rfl, by decide⟩⟩
/-- A core in no gang, with a thread, a task that is awaited and an ordered task that has ended. -/
def busy : State := (base.setSlot 0 1 { occ := .awaiting placedTask }).setCore 0 { (base.setSlot 0 1 { occ := .awaiting placedTask }).core 0 with
  spec := (Vector.replicate 4 none).setIfInBounds 0 (some { task := placedTask, uid := 9, ended := true }) }
theorem witness_DataEvents_contain : busy.leaderOf 0 = none ∧ (∀ i, i < 16 → ((busy.thread? 0 i).bind fun t => t.gang) = none) ∧
    ((busy.core 0).slot 1).occ = .awaiting placedTask ∧ (∃ t, ((busy.core 0).slot 0).occ = .thread t) ∧
    ∃ q : SpecPart, (busy.core 0).spec[0]? = some (some q) ∧ q.ended = true :=
  ⟨by decide, by decide, by decide, ⟨_, rfl⟩, _, rfl, rfl⟩

theorem witness_MemoryEvents_lines : (0x900 % 8 = 0 ∧ commitWord_.target = .local 1 0x900) ∧
    (shared true).isStray (64 * 0) = false ∧ (shared true).isStray (64 * 0x8000) = true := by decide

/-- A decrement that readies a task, ones that do not; a TCB of this context that is armed. -/
def armedAt (pred status : Byte) : State := { tcbAt status pred 0 with armed := [{ placedTask with tcb := 0x20040 }] }
theorem witness_TaskEvents_lower :
    ((armedAt 1 1).phys.wf = true ∧ (armedAt 1 1).alive 0 = true ∧ (armedAt 1 1).tcbStatus 64 = 1 ∧ (armedAt 1 1).tcbPred 64 = 1) ∧
    ((armedAt 2 1).tcbPred 64 ≠ 1 ∧ (armedAt 1 2).tcbStatus 64 ≠ 1) ∧ ((armedAt 1 1).armedTask 0 0x20040 64).isSome = true := by decide
/-- A slice of 3 iterations for a parallelism of 1, one with nothing left, and the limits of a bad one. -/
def slice (next total nx par : Nat) : State := base.setCore 0 { base.core 0 with mem :=
  (((((base.core 0).mem.save 0x900 8 (wide next)).save 0x908 8 (wide total)).save 0x910 4 (wide nx)).save 0x914 4 1).save 0x91C 4 (wide par) }
theorem witness_TaskEvents_claim :
    (∀ q ∈ [(0, 3, 3, 1), (3, 3, 3, 1)], let s := slice q.1 q.2.1 q.2.2.1 q.2.2.2
      ((s.core 0).mem.load 0x900 8).toNat ≤ ((s.core 0).mem.load 0x908 8).toNat ∧ ((s.core 0).mem.load 0x910 4).toNat = 3 ∧
      ((s.core 0).mem.load 0x914 4).toNat = 1 ∧ ((s.core 0).mem.load 0x91C 4).toNat = 1) ∧
    (((slice 0 3 0 1).core 0).mem.load 0x910 4).toNat = 0 ∧ 2 ^ 24 ≤ (((slice 0 3 (2 ^ 24) 1).core 0).mem.load 0x910 4).toNat ∧
    (((slice 0 3 3 0).core 0).mem.load 0x91C 4).toNat = 0 ∧ 2 ^ 40 ≤ (((slice 0 (2 ^ 40) 3 1).core 0).mem.load 0x908 8).toNat := by decide
/-- A counter posted with what it expects, below it, and beyond 32 bits; a thread that waits for it. -/
theorem witness_TaskEvents_counter : let v : Counter := { count := 4, expected := 5, posted := true }
    let s := (parked (.counter 10 31) base).setCounter 0 31 v
    ((s.core 0).counter 31).posted = true ∧ ((s.core 0).counter 31).expected ≤ min (4 + 1) 0xFFFFFFFF ∧ min (4 + 0) 0xFFFFFFFF < v.expected ∧
    0xFFFFFFFF < 4 + 0xFFFFFFFC ∧ (s.core 0).counterWaiters 31 = [(0, 10)] ∧ ((base.setCounter 0 31 v).core 0).counterWaiters 31 = [] ∧
    ((base.core 0).counter 31).posted = false := by decide
/-- A running task's TCB at 64, with a list of so many successors at 0x900, the first the TCB itself. -/
def finishing (count high : Byte) : State := { submitted 3 0 with
  phys := [(0, 1), (64 + 55, 3), (256, 1), (0x900, count), (0x901, high), (0x908, 0x40), (0x90A, 2)].filter fun c => c.2 != 0 }
def finishes (succ : Word) : Task := { placedTask with tcb := 0x20040, succ }
theorem witness_TaskEvents_end : let s := finishing 0 0
    (s.dropPacket 7).own 0 0x20040 false = (some 64, s.dropPacket 7) ∧ s.own 0 0x20040 false = (some 64, s) ∧ s.region 64 ≠ .host ∧ s.errors = [] ∧
    s.isStray 64 = false ∧ s.hostCopies = [] ∧ s.alive 0 = true ∧ (finishes 0).succ = 0 ∧
    ({ s with ctxs := [] } : State).alive 0 = false :=
  ⟨own_submitted _ _ rfl rfl (by decide) (walkDown_tables (by decide) (by decide)),
   own_submitted _ _ rfl rfl (by decide) (walkDown_tables (by decide) (by decide)), by decide, by decide, by decide, by decide, by decide,
   by decide, by decide⟩
/-- A list of one; a list that is misaligned. -/
theorem witness_TaskEvents_list : (finishing 1 0).successors (finishes 0x20900) 0 = (some [0x20040], finishing 1 0) ∧
    (finishing 1 0).successors (finishes 0x20901) 0 = (none, finishing 1 0) := by
  refine ⟨?_, rfl⟩
  have h : ∀ va : Word, va = 0x20900 ∨ va = 0x20908 → (finishing 1 0).own 0 va false = (some (va.toNat % 2 ^ 12), finishing 1 0) := by
    rintro va (rfl | rfl) <;> exact own_submitted _ _ rfl rfl (by decide) (walkDown_tables (by decide) (by decide))
  have hc : ∀ pa va, pa = 0x900 ∨ pa = 0x908 → (finishing 1 0).checkPhys 0 0 pa 8 va 9 = (.ok, finishing 1 0) := by
    rintro pa va (rfl | rfl) <;> exact Prod.ext rfl rfl
  have hw : ∀ va : Word, va = 0x20900 ∨ va = 0x20908 → (finishing 1 0).listWords 0 0 [va] =
      (some [(finishing 1 0).phys.load (va.toNat % 2 ^ 12) 8], finishing 1 0) := by
    rintro va (rfl | rfl) <;> (unfold State.listWords; rw [h _ (by simp)]; dsimp only; rw [hc _ _ (by simp)]; rfl)
  unfold State.successors
  rw [if_neg (by decide), if_neg (by decide)]
  show (match (finishing 1 0).listWords 0 0 [0x20900] with | (some [n], s) => _ | (_, s) => _) = _
  rw [hw _ (.inl rfl)]
  exact hw 0x20908 (.inr rfl)
theorem witness_TaskEvents_release :
    (finishing 1 0).tcbTrap 0 0 0x20040 = none ∧ ((finishing 1 0).tcbTrap 0 0 0x20041).isSome = true ∧ (finishing 1 0).isPeer 64 = false ∧
    (∃ u, (finishing 1 0).own 0 0x8000000000000000 false = (none, u)) := ⟨by decide, by decide, by decide, _, rfl⟩

theorem witness_TaskEvents_commits : (∃ i q, committing.oldestPart 0 = some (i, q) ∧ q.ended = true) ∧
    (∃ q : SpecPart, q.uid = 1 ∧ q.ended = false ∧ ((speculative 0).core 0).spec[0]? = some (some q)) ∧
    (((speculative 0).core 0).threads.find? fun r => r.2.uid = 1).isSome = true ∧
    ([commitWord_] : List SpecWord)[0]? = some commitWord_ ∧
    Brings (bring (.releases placedTask [0x20040] 0 0) base) (packet (.releases placedTask [0x20040] 0 0)) (.releases placedTask [0x20040] 0 0) :=
  ⟨⟨_, _, rfl, rfl⟩, ⟨_, rfl, rfl, rfl⟩, by decide, rfl, brings_of (by decide)⟩

theorem witness_TranslationEvents_entry : ∀ acc ∈ [Access.fetch, .load 8 (.g 10 8 false), .store 8 1, .atomic adding, .trigger 3],
    (missing acc base).entryWaits (packet (.tlbMiss 0x20008 acc)) (cur base) acc 0x20008 = false := by
  intro acc ha
  simp only [List.mem_cons, List.not_mem_nil, or_false] at ha
  obtain rfl | rfl | rfl | rfl | rfl := ha <;> decide

/-- A request for a page whose record at the module fault unit is written or not; a register written narrow; two records for FGEN. -/
theorem witness_FaultEvents_merges : (∀ w ∈ [true, false], (Brings (faulting 2 0 (recorded w)) (packet (.fault 2 0 0x20000 9 0 0)) (.fault 2 0 0x20000 9 0 0)) ∧
      ((faulting 2 0 (recorded w)).fu.entry? 2 0 0 0x20000).isSome = true ∧ 0 = (faulting 2 0 (recorded w)).fu.gen.toNat ∧
      (∃ r ∈ (recorded w).records, r.written = w ∧ r.answered = false)) ∧
    ({ hostWrites 1 {} with ev := { flag := true } } : State).ev.flag = true ∧ (hostWrites 1 {}).ev.flag = false ∧
    (hostWrites 1 { recorded true with records := (recorded true).records ++ (recorded false).records }).fu.records.length = 2 :=
  ⟨by
    intro w hw
    simp only [List.mem_cons, List.not_mem_nil, or_false] at hw
    obtain rfl | rfl := hw <;> exact ⟨brings_of (by decide), by decide, by decide, by decide⟩, by decide, by decide, by decide⟩

theorem witness_InvalidationEvents_narrow : ({ invalidating 16 with ev := { flag := true } } : State).ev.flag = true ∧
    (invalidating 16).ev.flag = false ∧ withheld.specParts.map (fun p => p.task.tcb.toNat) = [placedTask.tcb.toNat] := by decide

/-- A context that is open and one that closes; a thread, a ready task and a store of it. -/
theorem witness_QueueEvents_kill : (∃ k, base.ctx? 0 = some k ∧ (∀ n m j, k.phase ≠ .closing n m j) ∧ k.savedCores = []) ∧
    (∃ k, closing.ctx? 0 = some k ∧ k.phase = .closing 2 29 0xFFFF) ∧ (∃ t, base.thread? 0 0 = some t ∧ t.ctx = 0) ∧
    ∃ p ∈ (buffering 1 0).net, p.kind = .store (.phys 0) 8 5 :=
  ⟨⟨_, rfl, fun _ _ _ => Phase.noConfusion, rfl⟩, ⟨_, rfl, rfl⟩, ⟨_, rfl, rfl⟩, by decide⟩
theorem witness_RegisterEvents_narrow : ({ staging 0 with ev := { flag := true } } : State).ev.flag = true ∧ (staging 0).ev.flag = false := by
  decide

theorem witness_RoundingModes_formats : (bf16, 8, 7) ∈ [(fp32, 8, 23), (bf16, 8, 7), (fp16, 5, 10)] ∧ (5 : Nat) ≤ 5 := by
  exact ⟨by simp, by decide⟩

/-- Operands of the lanes at their limits. -/
theorem witness_VectorLanes_limits :
    ((2, 5, 10) ∈ [(0, 8, 23), (1, 8, 7), (2, 5, 10)] ∧ (5 : Nat) ≤ 5) ∧ ((3 : Nat) < 4 ∧ (255 : Nat) < 256) ∧
    (0 < 4 ∧ (List.replicate 8 (0 : Nat)).length = 2 * 4) ∧ 2 ≤ (List.replicate 2 (0 : Nat)).length ∧
    (openRounding 6 5 = false ∧ openRounding 3 5 = true ∧ 3 < max (widthOf 3) (widthOf 0) / min (widthOf 3) (widthOf 0)) ∧
    (255 < 2 ^ widthOf 5 ∧ (List.replicate 18 (0 : Byte)).length = 18 ∧ (List.replicate 32 (0 : Nat)).length = 32) ∧
    e4m3.decode 127 = .nan false ∧ (4 : Int) ≤ 8 := by decide
/-- Values of an encoding: within the range, and beyond it. -/
theorem witness_VectorLanes_ranges : (let p : Int := 8 + (Nat.log2 1 : Int); ¬(8 < p) ∧ ¬(p = 8 ∧ 14 < (roundUnits .rne false 1 8 false 5).1)) ∧
    (8 : Int) < 9 + (Nat.log2 1 : Int) := by decide

/-- A row of two columns, with all ranks but the last filled and with none. -/
def putting (fills : List (Nat × BitVec 32)) : State := base.setCore 0 { base.core 0 with mx := { fills } }
theorem witness_MatrixValues_puts : let cfg : Word := 0x8000000000000000 ||| 2
    (putting []).localErrors = [] ∧ (fp32Value 0x3F800000) = .fin false (2 ^ 23) (-23) ∧ (0 : Nat) < 1 ∧ cfg ≠ 0 ∧
    ((putting []).core 0).mx.fill? 0 1 = none ∧ (((putting [(1, 0x3F800000)]).core 0).mx.fill? 0 1).isSome = true ∧
    2 * 1 ≤ (List.replicate 2 (0 : Byte)).length := by decide

/-- A command that crosses members occupies the unit; one of a pair has started. -/
def crossing : State := { base.setCore 0 { base.core 0 with
  vqueue := [command (.bcast 0 2)], vflight := [{ cmd := command (.perm 2 1 1), waits := true }] } with ev := {} }
theorem witness_VectorStarts_occupied : (crossing.core 0).vqueue = [command (.bcast 0 2)] ∧ (crossing.core 0).occupied = true ∧
    (crossing.core 0).vectorHazard (.bcast 0 2) = false ∧ (∀ op ∈ starting, ((vector op).core 0).occupied = false) ∧
    (crossing.joined 0 (command (.perm 2 1 1)) 0 = false) ∧
    ((crossing.core 0).flightOf (command (.perm 2 1 1)).serial).isSome = true := by decide
theorem witness_VectorResults_deferred : (∀ q ∈ [(true, false), (true, true), (false, true)],
      let s := (flying (some (.vector (.g 10 8 false) 1 9))).onThread 0 0 fun t => { t with vdpend := q.1, gpend := q.2 }
      (s.core 0).landable 0 flight = true ∧ (s.holder? 0 0 1).map (fun t => (t.waits, t.vdpend, t.gpend)) =
        some (some (.vector (.g 10 8 false) 1 9), q.1, q.2)) ∧
    ((guarded base).thread? 0 0).map (fun t => (t.gang, t.utvec.getLsbD 0)) = some (none, true) := by decide

/-- A cove that is powered off. -/
def dark (s : State) : State := s.setCove 0 { s.cove 0 with health := { state := .retired } }
theorem witness_MatrixStarts_off : (dark (matrix .swap none)).coveOff 0 = true ∧ (matrix .swap none).coveOff 0 = false := by decide

/-- A source whose second line the host holds exclusively. -/
theorem witness_CopyEvents_line : let s := { copying 0x20038 0x800 [(0, 2)] .none with hostCopies := [(1, true)] }
    let u := s.setCore 0 { s.core 0 with tlb := [{ ctx := 0, va := 0x20000, pa := 0, lg := 12, write := true, exec := true }] }
    u.copyTarget 0 0 0x20038 false = (some (.phys 0x38), u) ∧ u.copyTarget 0 0 0x800 true = (some (.local 0 0x800), u) ∧
    unitsOf 0x38 16 = [0] ++ 1 :: [] ∧ (∀ m ∈ [0], u.exclusive (64 * m) = false) ∧ u.exclusive (64 * 1) = true :=
  ⟨rfl, rfl, by decide, by decide, by decide⟩

/-- A thread that has issued, one that has entered its handler in place of the instruction, and none. -/
theorem witness_StepRunsInstruction_issue : (∃ t, base.holder? 0 0 (cur base).uid = some t ∧ t.hold = 0) ∧
    base.holder? 0 0 0 = none := ⟨⟨_, rfl, by decide⟩, by decide⟩
theorem witness_StepRunsInstruction_entry : let s := after .ecall (guarded base)
    ((s.holder? 0 0 (cur base).uid).map fun t => decide (t.hold ≠ 0)) = some true := by decide

/-- Cores that are sealed, frozen, and whose threads all wait; a wait whose cause has gone; a range that is being marked. -/
theorem witness_IdleCycles_cores :
    (((({ sealed_ with agenda := [.core 0] } : State).wakes 0 []).core 0).sealed = true) ∧
    ((({ preempted true with agenda := [.core 0] } : State).wakes 0 []).core 0).frozen = true ∧
    (((preempted true).wakes 0 []).core 0).sealed = false ∧
    ((parked (.counter 0 0) base).wakes 0 []).passedOver ((parked (.counter 0 0) base).core 0) 0 0 ∧
    Clocked ({ sealed_ with agenda := [.core 0] } : State) 0 [] ∧ (base.cove 0).health.state ≠ .retired ∧
    (dark base).coveOff 0 = true :=
  ⟨by decide, by decide, by decide, .inl (by decide), ⟨rfl, by decide, by decide⟩, by decide, by decide⟩
theorem witness_IdleCycles_review : (∃ t, (base.onThread 0 0 fun t => { t with park := .retry 14 }).thread? 0 0 = some t ∧ t.park = .retry 14) ∧
    (∃ t, base.thread? 0 0 = some t ∧ t.range = none) ∧
    (∃ t r, (base.onThread 0 0 fun t => { t with range := some { next := 0, left := 65, set := true } }).thread? 0 0 = some t ∧
      t.range = some r ∧ ¬r.left ≤ 64) ∧ (base.core 0).full.wf = true :=
  ⟨⟨_, rfl, rfl⟩, ⟨_, rfl, rfl⟩, ⟨_, _, rfl, rfl, by decide⟩, by decide⟩

/-! The clauses that spell a named operation: a value for each, at the boundaries where they meet. -/

/-- Context 0 with flags and 16 threads per core. -/
def flagged (flags : Byte) : State := base.setCtx 0 { record := { placedRecord with flags }, phase := .open }
/-- Core 1's offset, the last address of the core window, an address in no window. -/
def onCore1 (off : Nat) : Word := BitVec.ofNat 64 (0xFE00000000020000 + off)
def nowhere : Word := 0x8000000000000000

/-- A size, a slot and a place that allow a gang; a follower's slot that is held; a core that is sealed. -/
theorem witness_ThreadEffects_gang :
    ((2 : Word).toNat ∈ [2, 4, 8] ∧ (0 : Nat) % 8 % 2 = 0 ∧ 3 % 8 % 2 ≠ 0 ∧ (1 : Word).toNat ∉ [2, 4, 8] ∧ (cur base).gang = none) ∧
    ((base.ctx? 0).map fun k => k.record.tpc) = some 16 ∧ (∀ d, d < 2 → ¬(d % 8 = 7 ∧ d / 256 % 8 = 7)) ∧
    (1799 % 8 = 7 ∧ 1799 / 256 % 8 = 7) ∧
    ((base.slot 1 15).occ = .empty ∧ (base.core 1).sealed = false ∧ (sealed_.core 0).sealed = true ∧
      ((base.setSlot 1 15 { occ := .reserved 9 }).slot 1 15).occ ≠ .empty) ∧
    ((base.setSlot 0 15 { occ := .thread (cur base) }).thread? 0 15).isSome = true ∧
    (cur base).spec = none ∧ (∃ p, (cur (speculative 0)).spec = some 0 ∧ ((speculative 0).core 0).spec[0]? = some (some p)) :=
  ⟨by decide, by decide, by decide, by decide, by decide, by decide, by decide, _, by decide, rfl⟩

/-- The windows of an address at their edges: own store, another core's, a page, a hole; the speculative buffer's first byte. -/
theorem witness_CoreUnitEffects_windows :
    base.window 0 0 0x17FF8 = .store 0 0x17FF8 ∧ base.window 0 0 0x18000 = .translated ∧
    base.window 0 0 (onCore1 0x17FF8) = .store 1 0x17FF8 ∧ base.window 0 0 (onCore1 0x18000) = .nothing ∧
    base.window 0 0 nowhere = .nothing ∧ base.reachable 0 1 = true ∧ base.reachable 0 8 = false ∧
    ((flagged 1).specOff 0 0x17000 8 = true ∧ (flagged 1).specOff 0 0x16FF8 8 = false ∧ (flagged 0).specOff 0 0x17000 8 = false) ∧
    (0x18000 < 0x17FF8 + 16 ∧ 0x17FF8 + 8 ≤ 0x18000) := by decide
/-- The clauses of `feset` and `feclr`. -/
theorem witness_CoreUnitEffects_marks :
    ((1 : Word).toNat % 8 ≠ 0 ∧ (0x17FF8 : Word).toNat % 8 = 0) ∧ (2 ^ 17 ≤ (0x20000 : Word).toNat ∧ (0x1FFF8 : Word).toNat < 2 ^ 17) ∧
    base.feTrap (cur base) 0x900 0x20000 = some (4, 0x900) ∧ base.feTrap (cur base) 0x17FF8 8 = none ∧
    base.feTrap (cur base) 0x17FF8 16 = some (4, 0x17FF8) ∧ base.feTrap (cur base) (BitVec.ofNat 64 (0xFE00000000000000 + 8 * 2 ^ 17)) 8 =
      some (5, BitVec.ofNat 64 (0xFE00000000000000 + 8 * 2 ^ 17)) := by decide
/-- The clauses of a copy: a length of 2^32 and the one below it, a range that wraps, a destination below 0x800 and at it. -/
theorem witness_CoreUnitEffects_copies :
    (2 ^ 32 ≤ (0x100000000 : Word).toNat ∧ (0xFFFFFFF8 : Word).toNat < 2 ^ 32) ∧
    (base.window 0 0 0xFFFFFFFFFFFFFFF8 = .translated ∧ base.rangeTrap 0 0 0xFFFFFFFFFFFFFFF8 8 = none ∧
      base.rangeTrap 0 0 0xFFFFFFFFFFFFFFF8 16 = some (4, 0xFFFFFFFFFFFFFFF8)) ∧
    (base.rangeTrap 0 0 0x7F8 8 = none ∧ base.rangeTrap 0 0 0x800 8 = none ∧ base.rangeTrap 0 0 0x20000 8 = none) ∧
    base.copyTrap (cur base) .plain 0x7F8 0x20000 8 0 = some (6, 0x7F8) ∧ base.copyTrap (cur base) .plain 0x800 0x20000 8 0 = none ∧
    base.copyTrap (cur base) .fe 0x20000 0x800 8 0 = some (4, 0x20000) ∧ base.copyTrap (cur base) .tk 0x800 0x20000 8 0x900 = some (14, 0x900) ∧
    base.copyTrap (cur base) .tk 0x7F8 0x20000 0 0x20040 = none := by decide
/-- A TCB's address: misaligned, low, the last of the core window, a page's, a hole's. -/
theorem witness_CoreUnitEffects_tcb :
    (0x20041 : Word).toNat % 64 ≠ 0 ∧ (0x17FC0 : Word).toNat < 0x18000 ∧ ¬(0x18000 : Word).toNat < 0x18000 ∧
    (0xFE000001FFFFFFC0 : Word).toNat ≤ 0xFE000001FFFFFFFF ∧ base.window 0 0 0xFE000001FFFFFFC0 = .nothing ∧
    base.window 0 0 0x18000 = .translated ∧ ¬0xFE00000000000000 ≤ nowhere.toNat := by decide

/-- A counter with two waiters; a claim whose next lies above its total. -/
theorem witness_TaskEvents_waiters :
    (let s := ((parked (.counter 10 31) base).setSlot 0 1 { occ := .thread { cur base with uid := 2, park := .await 3 (.counter 11 31) } })
     (s.core 0).counterWaiters 31 = [(0, 10), (1, 11)]) ∧
    (let s := slice 4 3 3 1
     ((s.core 0).mem.load 0x908 8).toNat < ((s.core 0).mem.load 0x900 8).toNat) := by decide
/-- A group of which as many have arrived as it has members, fewer, and none; two that wait for it and one for another. -/
def group (members arrived : Nat) : State := { base.setCore 0 { base.core 0 with mem :=
    (((base.core 0).mem.save 0x900 4 (wide members)).save 0x904 4 (wide arrived)).save 0x908 8 6 } with
  barriers := [0x900, 0x900, 0xA00].map fun off => { target := .local 0 off, ctx := 0, core := 0, slot := 0, uid := 1 } }
theorem witness_TaskEvents_group :
    (∀ q ∈ [(0, 0), (2, 1), (2, 2)], (((group q.1 q.2).core 0).mem.load 0x900 4).toNat = q.1 ∧
      (((group q.1 q.2).core 0).mem.load 0x904 4).toNat = q.2) ∧
    ((group 2 2).barriers.filter fun w => w.target = .local 0 0x900).length = 2 ∧
    (let s := (group 2 2).checkGroup (.local 0 0x900)
     (((s.core 0).mem.load 0x904 4).toNat, ((s.core 0).mem.load 0x908 8).toNat, s.net.length, s.barriers.length)) = (0, 7, 2, 1) := by decide
/-- A group whose counts stand at their limits: a join at 2^32 - 1, a leave at 0 and at 1. -/
theorem witness_TaskEvents_members : (∀ op ∈ [GroupOp.join, .leave], let k : Kind := .group (.local 0 0x900) op 0x900
    ∀ n ∈ [0, 1, 0xFFFFFFFF], let s := bring k (group n 0)
      Brings s (packet k) k ∧ (s.core 0).sealed = false ∧ s.localErrors = [] ∧ ((s.core 0).mem.load 0x900 4).toNat = n) := by
  intro op ho
  simp only [List.mem_cons, List.not_mem_nil, or_false] at ho
  obtain rfl | rfl := ho <;> intro k n hn <;> simp only [List.mem_cons, List.not_mem_nil, or_false] at hn <;>
    obtain rfl | rfl | rfl := hn <;> exact ⟨brings_of (by decide), by decide, by decide, by decide⟩
/-- A successor whose page is absent, of a context that is alive and of one that is torn. -/
theorem witness_TaskEvents_absent : (∃ u, (finishing 1 0).own 0 nowhere false = (none, u) ∧ u.alive 0 = true) ∧
    (∃ u, ({ finishing 1 0 with ctxs := [] } : State).own 0 nowhere false = (none, u) ∧ u.alive 0 = false) :=
  ⟨⟨_, rfl, by decide⟩, ⟨_, rfl, by decide⟩⟩

/-- Messages of so many words at a ring of four entries with so many in it, disabled or not. -/
def lined (en : Bool) (count words : Nat) : State := base.setSlot 0 0 { (base.slot 0 0) with
  q := { rx := { en, base := 0x48, lg := 2, head := 3, count }, waiting := [
    { core := 1, slot := 0, uid := 9, header := 7, payload := List.replicate (words - 1) 1 }], request := some 16 } }
theorem witness_MessageEvents_words :
    (∀ q ∈ [(false, 0, 1), (true, 0, 5), (true, 0, 4), (true, 3, 1), (true, 3, 2)], let s := lined q.1 q.2.1 q.2.2
      ∃ m, (s.queuesOf 0 0).waiting = [m] ∧ (m.header :: m.payload).length = q.2.2 ∧ (s.queuesOf 0 0).rx.en = q.1 ∧
        (s.queuesOf 0 0).rx.count = q.2.1) ∧
    (2 ^ ((lined true 0 1).queuesOf 0 0).rx.lg.toNat = 4 ∧ 4 < 5 ∧ 3 + 1 ≤ 4 ∧ 4 < 3 + 2) ∧ (base.queuesOf 0 0).waiting = [] ∧
    ((piped true 0).queuesOf 0 0).up.count = 2 ∧ 2 ^ ((piped true 0).queuesOf 0 0).up.lg.toNat = 2 ∧
    ((base.onThread 0 0 fun t => { t with park := .retry 4 }).thread? 0 0).map (fun t => t.park) = some (.retry 4) ∧
    base.thread? 0 1 = none :=
  ⟨by
    intro q hq
    simp only [List.mem_cons, List.not_mem_nil, or_false] at hq
    obtain rfl | rfl | rfl | rfl | rfl := hq <;> exact ⟨_, rfl, by decide, by decide, by decide⟩,
   by decide, by decide, by decide, by decide, by decide, by decide⟩
theorem test_message_fills : (let s := (lined true 3 1).settleMessages 0 0
    ((s.queuesOf 0 0).rx.count, ((s.core 0).mem.load (0x48 * 32 + 8 * 2) 8).toNat, s.net.map fun p => p.kind)) =
      (4, 7, [.messageReply true]) := by decide
/-- A request that is held when the queue is enabled, for its TID and for another's; held ones, and a request of each requester. -/
theorem witness_MessageEvents_held : (∃ t, (lined true 0 1).cur? = some t) ∧ (lined true 0 1).queues.request = some 16 ∧
    ((0x8000400000000000 : Word).getLsbD 63 = true ∧ (0x8000000000000000 : Word).getLsbD 63 = true) ∧
    ((0x8000400000000000 : Word).toNat / 2 ^ 42 % 2 ^ 20 = 16 ∧ (0x8000000000000000 : Word).toNat / 2 ^ 42 % 2 ^ 20 ≠ 16) :=
  ⟨⟨_, rfl⟩, by decide, by decide, by decide⟩
theorem witness_MessageEvents_requests : (∀ from_ ∈ [16, 17], let s := bring (.creditRequest 0 from_) (lined true 0 1)
      Brings s (packet (.creditRequest 0 from_)) (.creditRequest 0 from_) ∧ (s.core 0).sealed = false ∧ (s.queuesOf 0 0).up.en = false ∧
        (s.queuesOf 0 0).request = some 16 ∧ s.away 0 0 = false) ∧
    (let s := bring (.creditRequest 0 16) sealed_
     Brings s (packet (.creditRequest 0 16)) (.creditRequest 0 16) ∧ (s.core 0).sealed = true) :=
  ⟨by
    intro n hn
    simp only [List.mem_cons, List.not_mem_nil, or_false] at hn
    obtain rfl | rfl := hn <;> exact ⟨brings_of (by decide), by decide, by decide, by decide, by decide⟩,
   brings_of (by decide), by decide⟩

/-- The ranges of a unit at the boundaries: alignment, the end of local store, the first words, the speculative buffer. -/
theorem witness_VectorStarts_ranges :
    (base.unitFault 0 0x901 32 32 true, base.unitFault 0 0x17FE0 32 32 true, base.unitFault 0 0x18000 32 32 true,
      base.unitFault 0 0x7E0 32 32 true, base.unitFault 0 0x7E0 32 32 false, base.unitFault 0 0x800 32 32 true) =
        (some 1, none, some 2, some 3, none, none) ∧
    ((flagged 1).unitFault 0 0x17000 32 32 false, (flagged 1).unitFault 0 0x16FE0 32 32 false, (flagged 0).unitFault 0 0x17000 32 32 false) =
        (some 4, none, none) := by decide
/-- The destination of a gather: its block, its alignment, the first words, the end of local store for four blocks. -/
theorem witness_VectorStarts_gathers :
    (base.gatherFault 0 0x800 0, base.gatherFault 0 0x800 12, base.gatherFault 0 0x800 4096, base.gatherFault 0 0x800 4104) =
      (some 5, some 5, none, some 5) ∧
    (base.gatherFault 0 0x801 8, base.gatherFault 0 0x7F8 8, base.gatherFault 0 0x17FE0 8, base.gatherFault 0 0x17FE8 8) =
      (some 1, some 3, none, some 2) ∧ (flagged 1).gatherFault 0 0x16FE8 8 = some 4 := by decide
/-- A thread in no gang with a fault already deferred, and without one; a gather behind its thread's own command. -/
theorem witness_VectorStarts_defers :
    ((command .qreset).gang = none ∧ (base.holder? 0 0 1).map (fun t => t.vdpend) = some false ∧
      ((base.onThread 0 0 fun t => { t with vdpend := true }).holder? 0 0 1).map (fun t => t.vdpend) = some true) ∧
    ({ vflight := [flight] } : Core).gatherWaits (command (.blocks [])) = true ∧
    ({ vflight := [{ cmd := command (.blocks []) }] } : Core).gatherWaits (command (.blocks [])) = false ∧
    ({ vflight := [flight] } : Core).gatherWaits (command .qreset) = false := by decide
/-- A unit's result behind an earlier command of its thread, and behind none. -/
theorem witness_VectorResults_order :
    (let k : Kind := .sfuResult 0 0 { command .qreset with serial := 4 }
     let f : VFlight := { cmd := { command .qreset with serial := 4 } }
     let s := bring k (base.setCore 0 { base.core 0 with vflight := [flight, f] })
     Brings s (packet k) k ∧ (s.core 0).vflight = [flight] ++ f :: [] ∧ flight.cmd.serial ≠ 4 ∧
       (flight.cmd.uid = 1 ∧ flight.cmd.op.isGather = false)) :=
  ⟨brings_of (by decide), by decide, by decide, by decide⟩
/-- A plane of another format, and one of the format; the lower of two faults. -/
theorem witness_MatrixStarts_faults :
    base.matrixFault 0 (mcommand (.mma 0 0 0 0x800 1 0) false) = some 6 ∧
    (base.setCore 0 { base.core 0 with mx := { loActive := { tag := some 0 } } }).matrixFault 0 (mcommand (.mma 0 0 0 0x800 1 0) false) = none ∧
    base.matrixFault 0 (mcommand (.topk 32 false 0 8 0x7E0 0x18000) false) = some 2 ∧
    base.matrixFault 0 (mcommand (.snap 0x7E0) false) = some 3 ∧ base.matrixFault 0 (mcommand (.ldw 0 0x901) false) = some 1 ∧
    ((mcommand .swap false).gang = none ∧ (mcommand .swap false).remote = none ∧
      (base.holder? 0 0 1).map (fun t => t.mdpend) = some false) := by decide

/-- An access that waits for an entry, one whose page is absent and that keeps its place; homes of a page; a part that holds a word. -/
theorem witness_TranslationEvents_places :
    (let s := { missing (.store 8 1) base with net := (buffering 16 0).net }
     (packet (.tlbMiss 0x20008 (.store 8 1))).kind = .tlbMiss 0x20008 (.store 8 1) ∧
       s.entryWaits (packet (.tlbMiss 0x20008 (.store 8 1))) (cur s) (.store 8 1) 0x20008 = true) ∧
    (let s := bring (.tlbMiss 0x20008 .fetch) (parked (.fault .fetch 0x20008) base)
     Brings s (packet (.tlbMiss 0x20008 .fetch)) (.tlbMiss 0x20008 .fetch) ∧
       (s.sender? (packet (.tlbMiss 0x20008 .fetch))).map (fun t => t.park) = some (.await 3 (.fault .fetch 0x20008))) ∧
    (peerPaged.isPeer 0 = true ∧ base.isPeer 0 = false) ∧ (base.home 0 = none ∧ ((dram 0).home 0).isSome = true) ∧
    ((specBytes ((speculative 0).specWords 0 (cur (speculative 0))) (.phys 0) 8).all Option.isSome = false ∧
      (specBytes [({ commitWord_ with target := .phys 0, mask := 0xFF } : SpecWord)] (.phys 0) 8).all Option.isSome = true) :=
  ⟨⟨rfl, by decide⟩, ⟨brings_of (by decide), by decide⟩, by decide, by decide, by decide⟩

/-- A ring that is disabled, full, and with room; a record and an error that wait. -/
def logging (lg : Nat) (head : BitVec 16) (fu : FaultUnit) : State := { base with fu := { fu with base := BitVec.ofNat 64 lg, head } }
theorem witness_FaultEvents_ring :
    ((logging 0 0 {}).fu.base.toNat % 2 ^ 5 = 0 ∧ (logging 6 1 {}).fu.base.toNat % 2 ^ 5 = 6 ∧
      ((logging 6 1 {}).fu.tailIdx + 1) % 2 ^ 6 = (logging 6 1 {}).fu.head.toNat % 2 ^ 6 ∧
      ((logging 6 0 {}).fu.tailIdx + 1) % 2 ^ 6 ≠ (logging 6 0 {}).fu.head.toNat % 2 ^ 6) ∧
    (∃ r, (recorded false).records = [] ++ r :: [] ∧ r.written = false) ∧
    (∀ q ∈ (recorded true).records, q.written = true) ∧
    (let fu : FaultUnit := { errors := [{ ctx := 0, addr := 8, event := 1, cls := 0, unit := 0, kind := 4 }] }
     fu.records = [] ∧ fu.errors.map (fun e => e.kind) = [4]) ∧
    ((signalled.thread? 0 0).map fun t => (t.pend.first.isSome, t.handler)) = some (true, false) :=
  ⟨by decide, ⟨_, rfl, rfl⟩, by decide, by decide, by decide⟩

/-- A context with a core that a pre-emption has saved. -/
theorem witness_InvalidationEvents_saved : (let v : SavedCore := { whole := true, core := base.core 0, bytes := [], full := [] }
    let k : Ctx := { record := placedRecord, savedCores := [(0, v)] }
    (base.setCtx 0 k).ctx? 0 = some k ∧ (0, v) ∈ k.savedCores) ∧ ∃ t, ((base.core 0).slot 0).occ = .thread t :=
  ⟨⟨rfl, List.mem_singleton.2 rfl⟩, _, rfl⟩

/-- A record that is sound, and the same with one field of each kind beyond its limit. -/
theorem witness_LaunchEvents_limits : (tables base).recordSound (launchRecord 23) = true ∧
    (∀ q ∈ ([(9, 4), (11, 8), (13, 17), (64, 1), (97, 17), (128, 0)] : List (Nat × Byte)),
      (tables base).recordSound ((launchRecord 23).set q.1 q.2) = (q == (64, 1))) ∧
    base.recordSound (launchRecord 23) = false ∧ format.isValid = true ∧ ({} : PtFormat).isValid = false := by
  decide
theorem witness_LaunchEvents_maps : mapFits false 0x8040A080 ∧ ¬mapFits true 0x8040A080 ∧ (0x8040A080 : Word).getLsbD 31 = true := by
  unfold mapFits
  decide
theorem witness_LaunchEvents_image : ([0, 0, 0] : List Nat)[2]? = some 0 ∧ (128 : Nat) < 0x800 ∧ 0x17FFF < 0x18000 ∧
    8 * 0x901 < 0x4800 + min 9 0x13800 ∧ ¬8 * 0x902 < 0x4800 + min 9 0x13800 := by decide

/-- A full vector queue behind a port that is disabled: both would stop it. -/
theorem witness_VectorIssue_full : let s := (piped false 1).setCore 0 { (piped false 1).core 0 with vqueue := List.replicate 8 (command .qreset) }
    s.portWait [28, 11] 0 = none ∧ s.readTrap [28, 11] = some (10, 28) ∧ s.here.vqueue.length = 8 := by decide
/-- A cove whose number is the first and the last; the part's power off. -/
theorem witness_WatchEvents_cycles : (1023 < 1024 ∧ 1024 ≤ 1024) ∧ ({ base with powered := false } : State).powered = false ∧
    (∀ q ∈ base.cores, coveOf q.1 ≠ 1) ∧ (∃ q ∈ base.cores, coveOf q.1 = 0) ∧
    (∃ q ∈ (base.clocked 0).head.cycles, coveOf q.1 = 0 ∧ q.2 = 1) := by decide

/-! Forms and places that the statements of this sitting take in. -/

/-- A comparison whose result goes into the downstream queue, for which a credit is there. -/
theorem witness_FloatResults_ports : ∃ r, floatIntRow (.feqS 30 1 2) = some r ∧ r.mode (cur (piped true 1)) = some 0 ∧
    Issues (piped true 1) (cur (piped true 1)) [] r.rd false ∧ r.rd = 30 :=
  ⟨_, rfl, by decide, issues_of (by decide), rfl⟩

/-- A speculative ordered task with words in its buffer, before a page that the TLB has. -/
def speculating (words : List SpecWord) (a : Word) : State :=
  let s := speculative a
  s.setCore 0 { s.core 0 with
    tlb := [{ ctx := 0, va := 0x20000, pa := 0, lg := 12, write := true, exec := true }]
    spec := (s.core 0).spec.setIfInBounds 0 (some { task := placedTask, uid := (cur s).uid, words }) }
/-- A word that the task has stored at the start of that page. -/
def heldWord : SpecWord := { va := 0x20000, target := .phys 0, mask := 0xFF, data := 7 }
/-- A store of n bytes there in flight. -/
def storing (n : Nat) : State := (speculating [] 0x20000).send
  { id := 0, ctx := 0, core := 0, slot := 0, uid := 1, buffered := true, kind := .store (.phys 0) n 5 }
/-- The load's bytes all buffered, none buffered, overlapped by a store in flight that lies below them or ends before they do; a page
that the TLB lacks; a commit of the cove under way to the word. -/
theorem witness_RemoteLoads_speculative : ∃ r, loadRow (.ld 10 11 0) = some r ∧
    (∀ ws ∈ [[heldWord], []], let s := speculating ws 0x20000
      Retires s (cur s) ∧ plainReg r.base = true ∧ plainReg r.write = true ∧ (cur s).spec.isSome = true ∧
      Reaches s (cur s) (r.address s (cur s)) r.n false (.phys 0) ∧ (s.commitsBefore 0 (cur s) (.phys 0) r.n).isEmpty = true ∧
      s.forward 0 (.phys 0) r.n = .none ∧ decide (∀ k, k < r.n → (specByte (s.specWords 0 (cur s)) ((Target.phys 0).plus k)).isSome = true) =
        decide (ws ≠ [])) ∧
    (∀ n ∈ [4, 8], (storing n).forward 0 (.phys 0) r.n = if n = 4 then .wait else .value 2 5) ∧
    (let s := speculating [] 0x30000
     Misses s (cur s) (r.address s (cur s)) r.n false) ∧
    (let s := ((speculating [] 0x20000).onThread 0 0 fun t => { t with task := { t.task with flags := 1 } }).send
       (partPacket 0 1 0 (.commit heldWord))
     (s.commitsBefore 0 (cur s) (.phys 0) 8).isEmpty = false) ∧
    (∃ p, ((speculating [] 0x20000).core 0).spec[0]? = some (some p)) :=
  ⟨_, rfl, by
    intro ws hw
    simp only [List.mem_cons, List.not_mem_nil, or_false] at hw
    obtain rfl | rfl := hw <;>
      exact ⟨retires_of (by decide), by decide, by decide, by decide, reaches_of (by decide), by decide, by decide, by decide⟩,
   by decide, misses_of (by decide), by decide, ⟨_, rfl⟩⟩

/-- A wait for a vector result that nothing has answered, and one that a reply has. -/
theorem witness_TrapEntry_waits : (∃ t, (parked (.vector (.g 10 8 false) 1 9) base).thread? 0 0 = some t ∧ t.handler = false ∧
      t.park = .await 3 (.vector (.g 10 8 false) 1 9) ∧ (parked (.vector (.g 10 8 false) 1 9) base).answered t.uid = false) ∧
    (∀ k ∈ [Kind.reply (.value 5), .reply (.claim 1 2 1), .messageReply true, .remoteFe 1 64 1 true 0 true], (bring k base).answered 1 = true) ∧
    (∀ k ∈ [Kind.reply (.trap 13 0), .reply (.data 5), .messageReply false], (bring k base).answered 1 = false) :=
  ⟨⟨_, rfl, by decide, by decide, by decide⟩, by decide, by decide⟩

/-- A value that comes back to a speculative task, from physical memory and from another core. -/
theorem witness_DataEvents_speculative :
    (let k : Kind := .load 0 8 0x20000
     let s := parked (.data (.g 10 8 false)) (bring k ({ speculating [heldWord] 0x20000 with hdmNear := some 0, crt := (dram 0).crt }))
     ∃ t, Brings s (packet k) k ∧ s.exclusive 0 = false ∧ s.sender? (packet k) = some t ∧ t.spec = some 0 ∧
       t.park = .await 3 (.data (.g 10 8 false)) ∧ (s.checkPhys 0 0 0 8 0x20000).1 = .ok) ∧
    (let k : Kind := .remoteLoad 1 0x900 8 0
     let s := bring k (speculating [heldWord] 0x20000)
     ∃ t, Brings s (packet k) k ∧ s.sender? (packet k) = some t ∧ t.spec = some 0 ∧ (s.core 1).sealed = false ∧ s.localError 1 0x900 8 = none) ∧
    (let k : Kind := .reply (.data 5)
     Brings (bring k base) (packet k) k) :=
  ⟨⟨_, brings_of (by decide), by decide, rfl, by decide, by decide, by decide⟩,
   ⟨_, brings_of (by decide), rfl, by decide, by decide, by decide⟩, brings_of (by decide)⟩

/-- A compare-and-swap that finds another value than it expects. -/
def failing : Atomic := { op := .cas, n := 8, scope := 2, b := 1, e := 9, dest := .g 10 8 true }
/-- A word of a commit whose home is physical memory, of all its bytes, at a page of notifications or not; a cas that fails there. -/
theorem witness_MemoryEvents_phys :
    (let w : SpecWord := { va := 0x20008, target := .phys 8, mask := 0xFF, data := 1 }
     ∀ s ∈ [bring (.commit w) (dram 0), bring (.commit w) notifying], Brings s (packet (.commit w)) (.commit w) ∧ 8 % 8 = 0) ∧
    (notifying.notify? 8).isSome = true ∧ (dram 0).notify? 8 = none ∧ (dram 0).errors = [] ∧ (dram 0).isStray 8 = false ∧
    (dram 0).isStray 0x200000 = true ∧
    (let k : Kind := .atomic (.phys 8) failing 0x20008
     let s := bring k (dram 0)
     Brings s (packet k) k ∧ s.notify? 8 = none ∧ s.atomicNeeds 8 failing = none ∧ s.leftOver 8 = none ∧ failing.dest ≠ .none ∧
       s.checkPhys 0 0 8 8 0x20008 3 = (.ok, s) ∧ failing.result (s.phys.load 8 8) = none) :=
  ⟨by
    intro w s hs
    simp only [List.mem_cons, List.not_mem_nil, or_false] at hs
    obtain rfl | rfl := hs <;> exact ⟨brings_of (by decide), by decide⟩,
   by decide, by decide, by decide, by decide, by decide,
   brings_of (by decide), by decide, by decide, by decide, by decide, Prod.ext (by decide) rfl, by decide⟩

/-- An add to a counter of a core that is sealed, and of one whose cove is retired. -/
theorem witness_TaskEvents_counters : ∀ s ∈ [bring (.counter 0 31 1) sealed_, bring (.counter 0 31 1) (dark base)],
    Brings s (packet (.counter 0 31 1)) (.counter 0 31 1) ∧ ((s.core 0).sealed = true ∨ (s.cove (coveOf 0)).health.state = .retired) := by
  intro s hs
  simp only [List.mem_cons, List.not_mem_nil, or_false] at hs
  obtain rfl | rfl := hs <;> exact ⟨brings_of (by decide), by decide⟩

/-- The context vacated from core 0, to which a packet comes; and, once it is back, a packet behind one that has waited there. -/
def vacatedFrom (s : State) : State := s.setCtx 0 { record := placedRecord, phase := .open, savedCores := [(0, (base.core 0).save
  { record := placedRecord })] }
theorem witness_MessageEvents_router : let k : Kind := .reply (.value 5)
    (let s := vacatedFrom (bring k base)
     s.packet? s.ev.n = some (packet k) ∧ s.clear (packet k).after = true ∧ s.keeps (packet k) = true ∧ (s.putOff (packet k)).net.map
       (fun q => q.held) = [some s.tick]) ∧
    (let s := { bring k base with net := [packet k, { packet k with id := 6, held := some 3 }] }
     s.packet? s.ev.n = some (packet k) ∧ s.keeps (packet k) = false ∧ s.inTurn (packet k) = false) ∧
    (bring k base).keeps (packet k) = false ∧ (bring k base).inTurn (packet k) = true := by decide

/-- A victim that the context's record does not grant, from which the ring goes on. -/
theorem witness_SchedulingEvents_victim : 5 ∉ ([0, 1] : List Nat) ∧ NextCove [0, 1] 5 1 0 :=
  ⟨by decide, ⟨1019, by decide, by decide, by decide, by decide, by decide, by decide⟩⟩

/-- A remote command to a queue that is full; an item of a rotation of a kind that the buffer holds, and one for a sealed core. -/
theorem witness_MatrixStarts_waits :
    (let k : Kind := .command 0 false 1 (mcommand .swap false) true
     let s := bring k (base.setCore 0 { base.core 0 with mcap := 1, mx := { loQueue := List.replicate 8 (mcommand .swap false) } })
     Brings s (packet k) k ∧ (s.core 0).refusesCommand 1 true = false ∧ s.coveOff 0 = false ∧ 8 ≤ ((s.core 0).mx.queue false).length) ∧
    (let k : Kind := .rotation 0 (.tile 0 [])
     ∀ s ∈ [bring k (base.setCore 0 { base.core 0 with mx := { rot := [.tile 1 []] } }), bring k sealed_], Brings s (packet k) k ∧
       ((s.core 0).sealed = true ∨ (s.core 0).mx.run = none ∧ (s.core 0).mx.rot.all (fun j => !j.sameKind (.tile 0 [])) = false)) :=
  ⟨⟨brings_of (by decide), by decide, by decide, by decide⟩, by
    intro k s hs
    simp only [List.mem_cons, List.not_mem_nil, or_false] at hs
    obtain rfl | rfl := hs <;> exact ⟨brings_of (by decide), by decide⟩⟩

/-- A remote command in execution, with a signal and without. -/
def executingRemote (signal : BitVec 32) : State := { base.setCore 0 { base.core 0 with
  mx := { run := some { cmd := { mcommand .swap false with remote := some { sender := 1, signal } } } } } with ev := {} }
theorem witness_MatrixCompletes_remote : (∀ g : BitVec 32, ∃ r, ((executingRemote g).core 0).mx.run = some r ∧ r.needTile = false ∧
      r.cmd.remote = some { sender := 1, signal := g }) ∧
    ((0x80000025 : BitVec 32).getLsbD 31 = true ∧ (0x25 : BitVec 32).getLsbD 31 = false) :=
  ⟨fun _ => ⟨_, rfl, rfl, rfl⟩, by decide⟩
theorem test_remote_signal : (base.signalRemote 0 { mcommand .swap false with remote := some { sender := 1, signal := 0x80000025 } }).net.map
    (fun p => p.kind) = [.counter 1 5 1] := by decide

/-- Copies from translated memory into the core, and to translated memory from a core: sound, of a core that is sealed, and of one
from which the context is vacated. -/
def copyPage (src dst : Word) (s : State) : State :=
  let u := copying src dst [(0, 2)] .none
  { s with ptfmt := u.ptfmt, ev := u.ev }.setCore 0 { u.core 0 with
    tlb := [{ ctx := 0, va := 0x20000, pa := 0, lg := 12, write := true, exec := true }] }
theorem witness_CopyEvents_places :
    (let s := copyPage 0x20000 0x800 (dram 0)
     ∃ r, (s.core 0).copying = some r ∧ r.fault = none ∧ r.todo ≠ [] ∧ s.copyTarget 0 0 0x20000 false = (some (.phys 0), s) ∧
       s.copyTarget 0 0 0x800 true = (some (.local 0 0x800), s) ∧ (∀ l ∈ unitsOf 0 16, s.exclusive (64 * l) = false) ∧
       s.copySealed (.phys 0) = false ∧ s.copySealed (.local 0 0x800) = false ∧ s.copyAway 0 (.phys 0) = false ∧
       s.checkSource 0 0 (.phys 0) 16 0x20000 (r.untouched 0) = ([], s)) ∧
    (let s := vacatedFrom (copyPage 0x20000 0x800 (dram 0))
     s.copyAway 0 (.local 0 0x800) = true) ∧
    (let s := copyPage 0x20000 0xFE00000000020800 sealed_
     s.copySealed (.local 0 0x800) = false ∧ (s.setCore 1 { status := .contained }).copySealed (.local 1 0x800) = true) ∧
    (∃ t, (copyPage 0x20000 0x800 (dram 0)).holder? 0 0 1 = some t) :=
  ⟨⟨_, rfl, rfl, by decide, by decide, by decide, by decide, by decide, by decide, by decide, by decide⟩, by decide, by decide, ⟨_, rfl⟩⟩
/-- A source word that carries poison, to a destination of class N and to one of another class. -/
theorem witness_CopyEvents_lost : (∀ n ∈ [0, 2], let s := { copyPage 0x900 0x20000 (dram n) with localErrors := [(0, 0x121, .uncorrectable)] }
      (s.checkSource 0 0 (.local 0 0x900) 16 0x900 true).1 = [1] ∧ ((s.checkSource 0 0 (.local 0 0x900) 16 0x900 true).2.core 0).copying.isSome =
        true ∧ decide ((s.checkSource 0 0 (.local 0 0x900) 16 0x900 true).2.classAt (0 + 8 * 1) = 2) = decide (n = 2)) ∧
    (([0x120, 0x121] : List Nat)[1]? = some 0x121 ∧ 0x121 ∉ ([0x120, 0x121] : List Nat).take 1) := by decide
/-- Bytes within a unit and across the start of the next; words of a line in memory with an error and without. -/
theorem witness_CopyEvents_units : ((dram 0).notify? 0x38 = none ∧ 0x38 % 64 + 8 ≤ 64 ∧ 0x38 % 64 + 8 = 64) ∧
    (dram 0).isStray 0x38 = false ∧ (dram 0).errors = [] ∧ (0x38 % 8 = 0 ∧ 0x38 % 64 + 8 * 1 ≤ 64) ∧ (dram 0).localErrors = [] ∧
    (dram 0).alive 0 = true := by decide
/-- R85, R187: two words written across two units that are both in error are two events. -/
theorem test_copy_units : let s : State := { copyPage 0x900 0x20038 (dram 0) with errors := [(0, .uncorrectable), (1, .uncorrectable)] }
    ([16, 8].map fun n => ((s.writeUnits 0 0 0x38 (List.replicate n 1) 0x20038).ctx? 0).map fun k => 0xFFFFFFFF - k.ebud) = [some 2, some 1] := by decide

/-- A teardown whose last record finds no page; a record that comes alone; a fault in flight when its context is freed. -/
theorem witness_QueueEvents_waits : (∃ k, closing.ctx? closing.ev.n = some k ∧ k.phase = .closing 2 29 0xFFFF ∧ closing.drained closing.ev.n k = true ∧
      k.records = []) ∧
    (∃ k', (closing.record 0 { tcb := 0, status := 6, cause := 29, unit := 0xFFFF, kind := 2 }).ctx? 0 = some k' ∧ k'.records ≠ []) ∧
    packet (.fault 0 0 0x20000 9 0 0) ∈ (bring (.fault 0 0 0x20000 9 0 0) closing).net ∧
    packet (.faultReply 0x20000 true) ∈ (bring (.faultReply 0x20000 true) closing).net :=
  ⟨⟨_, rfl, rfl, by decide, rfl⟩, ⟨_, rfl, by decide⟩, by decide, by decide⟩

/-- R182: two ranges in progress, the one in slot 3 issued first. -/
def ranging : State :=
  let at_ (n : Nat) : Thread := { cur base with range := some { next := 0, left := 65, set := n = 1, issued := n } }
  base.setCore 0 { base.core 0 with slots := ((base.core 0).slots.setIfInBounds 1 { occ := .thread (at_ 2) }).setIfInBounds 3 { occ := .thread (at_ 1) } }
theorem test_range_order : (ranging.core 0).rangeSlots = [3, 1] ∧ ((ranging.aged 0).core 0).isFull 0 = false := by decide
theorem witness_IdleCycles_engaged : ((ranging.core 0).slot 1).engaged = true ∧ ((ranging.core 0).slot 2).engaged = false ∧
    ((base.core 0).slot 1).occ = .empty ∧ (ranging.core 0).full.wf = true := by decide
/-- R173: `gang` has its result 16 cycles on. -/
theorem test_gang_gap : issueGap (.gang 10 0) = 16 := by decide

end Sys2Proof.Tests
end

section
/-! Vector registers lane by lane, and modular arithmetic on exact integers (R105, R117, R118, R206, R207). -/

namespace Sys2Proof.Machine

/-! ## Registers made of elements (R193) -/

theorem testBit_elem (v : VReg) (w i j : Nat) :
    (elem v w i).testBit j = (decide (j < w) && v.getLsbD (w * i + j)) := by
  rw [elem, bits, BitVec.testBit_toNat, BitVec.getLsbD_extractLsb']

theorem getElem?_upFrom {first n i : Nat} (hi : i < n) : (upFrom first n)[i]? = some (first + i) := by
  induction n generalizing first i with
  | zero => omega
  | succ n ih =>
    cases i with
    | zero => simp [upFrom]
    | succ i =>
      rw [upFrom, List.getElem?_cons_succ, ih (by omega)]
      congr 1
      omega

/-- An element of a register made of elements is the one put there, cut to the width. -/
theorem elem_ofElems {w i : Nat} (xs : List Nat) (hi : w * (i + 1) ≤ 256) :
    elem (ofElems w xs) w i = (xs[i]?).getD 0 % 2 ^ w := by
  refine Nat.eq_of_testBit_eq fun j => ?_
  rw [testBit_elem, Nat.testBit_mod_two_pow]
  by_cases hj : j < w
  swap
  · simp [hj]
  have hfit : w * i + j < 256 := by rw [Nat.mul_succ] at hi; omega
  simp only [hj, decide_true, Bool.true_and]
  induction xs generalizing i with
  | nil => simp [ofElems]
  | cons e rest ih =>
    rw [ofElems, BitVec.getLsbD_or, BitVec.getLsbD_ofNat, BitVec.getLsbD_shiftLeft, Nat.testBit_mod_two_pow]
    cases i with
    | zero => simp [hj, show j < 256 by omega]
    | succ i =>
      have hsucc : w * (i + 1) = w * i + w := Nat.mul_succ w i
      have hpast : ¬ w * (i + 1) + j < w := by omega
      have hback : w * (i + 1) + j - w = w * i + j := by omega
      rw [Nat.mul_succ] at hi
      rw [hback, ih (by omega) (by omega)]
      simp [hpast, hfit]

theorem toNat_laneOf (v : VReg) (l : Nat) : (laneOf v l).toNat = elem v 64 l := rfl

theorem laneOf_mapLanes (f : Nat → Word) {l : Nat} (hl : l < 4) : laneOf (mapLanes f) l = f l := by
  apply BitVec.eq_of_toNat_eq
  rw [toNat_laneOf, mapLanes, elem_ofElems _ (by omega), List.getElem?_map, getElem?_upFrom hl, Nat.zero_add]
  exact Nat.mod_eq_of_lt (f l).isLt

theorem laneOf_modularRegs (op : Nat) (m : Moduli) (a b : VReg) {l : Nat} (hl : l < 4) :
    laneOf (modularRegs op m a b) l =
      if op = 3 then montgomery (m.qAt l) (m.muAt l) (laneOf a l) (laneOf b l)
      else modular op (m.qAt l) (laneOf a l) (laneOf b l) :=
  laneOf_mapLanes _ hl

theorem laneOf_butterflyRegs_fst (inverse : Bool) (m : Moduli) (x y w : VReg) {l : Nat} (hl : l < 4) :
    laneOf (butterflyRegs inverse m x y w).1 l =
      (butterfly inverse (m.qAt l) (laneOf x l) (laneOf y l) (laneOf w l)).1 :=
  laneOf_mapLanes _ hl

theorem laneOf_butterflyRegs_snd (inverse : Bool) (m : Moduli) (x y w : VReg) {l : Nat} (hl : l < 4) :
    laneOf (butterflyRegs inverse m x y w).2 l =
      (butterfly inverse (m.qAt l) (laneOf x l) (laneOf y l) (laneOf w l)).2 :=
  laneOf_mapLanes _ hl

/-! ## An invalid modulus (R117) -/

section Invalid
variable {q : Word} (h : validModulus q = false)
include h

theorem modular_of_invalid (op : Nat) (a b : Word) : modular op q a b = 0 := by
  simp [modular, h]

theorem montgomery_of_invalid (mu a b : Word) : montgomery q mu a b = 0 := by
  simp [montgomery, h]

theorem butterfly_of_invalid (inverse : Bool) (x y w : Word) : butterfly inverse q x y w = (0, 0) := by
  cases inverse <;> simp [butterfly, modular_of_invalid h]

end Invalid

/-! ## A valid modulus: the residues of R117 and R207 -/

/-- R105. -/
theorem validModulus_bounds {q : Word} (h : validModulus q = true) : 3 ≤ q.toNat ∧ q.toNat < 2 ^ 62 := by
  simp only [validModulus, Bool.and_eq_true, decide_eq_true_eq] at h
  obtain ⟨⟨-, hlow⟩, hhigh⟩ := h
  exact ⟨hlow, hhigh⟩

section Valid
variable {q : Word} (h : validModulus q = true)
include h

/-- A residue of a valid modulus fits a lane. -/
theorem toNat_ofNat_mod_of_valid (n : Nat) : (BitVec.ofNat 64 (n % q.toNat)).toNat = n % q.toNat := by
  obtain ⟨hlow, hhigh⟩ := validModulus_bounds h
  have hlt : n % q.toNat < q.toNat := Nat.mod_lt _ (by omega)
  rw [BitVec.toNat_ofNat, Nat.mod_eq_of_lt (by omega)]

theorem toNat_modular_add (a b : Word) : (modular 0 q a b).toNat = (a.toNat + b.toNat) % q.toNat := by
  simp only [modular, h, Bool.not_true, Bool.false_eq_true, if_false, toNat_ofNat_mod_of_valid h, ← Nat.add_mod]

theorem toNat_modular_sub (a b : Word) :
    ((modular 1 q a b).toNat : Int) = ((a.toNat : Int) - b.toNat) % q.toNat := by
  have hlt : b.toNat % q.toNat < q.toNat := Nat.mod_lt _ (by have := validModulus_bounds h; omega)
  simp only [modular, h, Bool.not_true, Bool.false_eq_true, if_false, toNat_ofNat_mod_of_valid h]
  push_cast [Nat.cast_sub hlt.le]
  calc ((a.toNat : Int) % q.toNat + (q.toNat - b.toNat % q.toNat)) % q.toNat
      = ((a.toNat : Int) % q.toNat - b.toNat % q.toNat + q.toNat) % q.toNat := by congr 1; ring
    _ = ((a.toNat : Int) - b.toNat) % q.toNat := by rw [Int.add_emod_right, ← Int.sub_emod]

theorem toNat_modular_mul (a b : Word) : (modular 2 q a b).toNat = a.toNat * b.toNat % q.toNat := by
  simp only [modular, h, Bool.not_true, Bool.false_eq_true, if_false, toNat_ofNat_mod_of_valid h]

theorem toNat_butterfly_fst (x y w : Word) :
    (butterfly false q x y w).1.toNat = (x.toNat + w.toNat * y.toNat) % q.toNat := by
  simp only [butterfly, Bool.false_eq_true, if_false, toNat_modular_add h, toNat_modular_mul h, Nat.add_mod_mod]

theorem toNat_butterfly_snd (x y w : Word) :
    ((butterfly false q x y w).2.toNat : Int) = ((x.toNat : Int) - w.toNat * y.toNat) % q.toNat := by
  simp only [butterfly, Bool.false_eq_true, if_false, toNat_modular_sub h, toNat_modular_mul h]
  push_cast
  exact Int.sub_emod_emod ..

theorem toNat_butterfly_inverse_fst (x y w : Word) :
    (butterfly true q x y w).1.toNat = (x.toNat + y.toNat) % q.toNat :=
  toNat_modular_add h x y

theorem toNat_butterfly_inverse_snd (x y w : Word) :
    ((butterfly true q x y w).2.toNat : Int) = ((x.toNat : Int) - y.toNat) * w.toNat % q.toNat := by
  simp only [butterfly, if_true, toNat_modular_mul h]
  push_cast
  rw [toNat_modular_sub h]
  exact (Int.mod_modEq _ _).mul_right _

/-- R118: the algorithm, whatever VMU holds. -/
theorem toNat_montgomery (mu a b : Word) {u : Nat}
    (hu : u = (a.toNat * b.toNat + a.toNat * b.toNat % 2 ^ 64 * mu.toNat % 2 ^ 64 * q.toNat) / 2 ^ 64) :
    (montgomery q mu a b).toNat = (if q.toNat ≤ u then u - q.toNat else u) % 2 ^ 64 := by
  subst hu
  simp only [montgomery, h, Bool.not_true, Bool.false_eq_true, if_false, BitVec.toNat_ofNat]

end Valid

/-! ## Montgomery's reduction (R118): exact where VMU is −q⁻¹ modulo the radix -/

/-- The multiple of `q` that is added clears the low digit, so the division is exact. -/
theorem dvd_add_reducer_mul {radix q mu : Nat} (hmu : (mu * q + 1) % radix = 0) (t : Nat) :
    radix ∣ t + t % radix * mu % radix * q := by
  have hm : t % radix * mu % radix ≡ t * mu [MOD radix] :=
    (Nat.mod_modEq _ _).trans ((Nat.mod_modEq t radix).mul_right mu)
  have ht : t + t % radix * mu % radix * q ≡ t * (mu * q + 1) [MOD radix] := by
    have := (hm.mul_right q).add_left t
    rwa [show t + t * mu * q = t * (mu * q + 1) by ring] at this
  exact (ht.dvd_iff dvd_rfl).2 (Dvd.dvd.mul_left (Nat.dvd_of_mod_eq_zero hmu) t)

/-- One conditional subtraction reduces a value below `2 * q`, and keeps the class of every multiple of it. -/
theorem sub_if_le_reduces {q u : Nat} (hu : u < 2 * q) (k : Nat) :
    (if q ≤ u then u - q else u) < q ∧ (if q ≤ u then u - q else u) * k % q = u * k % q := by
  split
  case isTrue hle =>
    refine ⟨by omega, ?_⟩
    obtain ⟨d, rfl⟩ := Nat.exists_eq_add_of_le hle
    rw [Nat.add_sub_cancel_left, Nat.add_mul, Nat.mul_add_mod]
  case isFalse hlt => exact ⟨by omega, rfl⟩

/-- R118: with `VMU = −q⁻¹ mod 2^64` and a product below `q * 2^64` the result is the product over `2^64`, reduced. -/
theorem montgomery_exact {q mu a b : Word} (h : validModulus q = true)
    (hmu : (mu.toNat * q.toNat + 1) % 2 ^ 64 = 0) (hab : a.toNat * b.toNat < q.toNat * 2 ^ 64) :
    (montgomery q mu a b).toNat < q.toNat ∧
      (montgomery q mu a b).toNat * 2 ^ 64 % q.toNat = a.toNat * b.toNat % q.toNat := by
  obtain ⟨-, hhigh⟩ := validModulus_bounds h
  have hdvd := dvd_add_reducer_mul hmu (a.toNat * b.toNat)
  have hm : a.toNat * b.toNat % 2 ^ 64 * mu.toNat % 2 ^ 64 < 2 ^ 64 := Nat.mod_lt _ (by decide)
  rw [toNat_montgomery h mu a b rfl]
  generalize a.toNat * b.toNat = t at *
  generalize t % 2 ^ 64 * mu.toNat % 2 ^ 64 = m at *
  obtain ⟨u, hu⟩ := hdvd
  have hu2 : u < 2 * q.toNat := by
    have : m * q.toNat ≤ 2 ^ 64 * q.toNat := Nat.mul_le_mul_right _ hm.le
    omega
  rw [hu, Nat.mul_div_cancel_left _ (by decide)]
  obtain ⟨hlt, hmod⟩ := sub_if_le_reduces hu2 (2 ^ 64)
  rw [Nat.mod_eq_of_lt (hlt.trans (by omega))]
  refine ⟨hlt, hmod.trans ?_⟩
  rw [Nat.mul_comm, ← hu, Nat.add_mul_mod_self_right]

/-! ## The modular commands of the vector unit (R206, R207) -/

/-- Settles O35: each lane of a command is the scalar operation on that lane, which is exact for a valid modulus. -/
theorem modularLanes : Obligations.ModularLanes := by
  unfold Obligations.ModularLanes
  intro m a b w l hl
  simp only [laneOf_modularRegs _ m a b hl, laneOf_butterflyRegs_fst _ m a b w hl, laneOf_butterflyRegs_snd _ m a b w hl]
  refine ⟨fun hq => ?_, fun hq => ?_, fun op inverse vd v1 v2 v => ⟨rfl, rfl⟩⟩
  · simp [modular_of_invalid hq, montgomery_of_invalid hq, butterfly_of_invalid hq]
  · exact ⟨toNat_modular_add hq _ _, toNat_modular_sub hq _ _, toNat_modular_mul hq _ _,
      toNat_butterfly_fst hq _ _ _, toNat_butterfly_snd hq _ _ _,
      toNat_butterfly_inverse_fst hq _ _ _, toNat_butterfly_inverse_snd hq _ _ _,
      toNat_montgomery hq _ _ _ rfl, montgomery_exact hq⟩

end Sys2Proof.Machine
end

section
/-! What integer, multiply, divide and move instructions write: the words of exact integers (R138, R139), and the class of an FP32
code (R156). -/

namespace Sys2Proof.Machine

/-! ## A row as the meaning of an instruction (R135, R136) -/

/-- The instruction reads, computes and writes what the row says, and retires. -/
def Row.MeaningOf (r : Row) (i : Instr) : Prop :=
  ∀ (s : State) (t : Thread), Issues s t r.reads r.rd false →
    exec i s = .next ((s.popPorts t r.reads).finish r.rd (r.value s t))

/-- A row has the meaning of every instruction that computes its value from its sources. -/
theorem Row.meaningOf_of_compute {i : Instr} {r : Row}
    (he : ∀ s, exec i s = compute s r.rd r.reads fun t => r.value s t) : r.MeaningOf i :=
  fun s _ h => (he s).trans (h.compute _)

section Rows
variable {i : Instr} {r : Row} {rd a b : Reg}

theorem meaningOf_row0 {f g : Thread → Word} (hr : some (row0 rd g) = some r) (he : ∀ s, exec i s = compute s rd [] f)
    (hv : ∀ t, f t = g t) : r.MeaningOf i := by
  cases hr
  obtain rfl : f = g := funext hv
  exact Row.meaningOf_of_compute he

theorem meaningOf_row1 {f g : Word → Word} (hr : some (row1 rd a g) = some r) (he : ∀ s, exec i s = compute1 s rd a f)
    (hv : ∀ x, f x = g x) : r.MeaningOf i := by
  cases hr
  obtain rfl : f = g := funext hv
  exact Row.meaningOf_of_compute he

theorem meaningOf_row2 {f g : Word → Word → Word} (hr : some (row2 rd a b g) = some r)
    (he : ∀ s, exec i s = compute2 s rd a b f) (hv : ∀ x y, f x y = g x y) : r.MeaningOf i := by
  cases hr
  obtain rfl : f = g := funext fun x => funext (hv x)
  exact Row.meaningOf_of_compute he

end Rows

/-! ## Words of exact integers (R138) -/

theorem add_eq_wide (x y : Word) : x + y = wide (x.toInt + y.toInt) := by
  simp [wide, BitVec.ofInt_add]

theorem sub_eq_wide (x y : Word) : x - y = wide (x.toInt - y.toInt) := by
  simp [wide, Int.sub_eq_add_neg, BitVec.ofInt_add, BitVec.ofInt_neg, BitVec.sub_eq_add_neg]

theorem mul_eq_wide (x y : Word) : x * y = wide (x.toInt * y.toInt) := by
  simp [wide, BitVec.ofInt_mul]

theorem toInt_simm (imm : BitVec 12) : (simm imm).toInt = imm.toInt :=
  BitVec.toInt_signExtend_of_le (by decide)

theorem upper_eq_wide (imm : BitVec 20) : upper imm = wide (imm.toInt * 2 ^ 12) := by
  have h : ((imm ++ 0#12 : BitVec 32)).toInt = imm.toInt * 2 ^ 12 := by
    rw [BitVec.toInt_append_zero, Int.mul_comm]
  rw [← h]; rfl

theorem bool64_decide (p : Prop) [Decidable p] : bool64 (decide p) = truth p := by
  simp [bool64, truth]

/-! ### Shifts, at every width -/

section Shifts
variable {w : Nat} (x : BitVec w) (k : Nat)

theorem shiftLeft_eq_ofInt : x <<< k = BitVec.ofInt w (shiftUp x.toNat k) := by
  apply BitVec.eq_of_toNat_eq
  rw [BitVec.toNat_shiftLeft, Nat.shiftLeft_eq, shiftUp, BitVec.toNat_ofInt]
  norm_cast

theorem ushiftRight_eq_ofInt : x >>> k = BitVec.ofInt w (shiftDown x.toNat k) := by
  apply BitVec.eq_of_toNat_eq
  have hlt : x.toNat / 2 ^ k < 2 ^ w := (Nat.div_le_self ..).trans_lt x.isLt
  rw [BitVec.toNat_ushiftRight, Nat.shiftRight_eq_div_pow, shiftDown, BitVec.toNat_ofInt]
  norm_cast
  exact (Nat.mod_eq_of_lt hlt).symm

theorem sshiftRight_eq_ofInt : x.sshiftRight k = BitVec.ofInt w (shiftDown x.toInt k) := by
  rw [BitVec.sshiftRight, Int.shiftRight_eq_div_pow, shiftDown]
  norm_cast

end Shifts

/-- The low bits of a shift's second operand. -/
theorem bits_zero {w : Nat} (x : BitVec w) (n : Nat) : bits x 0 n = x.toNat % 2 ^ n := by
  simp [bits]

/-! ### W forms: 32 bits, sign-extended -/

theorem toNat_low32 (x : Word) : ((low32 x).toNat : Int) = unsigned32 x := by
  simp [low32, unsigned32]

theorem toInt_low32 (x : Word) : (low32 x).toInt = signed32 x := by
  rw [BitVec.toInt_eq_toNat_bmod, toNat_low32, signed32]

theorem low32_wide (n : Int) : low32 (wide n) = BitVec.ofInt 32 n := by
  apply BitVec.eq_of_toNat_eq
  simp only [low32, wide, BitVec.extractLsb'_toNat, BitVec.toNat_ofInt, Nat.reducePow, Nat.cast_ofNat, Nat.shiftRight_zero]
  omega

theorem w32_ofInt (n : Int) : w32 (BitVec.ofInt 32 n) = narrow n := by
  rw [w32, BitVec.signExtend, BitVec.toInt_ofInt, narrow]

theorem w32_low32_wide (n : Int) : w32 (low32 (wide n)) = narrow n := by
  rw [low32_wide, w32_ofInt]

theorem w32_shiftLeft (x : Word) (k : Nat) : w32 (low32 x <<< k) = narrow (shiftUp (unsigned32 x) k) := by
  rw [shiftLeft_eq_ofInt, w32_ofInt, toNat_low32]

theorem w32_ushiftRight (x : Word) (k : Nat) : w32 (low32 x >>> k) = narrow (shiftDown (unsigned32 x) k) := by
  rw [ushiftRight_eq_ofInt, w32_ofInt, toNat_low32]

theorem w32_sshiftRight (x : Word) (k : Nat) : w32 ((low32 x).sshiftRight k) = narrow (shiftDown (signed32 x) k) := by
  rw [sshiftRight_eq_ofInt, w32_ofInt, toInt_low32]

/-! ## High products, quotients and remainders (R139) -/

/-- Bits [127:64] of a product of two integers that the 128-bit operands stand for. -/
theorem highProduct_ofInt (m n : Int) :
    highProduct (BitVec.ofInt 128 m) (BitVec.ofInt 128 n) = wide (shiftDown (m * n) 64) := by
  rw [highProduct, ← BitVec.ofInt_mul]
  apply BitVec.eq_of_toNat_eq
  simp only [BitVec.extractLsb'_toNat, BitVec.toNat_ofInt, Nat.reducePow, Nat.cast_ofNat, Nat.shiftRight_eq_div_pow, wide,
    shiftDown, Int.reducePow]
  omega

theorem zeroExtend_eq_ofInt {w v : Nat} (x : BitVec w) : x.zeroExtend v = BitVec.ofInt v x.toNat := by
  rw [BitVec.ofInt_natCast, BitVec.ofNat_toNat]

section Division
variable {w : Nat} (x y : BitVec w)

theorem divS_eq_ofInt : divS x y = BitVec.ofInt w (quotient x.toInt y.toInt) := by
  unfold divS quotient
  by_cases hy : y = 0
  · simp [hy, BitVec.ofInt_neg, BitVec.neg_one_eq_allOnes]
  · have hy' : y.toInt ≠ 0 := fun h => hy (BitVec.eq_of_toInt_eq (by simpa using h))
    apply BitVec.eq_of_toInt_eq
    rw [if_neg hy, if_neg hy', BitVec.toInt_sdiv, BitVec.toInt_ofInt]

theorem remS_eq_ofInt : remS x y = BitVec.ofInt w (remainder x.toInt y.toInt) := by
  unfold remS remainder
  by_cases hy : y = 0
  · simp [hy]
  · have hy' : y.toInt ≠ 0 := fun h => hy (BitVec.eq_of_toInt_eq (by simpa using h))
    rw [if_neg hy, if_neg hy', ← BitVec.toInt_srem, BitVec.ofInt_toInt]

theorem divU_eq_ofInt : divU x y = BitVec.ofInt w (quotient x.toNat y.toNat) := by
  unfold divU quotient
  by_cases hy : y = 0
  · simp [hy, BitVec.ofInt_neg, BitVec.neg_one_eq_allOnes]
  · have hy' : (y.toNat : Int) ≠ 0 := fun h => hy (BitVec.eq_of_toNat_eq (by simpa using h))
    rw [if_neg hy, if_neg hy', ← Int.ofNat_tdiv, ← BitVec.toNat_udiv, BitVec.ofInt_natCast, BitVec.ofNat_toNat,
      BitVec.setWidth_eq]

theorem remU_eq_ofInt : remU x y = BitVec.ofInt w (remainder x.toNat y.toNat) := by
  unfold remU remainder
  by_cases hy : y = 0
  · simp [hy]
  · have hy' : (y.toNat : Int) ≠ 0 := fun h => hy (BitVec.eq_of_toNat_eq (by simpa using h))
    rw [if_neg hy, if_neg hy', ← Int.ofNat_tmod, ← BitVec.toNat_umod, BitVec.ofInt_natCast, BitVec.ofNat_toNat,
      BitVec.setWidth_eq]

end Division

/-! ## The rows (R138, R139, R142, R156) -/

theorem integerRow_meaning {i : Instr} {r : Row} (h : integerRow i = some r) : r.MeaningOf i := by
  cases i with
  | lui rd imm => exact meaningOf_row0 h (fun s => .refl (execLui rd imm s)) fun _ => upper_eq_wide imm
  | auipc rd imm =>
    exact meaningOf_row0 h (fun s => .refl (execAuipc rd imm s)) fun t => by
      rw [upper_eq_wide, wide, wide, BitVec.ofInt_add, BitVec.ofInt_toInt]
  | add rd a b => exact meaningOf_row2 h (fun s => .refl (execAdd rd a b s)) add_eq_wide
  | sub rd a b => exact meaningOf_row2 h (fun s => .refl (execSub rd a b s)) sub_eq_wide
  | addi rd a imm => exact meaningOf_row1 h (fun s => .refl (execAddi rd a imm s)) fun x => simm_eq imm x
  | and rd a b => exact meaningOf_row2 h (fun s => .refl (execAnd rd a b s)) fun _ _ => rfl
  | or rd a b => exact meaningOf_row2 h (fun s => .refl (execOr rd a b s)) fun _ _ => rfl
  | xor rd a b => exact meaningOf_row2 h (fun s => .refl (execXor rd a b s)) fun _ _ => rfl
  | andi rd a imm => exact meaningOf_row1 h (fun s => .refl (execAndi rd a imm s)) fun _ => rfl
  | ori rd a imm => exact meaningOf_row1 h (fun s => .refl (execOri rd a imm s)) fun _ => rfl
  | xori rd a imm => exact meaningOf_row1 h (fun s => .refl (execXori rd a imm s)) fun _ => rfl
  | slt rd a b => exact meaningOf_row2 h (fun s => .refl (execSlt rd a b s)) fun _ _ => bool64_decide _
  | slti rd a imm =>
    exact meaningOf_row1 h (fun s => .refl (execSlti rd a imm s)) fun x => by rw [BitVec.slt, bool64_decide, toInt_simm]
  | sltu rd a b => exact meaningOf_row2 h (fun s => .refl (execSltu rd a b s)) fun _ _ => bool64_decide _
  | sltiu rd a imm => exact meaningOf_row1 h (fun s => .refl (execSltiu rd a imm s)) fun _ => bool64_decide _
  | sll rd a b =>
    exact meaningOf_row2 h (fun s => .refl (execSll rd a b s)) fun x y => by rw [bits_zero]; exact shiftLeft_eq_ofInt x _
  | srl rd a b =>
    exact meaningOf_row2 h (fun s => .refl (execSrl rd a b s)) fun x y => by rw [bits_zero]; exact ushiftRight_eq_ofInt x _
  | sra rd a b =>
    exact meaningOf_row2 h (fun s => .refl (execSra rd a b s)) fun x y => by rw [bits_zero]; exact sshiftRight_eq_ofInt x _
  | slli rd a k => exact meaningOf_row1 h (fun s => .refl (execSlli rd a k s)) fun x => shiftLeft_eq_ofInt x _
  | srli rd a k => exact meaningOf_row1 h (fun s => .refl (execSrli rd a k s)) fun x => ushiftRight_eq_ofInt x _
  | srai rd a k => exact meaningOf_row1 h (fun s => .refl (execSrai rd a k s)) fun x => sshiftRight_eq_ofInt x _
  | addw rd a b => exact meaningOf_row2 h (fun s => .refl (execAddw rd a b s)) fun x y => by rw [add_eq_wide, w32_low32_wide]
  | subw rd a b => exact meaningOf_row2 h (fun s => .refl (execSubw rd a b s)) fun x y => by rw [sub_eq_wide, w32_low32_wide]
  | addiw rd a imm => exact meaningOf_row1 h (fun s => .refl (execAddiw rd a imm s)) fun x => by rw [simm_eq, w32_low32_wide]
  | sllw rd a b =>
    exact meaningOf_row2 h (fun s => .refl (execSllw rd a b s)) fun x y => by rw [bits_zero]; exact w32_shiftLeft x _
  | srlw rd a b =>
    exact meaningOf_row2 h (fun s => .refl (execSrlw rd a b s)) fun x y => by rw [bits_zero]; exact w32_ushiftRight x _
  | sraw rd a b =>
    exact meaningOf_row2 h (fun s => .refl (execSraw rd a b s)) fun x y => by rw [bits_zero]; exact w32_sshiftRight x _
  | slliw rd a k => exact meaningOf_row1 h (fun s => .refl (execSlliw rd a k s)) fun x => w32_shiftLeft x _
  | srliw rd a k => exact meaningOf_row1 h (fun s => .refl (execSrliw rd a k s)) fun x => w32_ushiftRight x _
  | sraiw rd a k => exact meaningOf_row1 h (fun s => .refl (execSraiw rd a k s)) fun x => w32_sshiftRight x _
  | _ => cases h

theorem multiplyRow_meaning {i : Instr} {r : Row} (h : multiplyRow i = some r) : r.MeaningOf i := by
  cases i with
  | mul rd a b => exact meaningOf_row2 h (fun s => .refl (execMul rd a b s)) mul_eq_wide
  | mulh rd a b => exact meaningOf_row2 h (fun s => .refl (execMulh rd a b s)) fun x y => highProduct_ofInt x.toInt y.toInt
  | mulhsu rd a b =>
    exact meaningOf_row2 h (fun s => .refl (execMulhsu rd a b s)) fun x y => by
      rw [zeroExtend_eq_ofInt]
      exact highProduct_ofInt x.toInt y.toNat
  | mulhu rd a b =>
    exact meaningOf_row2 h (fun s => .refl (execMulhu rd a b s)) fun x y => by
      rw [zeroExtend_eq_ofInt, zeroExtend_eq_ofInt, highProduct_ofInt]
  | mulw rd a b => exact meaningOf_row2 h (fun s => .refl (execMulw rd a b s)) fun x y => by rw [mul_eq_wide, w32_low32_wide]
  | div rd a b => exact meaningOf_row2 h (fun s => .refl (execDiv rd a b s)) divS_eq_ofInt
  | divu rd a b => exact meaningOf_row2 h (fun s => .refl (execDivu rd a b s)) divU_eq_ofInt
  | rem rd a b => exact meaningOf_row2 h (fun s => .refl (execRem rd a b s)) remS_eq_ofInt
  | remu rd a b => exact meaningOf_row2 h (fun s => .refl (execRemu rd a b s)) remU_eq_ofInt
  | divw rd a b =>
    exact meaningOf_row2 h (fun s => .refl (execDivw rd a b s)) fun x y => by
      rw [divS_eq_ofInt, w32_ofInt, toInt_low32, toInt_low32]
  | divuw rd a b =>
    exact meaningOf_row2 h (fun s => .refl (execDivuw rd a b s)) fun x y => by
      rw [divU_eq_ofInt, w32_ofInt, toNat_low32, toNat_low32]
  | remw rd a b =>
    exact meaningOf_row2 h (fun s => .refl (execRemw rd a b s)) fun x y => by
      rw [remS_eq_ofInt, w32_ofInt, toInt_low32, toInt_low32]
  | remuw rd a b =>
    exact meaningOf_row2 h (fun s => .refl (execRemuw rd a b s)) fun x y => by
      rw [remU_eq_ofInt, w32_ofInt, toNat_low32, toNat_low32]
  | _ => cases h

theorem moveRow_meaning {i : Instr} {r : Row} (h : moveRow i = some r) : r.MeaningOf i := by
  cases i with
  | csel rd a b p =>
    cases h
    exact Row.meaningOf_of_compute fun _ => rfl
  | pmov rd => exact meaningOf_row0 h (fun s => .refl (execPmov rd s)) fun t => (BitVec.ofNat_toNat 64 (t.p ||| 1)).symm
  | fmvXW rd a => exact meaningOf_row0 h (fun s => .refl (execFmvXW rd a s)) fun _ => rfl
  | fclassS rd a => exact meaningOf_row0 h (fun s => .refl (execFclassS rd a s)) fun _ => rfl
  | _ => cases h

/-! ## The class of an FP32 code (R103, R156) -/

/-- The decoder of FP32 reads a code by its exponent and mantissa fields. -/
theorem fp32_decode {x : Nat} (hx : x < 2 ^ 32) : fp32.decode x = fp32Value x := by
  have hexp : x % 2 ^ 31 / 2 ^ 23 = x / 2 ^ 23 % 2 ^ 8 := by omega
  have hman : x % 2 ^ 31 % 2 ^ 23 = x % 2 ^ 23 := by omega
  have hneg : (x / 2 ^ 31 % 2 == 1) = decide (2 ^ 31 ≤ x) := by
    rw [Bool.beq_eq_decide_eq, decide_eq_decide]; omega
  have hspecial : x % 2 ^ 31 > 0x7F7FFFFF ↔ x / 2 ^ 23 % 2 ^ 8 = 255 := by omega
  simp only [Fmt.decode, fp32, fp32Value, hexp, hman, hneg, hspecial]
  simp [Int.sub_sub]

/-- The three kinds of codes: infinities and NaNs; zeros and subnormal numbers; normal numbers. -/
theorem classify_eq_classBit {x : Nat} (hx : x < 2 ^ 32) : classify x = 2 ^ classBit x := by
  have hman : x % 2 ^ 23 < 8388608 := Nat.mod_lt _ (by decide)
  rw [classify, fp32_decode hx, fp32Value, classBit]
  generalize x / 2 ^ 23 % 2 ^ 8 = e
  generalize x % 2 ^ 23 = m at hman
  rcases eq_or_ne e 255 with rfl | hspecial
  · by_cases hm : m = 0 <;> simp [hm, apply_ite (2 ^ · : Nat → Nat)]
  rcases eq_or_ne e 0 with rfl | hsub
  · by_cases hm : m = 0 <;> simp [hm, hman, apply_ite (2 ^ · : Nat → Nat)]
  · simp [hspecial, hsub, apply_ite (2 ^ · : Nat → Nat)]

/-- Settles O1: each row is the meaning of its instruction, whose operations on words are those on exact integers. -/
theorem resultValues : Obligations.ResultValues := by
  unfold Obligations.ResultValues
  exact ⟨fun _ _ s t h => integerRow_meaning h s t, fun _ _ s t h => multiplyRow_meaning h s t,
    fun _ _ s t h => moveRow_meaning h s t, fun _ hx => classify_eq_classBit hx⟩

end Sys2Proof.Machine
end
